-- ==== Sys2Proof/Word.lean ====
section
/-! DEFINITION. The word types of the module (00 R1: little-endian, bit 0 least significant) and their plainest arithmetic. -/

namespace Sys2Proof

abbrev W8 := BitVec 8
abbrev W16 := BitVec 16
abbrev W32 := BitVec 32
abbrev W48 := BitVec 48
abbrev W64 := BitVec 64

/-- Raw numbers of window registers, uniform registers and condition bits (13 R262, R266). -/
abbrev VReg := BitVec 6
abbrev GReg := BitVec 5
abbrev CBit := BitVec 3

/-- The low and high halves of a pair (04 R74). -/
def W64.lo (x : W64) : W32 := x.setWidth 32
def W64.hi (x : W64) : W32 := (x >>> 32).setWidth 32
def W32.pair (lo hi : W32) : W64 := hi ++ lo

/-- A register number that names a pair (04 R74) or a quad (13 R263). -/
def VReg.even (n : VReg) : Bool := n.toNat % 2 == 0
def VReg.quad (n : VReg) : Bool := n.toNat % 4 == 0
def GReg.even (n : GReg) : Bool := n.toNat % 2 == 0

end Sys2Proof
end

