-- ==== Sys2Proof/Syntax.lean ====
section
/-! DEFINITION. The instructions and the module's other indivisible steps, one constructor for each row of
spec/opcode_table.json. The encoded instructions carry their operand fields (13 R262-R269); the steps without an
encoding (95_what_each_step_holds.md) carry what the outside world or the part's own units bring to them. -/

namespace Sys2Proof

/-- A source named by an S7 code (13 Table 13.2). -/
inductive Src7 where
  | v (n : BitVec 6)
  | g (n : BitVec 5)
  | int (n : BitVec 4)
  | minusOne
  | one
  | half
  | two
  | minusOneF
  deriving DecidableEq, Repr

/-- A source named by an S6 code (13 R266). -/
inductive Src6 where
  | g (n : BitVec 5)
  | int (n : BitVec 4)
  | minusOne
  deriving DecidableEq, Repr

/-- The operand kinds of 13 Table 13.3. -/
inductive Kind where
  | i | l | f | h | c | z | a
  deriving DecidableEq, Repr

/-- Integer conditions in the ICMP order (15 Table 15.8). -/
inductive Cc where
  | eq | ne | lt | le | gt | ge | ltu | leu | gtu | geu
  deriving DecidableEq, Repr

/-- ICMPI's conditions (15 R325). -/
inductive CcImm where
  | eq | ne | lt | le | gt | ge | ltu | geu
  deriving DecidableEq, Repr

/-- Floating-point predicates (15 Table 15.8). -/
inductive FPred where
  | eq | ne | lt | le | gt | ge | ord | uno
  deriving DecidableEq, Repr

/-- How a compare combines with the old condition bit (15 R315). -/
inductive Comb where
  | set | and | or | xor
  deriving DecidableEq, Repr

/-- Rounding modes (05 R93). -/
inductive Rm where
  | rne | rz | rup | rdn
  deriving DecidableEq, Repr

/-- The two packed half-precision formats (15 R322). -/
inductive Half where
  | fp16 | bf16
  deriving DecidableEq, Repr

/-- Complex element types (14 R283). -/
inductive CType where
  | fp16 | bf16 | fp32
  deriving DecidableEq, Repr

/-- The format codes 0 to 13 of 05 Table 5.2. -/
inductive Fmt where
  | i32 | n32 | i16 | n16 | i8 | n8 | fp32 | fp16 | bf16 | e4m3 | e5m2 | e2m1 | h4 | h8
  deriving DecidableEq, Repr

/-- The narrow formats of QPACK, QUNPK and QSCL, codes 9 to 14 (16 R354). -/
inductive NFmt where
  | e4m3 | e5m2 | e2m1 | h4 | h8 | q4n
  deriving DecidableEq, Repr

/-- Access sizes of a load: b, h, w, d, q, sb, sh (15 R328). -/
inductive LdSize where
  | b | h | w | d | q | sb | sh
  deriving DecidableEq, Repr

/-- Access sizes of a store (17 R371). -/
inductive StSize where
  | b | h | w | d | q
  deriving DecidableEq, Repr

/-- Access widths of LDT and STT (15 R330). -/
inductive TSize where
  | w | d | q
  deriving DecidableEq, Repr

/-- Tile views (06 R123). -/
inductive View where
  | row | col
  deriving DecidableEq, Repr

/-- The scopes of 07 Table 7.1. -/
inductive Scope where
  | crew | col | die | mod | host
  deriving DecidableEq, Repr

/-- Atomic operations (14 Table 14.5). -/
inductive Aop where
  | add | sub | and | or | xor | min | max | minu | maxu | exch | fadd | bfmax16
  deriving DecidableEq, Repr

/-- The mask field of ATOM and ATOMN (02 R47). -/
inductive AtomMask where
  | none | c0 | c1 | c2
  deriving DecidableEq, Repr

/-- MDFT's lengths (09 R206). -/
inductive DftLen where
  | n16 | n32 | n64
  deriving DecidableEq, Repr

/-- PREF's levels (16 R353). -/
inductive PrefLevel where
  | columnCache | l2 | stacked
  deriving DecidableEq, Repr

/-- The special registers 0 to 22 of 04 Table 4.2. -/
inductive SysReg where
  | tid | crew | col | die | stage | nthr | recAddr | clkLo | clkHi | nsLo | nsHi | fb | rsd | fpf | fp4x
  | cause | epcLo | epcHi | ebadLo | ebadHi | eword | pose | ways
  deriving DecidableEq, Repr

/-- The two special registers that MOVT may write (04 R77). -/
inductive SysRegRW where
  | fpf | fp4x
  deriving DecidableEq, Repr

/-! What the steps without an encoding carry. -/

/-- A place that holds a crew: die, physical column, crew slot. -/
structure CrewAt where
  die : Nat
  col : Nat
  slot : Nat
  deriving DecidableEq, Repr

/-- One thread of a crew. -/
structure ThreadAt where
  crew : CrewAt
  tid : Nat
  deriving DecidableEq, Repr

/-- A stage: its region's RCB address and its index (03 R51). -/
structure StageAt where
  rcb : Nat
  stage : Nat
  deriving DecidableEq, Repr

/-- Where the host reads: an offset of BAR0 or of BAR2 (12 R240, log 54). -/
inductive HostReadAt where
  | bar0 (off : Nat)
  | bar2 (off : Nat)
  deriving DecidableEq, Repr

/-- A firmware image as the boot ROM finds it: its bytes, the public key that comes with it, and its ML-DSA-65
signature (12 R255). -/
structure FirmwareImage where
  bytes : List W8
  key : List W8
  signature : List W8
  deriving DecidableEq, Repr

/-- What bring-up finds (12 R255, R260, 01 R11, R12): the columns of each die that pass self-test, the revisions, the
UCIe modules that train, each die's firmware image, and whether power was kept (11 R238). -/
structure BringUp where
  pass0 : BitVec 104
  pass1 : BitVec 104
  rev : W32
  ucieTrained : Nat
  image0 : FirmwareImage
  image1 : FirmwareImage
  warm : Bool
  deriving DecidableEq, Repr

/-- The fields a gaze or pose packet carries (12 Table 12.4). -/
structure PoseData where
  gaze : List W32
  pos : List W32
  quat : List W32
  deriving DecidableEq, Repr

/-- A sensor-link packet as it arrives (12 R250): its length in bytes, whether its CRC-32 is good, and what it is. -/
inductive SensorKind where
  | gazeOrPose (data : PoseData)
  | unknown
  deriving DecidableEq, Repr

structure SensorPacket where
  length : Nat
  crcGood : Bool
  kind : SensorKind
  deriving DecidableEq, Repr

/-- The AtomicOps the function completes (12 R240). -/
inductive PcieAtomic where
  | fetchAdd (v : W64)
  | swap (v : W64)
  | cas (cmp new : W64)
  | other
  deriving DecidableEq, Repr

/-- A fixed-function engine of a column (03 R71). -/
inductive FfUnit where
  | tex | trav | rast
  deriving DecidableEq, Repr

/-- Why a column is fenced (11 R233), and what can still be read of it (11 R233, R234). -/
inductive FenceWhy where
  | verticalBus | bankRow | remap | fixedFunction
  deriving DecidableEq, Repr

structure FenceInfo where
  why : FenceWhy
  scratchReadable : Bool
  /-- home line numbers of dirty lines of the bank that do not read back correctly -/
  badLines : List Nat
  deriving DecidableEq, Repr

/-- Causes of a fatal error (11 R238, Table 11.7). -/
inductive FatalCause where
  | ucieLoss | scheduler | queueManager | accessTable | watchdog
  deriving DecidableEq, Repr

/-- Which way a halyard message travels (12 R252). -/
inductive HalyardDir where
  | toLeaf | toGlobal
  deriving DecidableEq, Repr

/-- What the management core does to one translation entry (08 R184, 07 R167): the physical address of the entry,
the level of its table, its new value, the page freed by the change (if any), the size of that page, and whether system
software asked. -/
structure LeafChange where
  at_ : Nat
  level : Nat
  value : W64
  freed : Option (Nat × Nat)
  bySystem : Bool
  deriving DecidableEq, Repr

/-- The paging service's answer (08 R183): install an entry, or refuse. -/
inductive PageAnswer where
  | map (at_ : Nat) (entry : W64)
  | refuse
  deriving DecidableEq, Repr

/-- The state of one entry of a remap-table copy at a scrub (11 R235). -/
inductive RemapCheck where
  | good | correctable | uncorrectable
  deriving DecidableEq, Repr

/-- Why a save runs (11 Table 11.4). -/
inductive SaveWhy where
  | preemption | migration | fencing
  deriving DecidableEq, Repr

inductive Instr where
  -- system
  | movs (d : VReg) (r : SysReg)
  | movt (r : SysRegRW) (a : Src7)
  | scway (x : VReg)
  | scfl (x : VReg)
  | scwayComplete (die col : Nat)
  | scflComplete (die col : Nat)
  | trap (code : W16)
  | eret (next : Bool)
  | brk (code : W16)
  -- integer
  | add (d : VReg) (a b : Src7)
  | addc (d : VReg) (a b : Src7)
  | sub (d : VReg) (a b : Src7)
  | subb (d : VReg) (a b : Src7)
  | and (d : VReg) (a b : Src7)
  | or (d : VReg) (a b : Src7)
  | xor (d : VReg) (a b : Src7)
  | andn (d : VReg) (a b : Src7)
  | shl (d : VReg) (a b : Src7)
  | shr (d : VReg) (a b : Src7)
  | sar (d : VReg) (a b : Src7)
  | rotl (d : VReg) (a b : Src7)
  | min (d : VReg) (a b : Src7)
  | max (d : VReg) (a b : Src7)
  | minu (d : VReg) (a b : Src7)
  | maxu (d : VReg) (a b : Src7)
  | mul (d : VReg) (a b : Src7)
  | mulh (d : VReg) (a b : Src7)
  | mulhu (d : VReg) (a b : Src7)
  | divs (d : VReg) (a b : Src7)
  | divu (d : VReg) (a b : Src7)
  | rems (d : VReg) (a b : Src7)
  | remu (d : VReg) (a b : Src7)
  | addw (d : VReg) (a b : Src7)
  | subw (d : VReg) (a b : Src7)
  | shlw (d : VReg) (a b : Src7)
  | shrw (d : VReg) (a b : Src7)
  | bprm (d : VReg) (a b : Src7)
  | lea (d : VReg) (a b : Src7) (s : BitVec 2)
  | neg (d : VReg) (a : Src7)
  | abs (d : VReg) (a : Src7)
  | not (d : VReg) (a : Src7)
  | clz (d : VReg) (a : Src7)
  | ctz (d : VReg) (a : Src7)
  | popc (d : VReg) (a : Src7)
  | brev (d : VReg) (a : Src7)
  | mov (d : VReg) (a : Src7)
  | icmp (cc : Cc) (comb : Comb) (k : CBit) (a b : Src7)
  | sel (d : VReg) (a b : Src7) (k : CBit) (inv : Bool)
  | bfx (x y z : VReg) (lenM1 : BitVec 5) (sgn : Bool)
  | bfi (x y z : VReg) (lenM1 : BitVec 5)
  | mad (d a b c : VReg)
  | icmpi (cc : CcImm) (k : CBit) (a : Src7) (imm : BitVec 11)
  | addi (d : VReg) (a : Src7) (imm : BitVec 11)
  | andi (d : VReg) (a : Src7) (imm : BitVec 11)
  | ori (d : VReg) (a : Src7) (imm : BitVec 11)
  | xori (d : VReg) (a : Src7) (imm : BitVec 11)
  | shli (d : VReg) (a : Src7) (n : BitVec 5)
  | shri (d : VReg) (a : Src7) (n : BitVec 5)
  | sari (d : VReg) (a : Src7) (n : BitVec 5)
  | moviLo (d : VReg) (imm : W16)
  | moviSx (d : VReg) (imm : W16)
  | moviHi (d : VReg) (imm : W16)
  -- floating point
  | fadd (rm : Rm) (d : VReg) (a b : Src7)
  | fsub (rm : Rm) (d : VReg) (a b : Src7)
  | fmul (rm : Rm) (d : VReg) (a b : Src7)
  | fdiv (rm : Rm) (d : VReg) (a b : Src7)
  | fmin (d : VReg) (a b : Src7)
  | fmax (d : VReg) (a b : Src7)
  | fcls (d : VReg) (a : Src7)
  | frnd (rm : Rm) (d : VReg) (a : Src7)
  | fcmp (p : FPred) (comb : Comb) (k : CBit) (a b : Src7)
  | frcp (d : VReg) (a : Src7)
  | frsq (d : VReg) (a : Src7)
  | fsqt (d : VReg) (a : Src7)
  | fexp (d : VReg) (a : Src7)
  | flog (d : VReg) (a : Src7)
  | fspi (d : VReg) (a : Src7)
  | fcpi (d : VReg) (a : Src7)
  | ffma (d a b c : VReg)
  | hadd2 (fmt : Half) (d : VReg) (a b : Src7)
  | hsub2 (fmt : Half) (d : VReg) (a b : Src7)
  | hmul2 (fmt : Half) (d : VReg) (a b : Src7)
  | hmin2 (fmt : Half) (d : VReg) (a b : Src7)
  | hmax2 (fmt : Half) (d : VReg) (a b : Src7)
  | hfma2F16 (d a b c : VReg)
  | hfma2Bf16 (d a b c : VReg)
  /-- k is the even condition bit 2·k -/
  | hcmp2 (p : FPred) (fmt : Half) (comb : Comb) (k : BitVec 2) (a b : Src7)
  -- complex and twiddle
  | cadd (t : CType) (d : VReg) (a b : Src7)
  | csub (t : CType) (d : VReg) (a b : Src7)
  | cmul (t : CType) (d : VReg) (a b : Src7)
  | cmag (t : CType) (d : VReg) (a : Src7)
  | carg (t : CType) (d : VReg) (a : Src7)
  | cexi (t : CType) (d : VReg) (a : Src7)
  | crot (t : CType) (d : VReg) (a b : Src7)
  | cfmaFp16 (d a b c : VReg)
  | cfmaBf16 (d a b c : VReg)
  | cfmaFp32 (d a b c : VReg)
  | twid (t : CType) (inv : Bool) (d : VReg) (a : Src7) (log2n : BitVec 5)
  -- cross-thread
  | bfly (t : CType) (x y z : VReg) (log2dist : BitVec 3)
  | shufIdx (d : VReg) (a b : Src7)
  | shufXor (d : VReg) (a b : Src7)
  | shufUp (d : VReg) (a b : Src7)
  | shufDown (d : VReg) (a b : Src7)
  | voteAll (d : VReg) (k : CBit)
  | voteAny (d : VReg) (k : CBit)
  | voteBallot (d : VReg) (k : CBit)
  -- copy and barrier, matrix
  | xcopy (ft : Bool) (scope : Scope) (acq rel : Bool) (x y : VReg)
  | xlut (x : VReg) (slot : BitVec 2) (z : VReg)
  | obres (ob : BitVec 4) (y : VReg) (cv : CBit)
  | obrel (ob : BitVec 4) (cv : CBit)
  | obld (ob : BitVec 4) (y z : VReg) (cv : CBit)
  | obgat (ob : BitVec 4) (y z : VReg) (cv : CBit)
  | mma (acc : BitVec 3) (a b : BitVec 4) (cv : CBit)
  | mmac (acc : BitVec 3) (a b : BitVec 4) (cv : CBit)
  | mdft (inv : Bool) (n : DftLen) (acc : BitVec 3) (a : BitVec 4) (cv : CBit)
  | mdrn (acc : BitVec 3) (y : VReg) (cv : CBit)
  | mzro (i48q2 : Bool) (acc : BitVec 3) (cv : CBit)
  -- convert and quantise
  | cvt (dst src : Fmt) (rm : Rm) (sat : Bool) (x y : VReg)
  | qpack (nf : NFmt) (wf : CType) (x y z : VReg)
  | qunpk (nf : NFmt) (wf : CType) (x y z : VReg)
  | qscl (nf : NFmt) (wf : CType) (x y z : VReg)
  | rng (x y z : VReg) (key : BitVec 5)
  | tkget (acc : BitVec 3) (cv : CBit)
  | tkput (acc : BitVec 3) (cv : CBit)
  | acld (x : VReg) (acc : BitVec 3) (z : VReg)
  | acst (x : VReg) (acc : BitVec 3) (z : VReg)
  | mtwn (cv : CBit)
  -- condition bits
  | cbop (x y z : CBit) (table : BitVec 4)
  | cbmvGet (x : VReg) (y : CBit)
  | cbmvPut (x : VReg) (y : CBit)
  | cbmvGetAll (x : VReg)
  | cbmvPutAll (x : VReg)
  -- queues and fixed-function
  | enq (x y : VReg)
  | enqNb (x y : VReg)
  | range (x : VReg) (unit : BitVec 4)
  | qstat (x y : VReg)
  | tex (x y z : VReg)
  | trav (x y : VReg)
  | rast (y : VReg)
  -- control
  | bra (off : BitVec 19)
  | bc (k : CBit) (inv : Bool) (hint : Bool) (off : BitVec 19)
  | call (w : BitVec 6) (off : BitVec 18)
  | callc (w : BitVec 6) (k : CBit) (inv : Bool) (off : BitVec 14)
  | bri (a : Src7)
  | calli (w : BitVec 6) (y : VReg)
  | retc (k : CBit) (inv : Bool)
  | nap (a : Src7) (mask : BitVec 3)
  | peal (n : VReg)
  | conv (cv : CBit)
  | convInit (cv : CBit) (y : VReg)
  | convQuery (z : VReg) (cv : CBit)
  -- memory and cache
  | ldg (sz : LdSize) (t base : VReg) (mask : Option CBit) (imm : BitVec 5)
  | stg (sz : StSize) (t base : VReg) (mask : Option CBit) (imm : BitVec 5)
  | ldl (sz : LdSize) (t base : VReg) (mask : Option CBit) (imm : BitVec 5)
  | stl (sz : StSize) (t base : VReg) (mask : Option CBit) (imm : BitVec 5)
  | ldt (view : View) (sz : TSize) (t base : VReg) (mask : Option CBit) (imm : BitVec 5)
  | stt (view : View) (sz : TSize) (t base : VReg) (mask : Option CBit) (imm : BitVec 5)
  | atom (op : Aop) (mask : AtomMask) (x y z : VReg)
  | atomn (op : Aop) (mask : AtomMask) (y z : VReg)
  | cas (d a b c : VReg)
  | pref (level : PrefLevel) (base : VReg) (mask : Option CBit) (imm : BitVec 5)
  | fence (scope : Scope)
  | fenceHostTransmitted (t : ThreadAt)
  | bari (x y : VReg)
  | bara (x y : VReg)
  | barw (x y : VReg)
  | bart (z x y : VReg)
  | flsetE (x y : VReg)
  | flsetF (x y : VReg)
  | cwb (x y : VReg)
  | cinv (x y : VReg)
  | iinv (x y : VReg)
  | ipre (x y : VReg)
  | ipin (x y : VReg)
  | iunp (x y : VReg)
  -- uniform
  | uadd (d : GReg) (a b : Src6)
  | usub (d : GReg) (a b : Src6)
  | uand (d : GReg) (a b : Src6)
  | uor (d : GReg) (a b : Src6)
  | uxor (d : GReg) (a b : Src6)
  | ushl (d : GReg) (a b : Src6)
  | ushr (d : GReg) (a b : Src6)
  | usar (d : GReg) (a b : Src6)
  | umul (d : GReg) (a b : Src6)
  | umin (d : GReg) (a b : Src6)
  | umax (d : GReg) (a b : Src6)
  | umov (d : GReg) (a : Src6)
  | ulea (d : GReg) (a b : Src6) (s : BitVec 2)
  | ucmp (cc : Cc) (d : GReg) (a b : Src6)
  | usel (d : GReg) (a b : Src6)
  | umoviLo (d : GReg) (imm : W16)
  | umoviSx (d : GReg) (imm : W16)
  | umoviHi (d : GReg) (imm : W16)
  | uld (d base : GReg) (imm : BitVec 14)
  -- host registers, submission and rings
  | resetBringUp (b : BringUp)
  | submissionDoorbell (tail : W32)
  | sqctlWrite (v : W32)
  | rsizeWrite (k : Nat) (v : W32)
  | detack (v : W32)
  | framePointerWrite (die : Nat) (v : W64)
  | registerWrite (master : Nat) (addr : Nat) (size : Nat) (v : W64)
  | hostRingEntryWrite (k : Nat)
  -- recovery mailbox
  -- host access and link
  -- sensor and display
  | scanoutFieldStart (die : Nat)
  -- scheduling
  | columnGrant (die : Nat)
  | crewSave (c : CrewAt) (why : SaveWhy)
  | saveTimeout (c : CrewAt)
  | crewResume (s : StageAt) (col : Nat)
  | crewTimerLapse (s : StageAt)
  | remoteEnqAccept (die : Nat)
  | enqQueueRoom (t : ThreadAt)
  | crewLaunch (s : StageAt) (col : Nat)
  | crewStart (c : CrewAt)
  | crewEnd (c : CrewAt)
  -- issue and time
  | ageingPromotion (die col : Nat)
  -- translation
  | pageWalk (die : Nat)
  | walkComplete (die : Nat) (page : Nat)
  | pagingServiceReply (die : Nat) (page : Nat) (answer : PageAnswer)
  | taggedReply (die col tag : Nat)
  -- engines
  | copySectorRead (die col tag : Nat)
  | copySectorLand (die col tag : Nat)
  | amaxFold (die col tag : Nat)
  | obresSpaceFreed (c : CrewAt)
  | matrixEngineHang (die col : Nat)
  | ffRequestTakeup (die col : Nat) (unit : FfUnit)
  | texReply (die col tag : Nat)
  | travReply (die col tag : Nat)
  | rastRun (die col tag : Nat)
  -- reliability
  | thermalMigration (c : CrewAt) (toCol : Nat)
  | columnFence (die col : Nat) (info : FenceInfo)
  | faultRecordAppend (die : Nat)
  | thermalShutdown (die : Nat)
  | remapScrub (die bank : Nat) (upper lower : RemapCheck)
  | fatalError (cause : FatalCause) (die : Nat)
  | dieFreeze (die : Nat)
  | halyardMessage (die cluster : Nat) (dir : HalyardDir)
  -- waits that end
  | napTimeout (t : ThreadAt)
  | yieldExpiry (t : ThreadAt)
  | matrixOperationFinished (die col : Nat)
  | matrixEngineResetComplete (die col : Nat)
  | cwbComplete (t : ThreadAt)
  | cinvComplete (t : ThreadAt)
  | iinvComplete (t : ThreadAt)
  | ipinComplete (t : ThreadAt)
  | instructionFetchReturn (t : ThreadAt)
  -- events of the outside world
  | scanoutLutWrite (die colour entry : Nat) (size : Nat) (v : W64)
  | accessTableWrite (die target master : Nat) (windows : List (W64 × W64))
  | hostAtomicop (off size : Nat) (op : PcieAtomic)
  /-- a host read through BAR2, or, as the function's other memory, through BAR0 (12 R240) -/
  | hostBar2Read (at_ : HostReadAt) (size : Nat)
  | hostBar2Write (off : Nat) (bytes : List W8)
  | sensorPacket (p : SensorPacket)
  | leafChange (ch : LeafChange)
  -- without operands
  | nop
  | syscIdentity
  | syscBudget
  | syscDispose
  | ret
  | exit
  | yield
  | fbar
  | launchPacket
  | dispose
  | pagereply
  | clearkill
  | qread
  | qdrain
  | qlaunch
  | gsreset
  | colstate
  | counts
  | attest
  | loadcode
  | hostDetach
  | linkRetrain
  | poseMirror
  | issueCycle
  | ptsTick
  | quiescenceUpdate
  | powerLoss
  deriving DecidableEq, Repr

end Sys2Proof
end

