-- ==== Sys2Proof/WellFormed.lean ====
section
/-! DEFINITION. The checks of 13 R263, R264, R267-R270 and of the entries that a word meets to be an instruction, on
the instruction as syntax; and the ranges of what a step without an encoding carries (01 R7, R11; 02 R24). -/

namespace Sys2Proof

/-- A source is legal in an operand kind (13 Table 13.3): kinds L, Z and A need even registers, kind L takes no float
constant, kind A takes no constant. -/
def Src7.ok : Kind → Src7 → Bool
  | .i, _ | .f, _ | .h, _ | .c, _ => true
  | .l, .v n | .z, .v n | .a, .v n => VReg.even n
  | .l, .g n | .z, .g n | .a, .g n => GReg.even n
  | .l, .int _ | .l, .minusOne => true
  | .l, _ => false
  | .z, _ => true
  | .a, _ => false

/-- The operand kind of a complex major (13 Table 13.5). -/
def CType.kind : CType → Kind
  | .fp16 | .bf16 => .c
  | .fp32 => .z

/-- A register that holds a complex value of the type: even when it is a pair (14 R283). -/
def CType.regOk : CType → VReg → Bool
  | .fp32, n => n.even
  | _, _ => true

/-- The narrow formats with eight elements to a register (16 R354). -/
def NFmt.fourBit : NFmt → Bool
  | .e2m1 | .h4 | .q4n => true
  | .e4m3 | .e5m2 | .h8 => false

/-- Elements of a packed register and registers of a wide group (16 R354). -/
def NFmt.count (n : NFmt) : Nat := if n.fourBit then 8 else 4
def NFmt.group (n : NFmt) : CType → Nat
  | .fp32 => n.count
  | _ => n.count / 2

def CrewAt.wf (c : CrewAt) : Bool := c.die < 2 && c.col < 104 && c.slot < 64
def ThreadAt.wf (t : ThreadAt) : Bool := t.crew.wf && t.tid < 32
def at_ (die col : Nat) : Bool := die < 2 && col < 104

/-- An instruction meets every constraint of its encoding's tables (13 R267, R271). -/
def Instr.wf : Instr → Bool
  | .nop | .syscIdentity | .syscBudget | .syscDispose | .scway _ | .scfl _ | .trap _ | .eret _ | .brk _ => true
  | .movs _ _ => true
  | .movt _ a => a.ok .i
  | .scwayComplete d c | .scflComplete d c => at_ d c
  | .add _ a b | .addc _ a b | .sub _ a b | .subb _ a b | .and _ a b | .or _ a b | .xor _ a b | .andn _ a b
  | .shl _ a b | .shr _ a b | .sar _ a b | .rotl _ a b | .min _ a b | .max _ a b | .minu _ a b | .maxu _ a b
  | .mul _ a b | .mulh _ a b | .mulhu _ a b | .divs _ a b | .divu _ a b | .rems _ a b | .remu _ a b
  | .bprm _ a b | .lea _ a b _ | .icmp _ _ _ a b | .sel _ a b _ _ => a.ok .i && b.ok .i
  | .addw d a b | .subw d a b => d.even && a.ok .l && b.ok .l
  | .shlw d a b | .shrw d a b => d.even && a.ok .l && b.ok .i
  | .neg _ a | .abs _ a | .not _ a | .clz _ a | .ctz _ a | .popc _ a | .brev _ a | .mov _ a => a.ok .i
  | .bfx _ _ _ _ _ | .bfi _ _ _ _ | .mad _ _ _ _ => true
  | .icmpi _ _ a _ | .addi _ a _ | .andi _ a _ | .ori _ a _ | .xori _ a _ | .shli _ a _ | .shri _ a _ | .sari _ a _ => a.ok .i
  | .moviLo _ _ | .moviSx _ _ | .moviHi _ _ => true
  | .fadd _ _ a b | .fsub _ _ a b | .fmul _ _ a b | .fdiv _ _ a b | .fmin _ a b | .fmax _ a b
  | .fcmp _ _ _ a b => a.ok .f && b.ok .f
  | .fcls _ a | .frnd _ _ a | .frcp _ a | .frsq _ a | .fsqt _ a | .fexp _ a | .flog _ a | .fspi _ a | .fcpi _ a => a.ok .f
  | .ffma _ _ _ _ | .hfma2F16 _ _ _ _ | .hfma2Bf16 _ _ _ _ => true
  | .hadd2 _ _ a b | .hsub2 _ _ a b | .hmul2 _ _ a b | .hmin2 _ _ a b | .hmax2 _ _ a b
  | .hcmp2 _ _ _ _ a b => a.ok .h && b.ok .h
  | .cadd t d a b | .csub t d a b | .cmul t d a b | .crot t d a b => t.regOk d && a.ok t.kind && b.ok t.kind
  | .cmag t d a | .carg t d a | .cexi t d a => t.regOk d && a.ok t.kind
  | .cfmaFp16 _ _ _ _ | .cfmaBf16 _ _ _ _ => true
  | .cfmaFp32 d a b c => d.even && a.even && b.even && c.even
  | .twid t _ d a n => t.regOk d && a.ok .i && 1 ≤ n.toNat && n.toNat ≤ 24
  | .bfly t x y z n => t.regOk x && t.regOk y && t.regOk z && n.toNat ≤ 4
  | .shufIdx _ a b | .shufXor _ a b | .shufUp _ a b | .shufDown _ a b => a.ok .i && b.ok .i
  | .voteAll _ _ | .voteAny _ _ | .voteBallot _ _ => true
  | .xcopy _ _ _ _ _ _ | .xlut _ _ _ | .obres _ _ _ | .obrel _ _ | .obgat _ _ _ _ => true
  | .obld _ y _ _ => y.even
  | .mma _ _ _ _ | .mmac _ _ _ _ | .mdrn _ _ _ | .mzro _ _ _ => true
  | .mdft _ n acc _ _ => match n with
    | .n64 => acc.toNat % 2 == 0
    | .n16 | .n32 => true
  | .cvt dst _ rm _ _ _ => match dst with
    | .h4 | .h8 => rm == .rne
    | _ => true
  | .qpack nf wf _ y z => y.toNat % nf.group wf == 0 && (nf != .q4n || z.even)
  | .qunpk nf wf x _ z => x.toNat % nf.group wf == 0 && (nf != .q4n || z.even)
  | .qscl nf _ _ _ z => nf == .q4n || z == 0
  | .rng _ _ _ k => k.toNat % 2 == 0 && k.toNat ≤ 28
  | .tkget _ _ | .tkput _ _ | .acld _ _ _ | .acst _ _ _ | .mtwn _ => true
  | .cbop _ _ _ _ | .cbmvGet _ _ | .cbmvPut _ _ | .cbmvGetAll _ | .cbmvPutAll _ => true
  | .enq _ _ | .enqNb _ _ => true
  | .range x _ => x.even
  | .qstat x _ => x.even
  | .tex x _ z => x.quad && z.even
  | .trav x _ => x.quad
  | .rast _ => true
  | .bra _ | .bc _ _ _ _ | .call _ _ | .callc _ _ _ _ | .ret | .retc _ _ | .exit | .yield | .peal _ => true
  | .bri a => a.ok .a
  | .calli _ y => y.even
  | .nap a _ => a.ok .i
  | .conv _ | .convInit _ _ => true
  | .convQuery z _ => z.even
  | .ldg sz t base _ _ => base.even && (match sz with
    | .d => t.even
    | .q => t.quad
    | _ => true)
  | .stg sz t base _ _ => base.even && (match sz with
    | .d => t.even
    | .q => t.quad
    | _ => true)
  | .ldl sz t _ _ _ => match sz with
    | .d => t.even
    | .q => t.quad
    | _ => true
  | .stl sz t _ _ _ => match sz with
    | .d => t.even
    | .q => t.quad
    | _ => true
  | .ldt _ sz t _ _ _ | .stt _ sz t _ _ _ => match sz with
    | .w => true
    | .d => t.even
    | .q => t.quad
  | .atom _ _ _ y _ | .atomn _ _ y _ => y.even
  | .cas _ a _ _ => a.even
  | .pref _ base _ _ => base.even
  | .fence _ => true
  | .fenceHostTransmitted t => t.wf
  | .bari _ _ | .bara _ _ | .barw _ _ | .bart _ _ _ | .flsetE _ _ | .flsetF _ _ => true
  | .cwb x _ | .cinv x _ | .iinv x _ | .ipre x _ | .ipin x _ | .iunp x _ => x.even
  | .fbar => true
  | .uadd _ _ _ | .usub _ _ _ | .uand _ _ _ | .uor _ _ _ | .uxor _ _ _ | .ushl _ _ _ | .ushr _ _ _ | .usar _ _ _
  | .umul _ _ _ | .umin _ _ _ | .umax _ _ _ | .umov _ _ | .ulea _ _ _ _ | .ucmp _ _ _ _ | .usel _ _ _
  | .umoviLo _ _ | .umoviSx _ _ | .umoviHi _ _ => true
  | .uld _ base imm => base.even && imm.toNat % 4 == 0
  | .resetBringUp b => b.ucieTrained ≤ 4
  | .submissionDoorbell _ | .sqctlWrite _ | .detack _ => true
  | .rsizeWrite k _ => k < 3
  | .framePointerWrite d _ => d < 2
  | .scanoutLutWrite d c e sz _ => d < 2 && c < 3 && e < 4096 && (sz == 4 && e % 2 == 0 || sz == 8 && e % 4 == 0)
  | .accessTableWrite d t m ws => d < 2 && t < 7 && m < 256 && ws.length == 4
  | .registerWrite m _ _ _ => m < 256
  | .launchPacket => true
  | .hostRingEntryWrite k => k < 3
  | .dispose | .pagereply | .clearkill | .qread | .qdrain | .qlaunch | .gsreset | .colstate | .counts | .attest
  | .loadcode => true
  | .hostBar2Read _ _ | .hostBar2Write _ _ | .hostAtomicop _ _ _ | .hostDetach | .linkRetrain => true
  | .sensorPacket _ | .poseMirror => true
  | .scanoutFieldStart d | .columnGrant d => d < 2
  | .crewSave c _ | .saveTimeout c | .crewStart c | .crewEnd c | .obresSpaceFreed c => c.wf
  | .crewResume _ col | .crewLaunch _ col => col < 104
  | .crewTimerLapse _ => true
  | .remoteEnqAccept d => d < 2
  | .enqQueueRoom t => t.wf
  | .issueCycle | .ptsTick | .quiescenceUpdate => true
  | .ageingPromotion d c => at_ d c
  | .leafChange _ => true
  | .pageWalk d | .walkComplete d _ | .pagingServiceReply d _ _ => d < 2
  | .taggedReply d c _ | .copySectorRead d c _ | .copySectorLand d c _ | .amaxFold d c _ | .texReply d c _
  | .travReply d c _ | .rastRun d c _ => at_ d c
  | .matrixEngineHang d c | .matrixOperationFinished d c | .matrixEngineResetComplete d c => at_ d c
  | .ffRequestTakeup d c _ => at_ d c
  | .thermalMigration c dst => c.wf && dst < 104
  | .thermalShutdown d => d < 2
  | .columnFence d c _ => at_ d c
  | .remapScrub d bank _ _ => at_ d bank
  | .faultRecordAppend d => d < 2
  | .fatalError _ d | .dieFreeze d => d < 2
  | .halyardMessage d cl _ => d < 2 && cl < 13
  | .napTimeout t | .yieldExpiry t | .cwbComplete t | .cinvComplete t | .iinvComplete t | .ipinComplete t
  | .instructionFetchReturn t => t.wf
  | .powerLoss => true

/-- The instructions that have an encoding (13 R261): the others are the part's own steps. -/
def Instr.isEvent : Instr → Bool
  | .scwayComplete .. | .scflComplete .. | .fenceHostTransmitted .. | .resetBringUp .. | .submissionDoorbell ..
  | .sqctlWrite .. | .rsizeWrite .. | .detack .. | .framePointerWrite .. | .scanoutLutWrite .. | .accessTableWrite ..
  | .registerWrite .. | .launchPacket | .hostRingEntryWrite .. | .dispose | .pagereply | .clearkill | .qread | .qdrain
  | .qlaunch | .gsreset | .colstate | .counts | .attest | .loadcode | .hostBar2Read .. | .hostBar2Write ..
  | .hostAtomicop .. | .hostDetach | .linkRetrain | .sensorPacket .. | .poseMirror | .scanoutFieldStart ..
  | .columnGrant .. | .crewSave .. | .saveTimeout .. | .crewResume .. | .crewTimerLapse .. | .remoteEnqAccept ..
  | .enqQueueRoom .. | .crewLaunch .. | .crewStart .. | .crewEnd .. | .issueCycle | .ageingPromotion .. | .ptsTick
  | .quiescenceUpdate | .leafChange .. | .pageWalk .. | .walkComplete .. | .pagingServiceReply .. | .taggedReply ..
  | .copySectorRead .. | .copySectorLand .. | .amaxFold .. | .obresSpaceFreed .. | .matrixEngineHang ..
  | .ffRequestTakeup .. | .texReply .. | .travReply .. | .rastRun .. | .thermalMigration .. | .thermalShutdown ..
  | .columnFence .. | .remapScrub .. | .faultRecordAppend .. | .fatalError .. | .dieFreeze .. | .halyardMessage ..
  | .napTimeout .. | .yieldExpiry .. | .matrixOperationFinished .. | .matrixEngineResetComplete .. | .cwbComplete ..
  | .cinvComplete .. | .iinvComplete .. | .ipinComplete .. | .instructionFetchReturn .. | .powerLoss => true
  | _ => false

end Sys2Proof
end

