-- ==== Sys2Proof/Decode.lean ====
section
/-! DEFINITION. Decoding of instruction words (13 R261-R272): total on every word, a word that is not an instruction
rejected by name; decoding of bytes (00 R1); and the encoder, from the same tables. -/

namespace Sys2Proof

/-- Why a word is not an instruction (13 R271): each is ILLEGAL_INSN when the word is executed. -/
inductive DecodeError where
  /-- fewer than four bytes -/
  | truncated
  /-- a major opcode of neither set -/
  | reservedMajor
  /-- a reserved function, size, type, condition or service value -/
  | reservedFunction
  /-- a reserved S7 or S6 code, or a constant or register its operand kind forbids -/
  | badSource
  /-- a field that must be zero is not -/
  | nonzeroField
  /-- a register that does not name the pair, quad or group required -/
  | misalignedRegister
  /-- a raw number out of its range, or a special register that is reserved or read-only -/
  | outOfRange
  deriving DecidableEq, Repr

abbrev Dec (α : Type) := Except DecodeError α

/-! Fields of a word (13 Tables 13.1, 13.4). -/

namespace Field
def uset (w : W32) : BitVec 1 := w.extractLsb' 31 1
def major (w : W32) : BitVec 7 := w.extractLsb' 24 7
def d (w : W32) : BitVec 6 := w.extractLsb' 18 6
def a7 (w : W32) : BitVec 7 := w.extractLsb' 11 7
def b7 (w : W32) : BitVec 7 := w.extractLsb' 4 7
def f4 (w : W32) : BitVec 4 := w.extractLsb' 0 4
def imm11 (w : W32) : BitVec 11 := w.extractLsb' 0 11
def k2 (w : W32) : BitVec 2 := w.extractLsb' 16 2
def imm16 (w : W32) : BitVec 16 := w.extractLsb' 0 16
def y (w : W32) : BitVec 6 := w.extractLsb' 12 6
def z (w : W32) : BitVec 6 := w.extractLsb' 6 6
def f6 (w : W32) : BitVec 6 := w.extractLsb' 0 6
def comb (w : W32) : BitVec 3 := w.extractLsb' 21 3
def cbit (w : W32) : BitVec 3 := w.extractLsb' 18 3
def lbS (w : W32) : BitVec 1 := w.extractLsb' 20 1
def lbH (w : W32) : BitVec 1 := w.extractLsb' 19 1
def off19 (w : W32) : BitVec 19 := w.extractLsb' 0 19
def off18 (w : W32) : BitVec 18 := w.extractLsb' 0 18
def lcCb (w : W32) : BitVec 3 := w.extractLsb' 15 3
def lcS (w : W32) : BitVec 1 := w.extractLsb' 14 1
def off14 (w : W32) : BitVec 14 := w.extractLsb' 0 14
def me (w : W32) : BitVec 1 := w.extractLsb' 11 1
def mcb (w : W32) : BitVec 3 := w.extractLsb' 8 3
def sz (w : W32) : BitVec 3 := w.extractLsb' 5 3
def imm5 (w : W32) : BitVec 5 := w.extractLsb' 0 5
def ud (w : W32) : BitVec 5 := w.extractLsb' 19 5
def ua (w : W32) : BitVec 6 := w.extractLsb' 13 6
def ub (w : W32) : BitVec 6 := w.extractLsb' 7 6
def uf (w : W32) : BitVec 7 := w.extractLsb' 0 7
def uk (w : W32) : BitVec 3 := w.extractLsb' 16 3
def ubase (w : W32) : BitVec 5 := w.extractLsb' 14 5
def low24 (w : W32) : BitVec 24 := w.extractLsb' 0 24
end Field

/-- Go on when the check holds, otherwise reject with the reason. -/
def guardD (c : Bool) (e : DecodeError) (x : Dec α) : Dec α := if c then x else .error e

/-- An S7 code (13 Table 13.2). -/
def src7 (e : BitVec 7) : Option Src7 :=
  if e.toNat < 64 then some (.v (e.setWidth 6))
  else if e.toNat < 96 then some (.g (e.setWidth 5))
  else if e.toNat < 112 then some (.int (e.setWidth 4))
  else if e = 112 then some .minusOne
  else if e = 113 then some .one
  else if e = 114 then some .half
  else if e = 115 then some .two
  else if e = 116 then some .minusOneF
  else none

/-- A source that its operand kind allows (13 R264). -/
def srcOf (k : Kind) (e : BitVec 7) : Dec Src7 :=
  match src7 e with
  | some s => if s.ok k then .ok s else .error .badSource
  | none => .error .badSource

/-- An S6 code (13 R266). -/
def src6Of (e : BitVec 6) : Dec Src6 :=
  if e.toNat < 32 then .ok (.g (e.setWidth 5))
  else if e.toNat < 48 then .ok (.int (e.setWidth 4))
  else if e = 48 then .ok .minusOne
  else .error .badSource

/-- The code of each value, and the value of each code: ICMP order (15 Table 15.8). -/
def Cc.code : Cc → Nat
  | .eq => 0
  | .ne => 1
  | .lt => 2
  | .le => 3
  | .gt => 4
  | .ge => 5
  | .ltu => 6
  | .leu => 7
  | .gtu => 8
  | .geu => 9
def Cc.ofCode : Nat → Option Cc
  | 0 => some .eq
  | 1 => some .ne
  | 2 => some .lt
  | 3 => some .le
  | 4 => some .gt
  | 5 => some .ge
  | 6 => some .ltu
  | 7 => some .leu
  | 8 => some .gtu
  | 9 => some .geu
  | _ => none

/-- The code of each value, and the value of each code: 15 R325. -/
def CcImm.code : CcImm → Nat
  | .eq => 0
  | .ne => 1
  | .lt => 2
  | .le => 3
  | .gt => 4
  | .ge => 5
  | .ltu => 6
  | .geu => 7
def CcImm.ofCode : Nat → Option CcImm
  | 0 => some .eq
  | 1 => some .ne
  | 2 => some .lt
  | 3 => some .le
  | 4 => some .gt
  | 5 => some .ge
  | 6 => some .ltu
  | 7 => some .geu
  | _ => none

/-- The code of each value, and the value of each code: 15 Table 15.8. -/
def FPred.code : FPred → Nat
  | .eq => 0
  | .ne => 1
  | .lt => 2
  | .le => 3
  | .gt => 4
  | .ge => 5
  | .ord => 6
  | .uno => 7
def FPred.ofCode : Nat → Option FPred
  | 0 => some .eq
  | 1 => some .ne
  | 2 => some .lt
  | 3 => some .le
  | 4 => some .gt
  | 5 => some .ge
  | 6 => some .ord
  | 7 => some .uno
  | _ => none

/-- The code of each value, and the value of each code: 15 R315. -/
def Comb.code : Comb → Nat
  | .set => 0
  | .and => 1
  | .or => 2
  | .xor => 3
def Comb.ofCode : Nat → Option Comb
  | 0 => some .set
  | 1 => some .and
  | 2 => some .or
  | 3 => some .xor
  | _ => none

/-- The code of each value, and the value of each code: 05 R93, 15 R312. -/
def Rm.code : Rm → Nat
  | .rne => 0
  | .rz => 1
  | .rup => 2
  | .rdn => 3
def Rm.ofCode : Nat → Option Rm
  | 0 => some .rne
  | 1 => some .rz
  | 2 => some .rup
  | 3 => some .rdn
  | _ => none

/-- The code of each value, and the value of each code: 13 Table 13.5, TWID. -/
def CType.code : CType → Nat
  | .fp16 => 0
  | .bf16 => 1
  | .fp32 => 2
def CType.ofCode : Nat → Option CType
  | 0 => some .fp16
  | 1 => some .bf16
  | 2 => some .fp32
  | _ => none

/-- The code of each value, and the value of each code: 05 Table 5.2. -/
def Fmt.code : Fmt → Nat
  | .i32 => 0
  | .n32 => 1
  | .i16 => 2
  | .n16 => 3
  | .i8 => 4
  | .n8 => 5
  | .fp32 => 6
  | .fp16 => 7
  | .bf16 => 8
  | .e4m3 => 9
  | .e5m2 => 10
  | .e2m1 => 11
  | .h4 => 12
  | .h8 => 13
def Fmt.ofCode : Nat → Option Fmt
  | 0 => some .i32
  | 1 => some .n32
  | 2 => some .i16
  | 3 => some .n16
  | 4 => some .i8
  | 5 => some .n8
  | 6 => some .fp32
  | 7 => some .fp16
  | 8 => some .bf16
  | 9 => some .e4m3
  | 10 => some .e5m2
  | 11 => some .e2m1
  | 12 => some .h4
  | 13 => some .h8
  | _ => none

/-- The code of each value, and the value of each code: 07 Table 7.1. -/
def Scope.code : Scope → Nat
  | .crew => 0
  | .col => 1
  | .die => 2
  | .mod => 3
  | .host => 4
def Scope.ofCode : Nat → Option Scope
  | 0 => some .crew
  | 1 => some .col
  | 2 => some .die
  | 3 => some .mod
  | 4 => some .host
  | _ => none

/-- The code of each value, and the value of each code: 14 Table 14.5. -/
def Aop.code : Aop → Nat
  | .add => 0
  | .sub => 1
  | .and => 2
  | .or => 3
  | .xor => 4
  | .min => 5
  | .max => 6
  | .minu => 7
  | .maxu => 8
  | .exch => 9
  | .fadd => 10
  | .bfmax16 => 11
def Aop.ofCode : Nat → Option Aop
  | 0 => some .add
  | 1 => some .sub
  | 2 => some .and
  | 3 => some .or
  | 4 => some .xor
  | 5 => some .min
  | 6 => some .max
  | 7 => some .minu
  | 8 => some .maxu
  | 9 => some .exch
  | 10 => some .fadd
  | 11 => some .bfmax16
  | _ => none

/-- The code of each value, and the value of each code: 04 Table 4.2. -/
def SysReg.code : SysReg → Nat
  | .tid => 0
  | .crew => 1
  | .col => 2
  | .die => 3
  | .stage => 4
  | .nthr => 5
  | .recAddr => 6
  | .clkLo => 7
  | .clkHi => 8
  | .nsLo => 9
  | .nsHi => 10
  | .fb => 11
  | .rsd => 12
  | .fpf => 13
  | .fp4x => 14
  | .cause => 15
  | .epcLo => 16
  | .epcHi => 17
  | .ebadLo => 18
  | .ebadHi => 19
  | .eword => 20
  | .pose => 21
  | .ways => 22
def SysReg.ofCode : Nat → Option SysReg
  | 0 => some .tid
  | 1 => some .crew
  | 2 => some .col
  | 3 => some .die
  | 4 => some .stage
  | 5 => some .nthr
  | 6 => some .recAddr
  | 7 => some .clkLo
  | 8 => some .clkHi
  | 9 => some .nsLo
  | 10 => some .nsHi
  | 11 => some .fb
  | 12 => some .rsd
  | 13 => some .fpf
  | 14 => some .fp4x
  | 15 => some .cause
  | 16 => some .epcLo
  | 17 => some .epcHi
  | 18 => some .ebadLo
  | 19 => some .ebadHi
  | 20 => some .eword
  | 21 => some .pose
  | 22 => some .ways
  | _ => none

/-- The code of each value, and the value of each code: 15 R328. -/
def LdSize.code : LdSize → Nat
  | .b => 0
  | .h => 1
  | .w => 2
  | .d => 3
  | .q => 4
  | .sb => 5
  | .sh => 6
def LdSize.ofCode : Nat → Option LdSize
  | 0 => some .b
  | 1 => some .h
  | 2 => some .w
  | 3 => some .d
  | 4 => some .q
  | 5 => some .sb
  | 6 => some .sh
  | _ => none

/-- The code of each value, and the value of each code: 16 R353. -/
def PrefLevel.code : PrefLevel → Nat
  | .columnCache => 0
  | .l2 => 1
  | .stacked => 2
def PrefLevel.ofCode : Nat → Option PrefLevel
  | 0 => some .columnCache
  | 1 => some .l2
  | 2 => some .stacked
  | _ => none

/-- The code of each value, and the value of each code: 09 R206. -/
def DftLen.code : DftLen → Nat
  | .n16 => 0
  | .n32 => 1
  | .n64 => 2
def DftLen.ofCode : Nat → Option DftLen
  | 0 => some .n16
  | 1 => some .n32
  | 2 => some .n64
  | _ => none

def StSize.code : StSize → Nat
  | .b => 0
  | .h => 1
  | .w => 2
  | .d => 3
  | .q => 4
def StSize.ofCode : Nat → Option StSize
  | 0 => some .b
  | 1 => some .h
  | 2 => some .w
  | 3 => some .d
  | 4 => some .q
  | _ => none

/-- LDT and STT: sz[2] the view, sz[1:0] the width (13 R268). -/
def View.code : View → Nat
  | .row => 0
  | .col => 1
def TSize.code : TSize → Nat
  | .w => 0
  | .d => 1
  | .q => 2
def TSize.ofCode : Nat → Option TSize
  | 0 => some .w
  | 1 => some .d
  | 2 => some .q
  | _ => none

/-- QPACK's narrow and wide format codes (16 Table 16.10). -/
def NFmt.code : NFmt → Nat
  | .e4m3 => 9
  | .e5m2 => 10
  | .e2m1 => 11
  | .h4 => 12
  | .h8 => 13
  | .q4n => 14
def NFmt.ofCode : Nat → Option NFmt
  | 9 => some .e4m3
  | 10 => some .e5m2
  | 11 => some .e2m1
  | 12 => some .h4
  | 13 => some .h8
  | 14 => some .q4n
  | _ => none
def wideCode : CType → Nat
  | .fp32 => 0
  | .fp16 => 1
  | .bf16 => 2
def wideOfCode : Nat → Option CType
  | 0 => some .fp32
  | 1 => some .fp16
  | 2 => some .bf16
  | _ => none

def AtomMask.code : AtomMask → BitVec 2
  | .none => 0
  | .c0 => 1
  | .c1 => 2
  | .c2 => 3
def AtomMask.ofCode (c : BitVec 2) : AtomMask :=
  if c = 0 then .none else if c = 1 then .c0 else if c = 2 then .c1 else .c2

/-- A value of a code, or the word is rejected. -/
def named (o : Option α) : Dec α :=
  match o with
  | some x => .ok x
  | none => .error .reservedFunction

def bit1 (b : Bool) : BitVec 1 := BitVec.ofBool b

/-- The mask operand of an LM word (02 R47): me and mcb; mcb must be 0 when me is 0 (13 R268). -/
def maskOf (w : W32) : Dec (Option CBit) :=
  if Field.me w = 1 then .ok (some (Field.mcb w))
  else if Field.mcb w = 0 then .ok none
  else .error .nonzeroField

/-! Decoding, major by major (13 Table 13.5). -/

def dec10 (f : Nat) (d : VReg) (a b : Src7) : Dec Instr :=
  match f with
  | 0 => .ok (.add d a b)
  | 1 => .ok (.addc d a b)
  | 2 => .ok (.sub d a b)
  | 3 => .ok (.subb d a b)
  | 4 => .ok (.and d a b)
  | 5 => .ok (.or d a b)
  | 6 => .ok (.xor d a b)
  | 7 => .ok (.andn d a b)
  | 8 => .ok (.shl d a b)
  | 9 => .ok (.shr d a b)
  | 10 => .ok (.sar d a b)
  | 11 => .ok (.rotl d a b)
  | 12 => .ok (.min d a b)
  | 13 => .ok (.max d a b)
  | 14 => .ok (.minu d a b)
  | _ => .ok (.maxu d a b)

def dec11 (f : Nat) (d : VReg) (ea eb : BitVec 7) : Dec Instr :=
  match f with
  | 0 => do let a ← srcOf .i ea; let b ← srcOf .i eb; return .mul d a b
  | 1 => do let a ← srcOf .i ea; let b ← srcOf .i eb; return .mulh d a b
  | 2 => do let a ← srcOf .i ea; let b ← srcOf .i eb; return .mulhu d a b
  | 3 => do let a ← srcOf .i ea; let b ← srcOf .i eb; return .divs d a b
  | 4 => do let a ← srcOf .i ea; let b ← srcOf .i eb; return .divu d a b
  | 5 => do let a ← srcOf .i ea; let b ← srcOf .i eb; return .rems d a b
  | 6 => do let a ← srcOf .i ea; let b ← srcOf .i eb; return .remu d a b
  | 7 => guardD d.even .misalignedRegister do let a ← srcOf .l ea; let b ← srcOf .l eb; return .addw d a b
  | 8 => guardD d.even .misalignedRegister do let a ← srcOf .l ea; let b ← srcOf .l eb; return .subw d a b
  | 9 => guardD d.even .misalignedRegister do let a ← srcOf .l ea; let b ← srcOf .i eb; return .shlw d a b
  | 10 => guardD d.even .misalignedRegister do let a ← srcOf .l ea; let b ← srcOf .i eb; return .shrw d a b
  | 11 => do let a ← srcOf .i ea; let b ← srcOf .i eb; return .bprm d a b
  | 12 => do let a ← srcOf .i ea; let b ← srcOf .i eb; return .lea d a b 0
  | 13 => do let a ← srcOf .i ea; let b ← srcOf .i eb; return .lea d a b 1
  | 14 => do let a ← srcOf .i ea; let b ← srcOf .i eb; return .lea d a b 2
  | _ => do let a ← srcOf .i ea; let b ← srcOf .i eb; return .lea d a b 3

def dec12 (f : Nat) (d : VReg) (a : Src7) : Dec Instr :=
  match f with
  | 0 => .ok (.neg d a)
  | 1 => .ok (.abs d a)
  | 2 => .ok (.not d a)
  | 3 => .ok (.clz d a)
  | 4 => .ok (.ctz d a)
  | 5 => .ok (.popc d a)
  | 6 => .ok (.brev d a)
  | 7 => .ok (.mov d a)
  | _ => .error .reservedFunction

def dec30 (f : Nat) (rm : Rm) (d : VReg) (a b : Src7) : Dec Instr :=
  match f with
  | 0 => .ok (.fadd rm d a b)
  | 1 => .ok (.fsub rm d a b)
  | 2 => .ok (.fmul rm d a b)
  | _ => .ok (.fdiv rm d a b)

def dec31 (f : Nat) (d : VReg) (ea eb : BitVec 7) : Dec Instr :=
  match f with
  | 0 => do let a ← srcOf .f ea; let b ← srcOf .f eb; return .fmin d a b
  | 1 => do let a ← srcOf .f ea; let b ← srcOf .f eb; return .fmax d a b
  | 2 => guardD (eb == 0) .nonzeroField do let a ← srcOf .f ea; return .fcls d a
  | 4 => guardD (eb == 0) .nonzeroField do let a ← srcOf .f ea; return .frnd .rne d a
  | 5 => guardD (eb == 0) .nonzeroField do let a ← srcOf .f ea; return .frnd .rz d a
  | 6 => guardD (eb == 0) .nonzeroField do let a ← srcOf .f ea; return .frnd .rup d a
  | 7 => guardD (eb == 0) .nonzeroField do let a ← srcOf .f ea; return .frnd .rdn d a
  | _ => .error .reservedFunction

def dec33 (f : Nat) (d : VReg) (a : Src7) : Dec Instr :=
  match f with
  | 0 => .ok (.frcp d a)
  | 1 => .ok (.frsq d a)
  | 2 => .ok (.fsqt d a)
  | 3 => .ok (.fexp d a)
  | 4 => .ok (.flog d a)
  | 5 => .ok (.fspi d a)
  | 6 => .ok (.fcpi d a)
  | _ => .error .reservedFunction

def dec38 (f : Nat) (h : Half) (d : VReg) (a b : Src7) : Dec Instr :=
  match f with
  | 0 => .ok (.hadd2 h d a b)
  | 1 => .ok (.hsub2 h d a b)
  | 2 => .ok (.hmul2 h d a b)
  | 3 => .ok (.hmin2 h d a b)
  | 4 => .ok (.hmax2 h d a b)
  | _ => .error .reservedFunction

def dec40 (t : CType) (f : Nat) (d : VReg) (ea eb : BitVec 7) : Dec Instr :=
  guardD (t.regOk d) .misalignedRegister do
    let a ← srcOf t.kind ea
    match f with
    | 0 => do let b ← srcOf t.kind eb; return .cadd t d a b
    | 1 => do let b ← srcOf t.kind eb; return .csub t d a b
    | 2 => do let b ← srcOf t.kind eb; return .cmul t d a b
    | 3 => guardD (eb == 0) .nonzeroField (.ok (.cmag t d a))
    | 4 => guardD (eb == 0) .nonzeroField (.ok (.carg t d a))
    | 5 => guardD (eb == 0) .nonzeroField (.ok (.cexi t d a))
    | 6 => do let b ← srcOf t.kind eb; return .crot t d a b
    | _ => .error .reservedFunction

def dec46 (w : W32) : Dec Instr := do
  let imm := Field.imm11 w
  let t ← named (CType.ofCode (imm.extractLsb' 5 2).toNat)
  let n : BitVec 5 := imm.extractLsb' 0 5
  guardD (imm.extractLsb' 8 3 == 0) .nonzeroField <|
  guardD (1 ≤ n.toNat && n.toNat ≤ 24) .outOfRange <|
  guardD (t.regOk (Field.d w)) .misalignedRegister do
    let a ← srcOf .i (Field.a7 w)
    return .twid t (imm.extractLsb' 7 1 == 1) (Field.d w) a n

def dec48 (w : W32) : Dec Instr := do
  let f := Field.f6 w
  let t ← named (CType.ofCode (f.extractLsb' 3 2).toNat)
  guardD (f.extractLsb' 5 1 == 0) .nonzeroField <|
  guardD ((f.extractLsb' 0 3).toNat ≤ 4) .reservedFunction <|
  guardD (t.regOk (Field.d w) && t.regOk (Field.y w) && t.regOk (Field.z w)) .misalignedRegister <|
    .ok (.bfly t (Field.d w) (Field.y w) (Field.z w) (f.extractLsb' 0 3))

def dec49 (f : Nat) (d : VReg) (a b : Src7) : Dec Instr :=
  match f with
  | 0 => .ok (.shufIdx d a b)
  | 1 => .ok (.shufXor d a b)
  | 2 => .ok (.shufUp d a b)
  | 3 => .ok (.shufDown d a b)
  | _ => .error .reservedFunction

def dec4A (w : W32) : Dec Instr :=
  let k : CBit := (Field.f4 w).extractLsb' 0 3
  guardD (Field.a7 w == 0 && (Field.f4 w).extractLsb' 3 1 == 0) .nonzeroField <|
  match (Field.b7 w).toNat with
  | 0 => .ok (.voteAll (Field.d w) k)
  | 1 => .ok (.voteAny (Field.d w) k)
  | 2 => .ok (.voteBallot (Field.d w) k)
  | _ => .error .outOfRange

def dec4C (w : W32) : Dec Instr := do
  let f := Field.f6 w
  let sc ← named (Scope.ofCode (f.extractLsb' 2 3).toNat)
  guardD (Field.z w == 0) .nonzeroField <|
    .ok (.xcopy (f.extractLsb' 5 1 == 1) sc (f.extractLsb' 1 1 == 1) (f.extractLsb' 0 1 == 1) (Field.d w) (Field.y w))

/-- Convergence-register field and function of a crew-wide word (09 R206). -/
def cvOf (w : W32) : CBit := (Field.f6 w).extractLsb' 3 3
def cvF (w : W32) : Nat := ((Field.f6 w).extractLsb' 0 3).toNat
def obOf (x : BitVec 6) : Dec (BitVec 4) := guardD (x.toNat < 16) .outOfRange (.ok (x.setWidth 4))
def accOf (x : BitVec 6) : Dec (BitVec 3) := guardD (x.toNat < 8) .outOfRange (.ok (x.setWidth 3))

def dec4E (w : W32) : Dec Instr := do
  let ob ← obOf (Field.d w)
  match cvF w with
  | 0 => guardD (Field.z w == 0) .nonzeroField (.ok (.obres ob (Field.y w) (cvOf w)))
  | 1 => guardD (Field.y w == 0 && Field.z w == 0) .nonzeroField (.ok (.obrel ob (cvOf w)))
  | 2 => guardD (VReg.even (Field.y w)) .misalignedRegister (.ok (.obld ob (Field.y w) (Field.z w) (cvOf w)))
  | 3 => .ok (.obgat ob (Field.y w) (Field.z w) (cvOf w))
  | _ => .error .reservedFunction

def dec4F (w : W32) : Dec Instr := do
  let acc ← accOf (Field.d w)
  match cvF w with
  | 0 => do let a ← obOf (Field.y w); let b ← obOf (Field.z w); return .mma acc a b (cvOf w)
  | 1 => do let a ← obOf (Field.y w); let b ← obOf (Field.z w); return .mmac acc a b (cvOf w)
  | 2 => do
    let a ← obOf (Field.y w)
    let n ← named (DftLen.ofCode ((Field.z w).extractLsb' 0 2).toNat)
    guardD ((Field.z w).extractLsb' 3 3 == 0) .nonzeroField <|
    guardD (n != .n64 || acc.toNat % 2 == 0) .misalignedRegister <|
      .ok (.mdft ((Field.z w).extractLsb' 2 1 == 1) n acc a (cvOf w))
  | 3 => guardD (Field.z w == 0) .nonzeroField (.ok (.mdrn acc (Field.y w) (cvOf w)))
  | 4 => guardD (Field.y w == 0) .nonzeroField <|
      guardD ((Field.z w).toNat < 2) .outOfRange (.ok (.mzro ((Field.z w).extractLsb' 0 1 == 1) acc (cvOf w)))
  | _ => .error .reservedFunction

def dec50 (w : W32) : Dec Instr := do
  let dst ← named (Fmt.ofCode ((Field.f6 w).extractLsb' 0 4).toNat)
  let src ← named (Fmt.ofCode ((Field.z w).extractLsb' 0 4).toNat)
  let rm ← named (Rm.ofCode ((Field.f6 w).extractLsb' 4 2).toNat)
  guardD ((Field.z w).extractLsb' 4 1 == 0) .nonzeroField <|
  guardD ((dst != .h4 && dst != .h8) || rm == .rne) .reservedFunction <|
    .ok (.cvt dst src rm ((Field.z w).extractLsb' 5 1 == 1) (Field.d w) (Field.y w))

def decQ (w : W32) (mk : NFmt → CType → Dec Instr) : Dec Instr := do
  let nf ← named (NFmt.ofCode ((Field.f6 w).extractLsb' 0 4).toNat)
  let wf ← named (wideOfCode ((Field.f6 w).extractLsb' 4 2).toNat)
  mk nf wf

def dec57 (w : W32) : Dec Instr :=
  match cvF w with
  | 0 => do
    let acc ← accOf (Field.d w)
    guardD (Field.y w == 0 && Field.z w == 0) .nonzeroField (.ok (.tkget acc (cvOf w)))
  | 1 => do
    let acc ← accOf (Field.d w)
    guardD (Field.y w == 0 && Field.z w == 0) .nonzeroField (.ok (.tkput acc (cvOf w)))
  | 2 => do
    let acc ← accOf (Field.y w)
    guardD (cvOf w == 0) .nonzeroField (.ok (.acld (Field.d w) acc (Field.z w)))
  | 3 => do
    let acc ← accOf (Field.y w)
    guardD (cvOf w == 0) .nonzeroField (.ok (.acst (Field.d w) acc (Field.z w)))
  | 4 => guardD (Field.d w == 0 && Field.y w == 0 && Field.z w == 0) .nonzeroField (.ok (.mtwn (cvOf w)))
  | _ => .error .reservedFunction

def cb6 (x : BitVec 6) : Dec CBit := guardD (x.toNat < 8) .outOfRange (.ok (x.setWidth 3))

def dec58 (w : W32) : Dec Instr := do
  let x ← cb6 (Field.d w)
  let y ← cb6 (Field.y w)
  let z ← cb6 (Field.z w)
  guardD ((Field.f6 w).extractLsb' 4 2 == 0) .nonzeroField (.ok (.cbop x y z ((Field.f6 w).extractLsb' 0 4)))

def dec59 (w : W32) : Dec Instr :=
  guardD (Field.z w == 0) .nonzeroField <|
  match (Field.f6 w).toNat with
  | 0 => do let y ← cb6 (Field.y w); return .cbmvGet (Field.d w) y
  | 1 => do let y ← cb6 (Field.y w); return .cbmvPut (Field.d w) y
  | 2 => guardD (Field.y w == 0) .nonzeroField (.ok (.cbmvGetAll (Field.d w)))
  | 3 => guardD (Field.y w == 0) .nonzeroField (.ok (.cbmvPutAll (Field.d w)))
  | _ => .error .reservedFunction

def dec5F (w : W32) : Dec Instr :=
  match (Field.f6 w).toNat with
  | 0 => guardD (VReg.quad (Field.d w) && VReg.even (Field.z w)) .misalignedRegister
      (.ok (.tex (Field.d w) (Field.y w) (Field.z w)))
  | 1 => guardD (Field.z w == 0) .nonzeroField <|
      guardD (VReg.quad (Field.d w)) .misalignedRegister (.ok (.trav (Field.d w) (Field.y w)))
  | 2 => guardD (Field.d w == 0 && Field.z w == 0) .nonzeroField (.ok (.rast (Field.y w)))
  | _ => .error .reservedFunction

def dec6C (w : W32) : Dec Instr := do
  let cv ← cb6 (Field.d w)
  match (Field.f6 w).toNat with
  | 0 => guardD (Field.y w == 0 && Field.z w == 0) .nonzeroField (.ok (.conv cv))
  | 1 => guardD (Field.z w == 0) .nonzeroField (.ok (.convInit cv (Field.y w)))
  | 2 => guardD (Field.y w == 0) .nonzeroField <|
      guardD (VReg.even (Field.z w)) .misalignedRegister (.ok (.convQuery (Field.z w) cv))
  | _ => .error .reservedFunction

/-- The register of a d or q access (13 R268). -/
def wideOk (code : Nat) (t : VReg) : Bool :=
  if code = 3 then t.even else if code = 4 then t.quad else true

def decLd (w : W32) (glob : Bool) : Dec Instr := do
  let m ← maskOf w
  let sz ← named (LdSize.ofCode (Field.sz w).toNat)
  guardD (wideOk sz.code (Field.d w) && (!glob || VReg.even (Field.y w))) .misalignedRegister <|
    .ok (if glob then .ldg sz (Field.d w) (Field.y w) m (Field.imm5 w) else .ldl sz (Field.d w) (Field.y w) m (Field.imm5 w))

def decSt (w : W32) (glob : Bool) : Dec Instr := do
  let m ← maskOf w
  let sz ← named (StSize.ofCode (Field.sz w).toNat)
  guardD (wideOk sz.code (Field.d w) && (!glob || VReg.even (Field.y w))) .misalignedRegister <|
    .ok (if glob then .stg sz (Field.d w) (Field.y w) m (Field.imm5 w) else .stl sz (Field.d w) (Field.y w) m (Field.imm5 w))

def decT (w : W32) (store : Bool) : Dec Instr := do
  let m ← maskOf w
  let sz ← named (TSize.ofCode ((Field.sz w).extractLsb' 0 2).toNat)
  let v : View := if (Field.sz w).extractLsb' 2 1 = 1 then .col else .row
  guardD (wideOk (sz.code + 2) (Field.d w)) .misalignedRegister <|
    .ok (if store then .stt v sz (Field.d w) (Field.y w) m (Field.imm5 w) else .ldt v sz (Field.d w) (Field.y w) m (Field.imm5 w))

def decAtom (w : W32) (ret : Bool) : Dec Instr := do
  let op ← named (Aop.ofCode ((Field.f6 w).extractLsb' 2 4).toNat)
  let m := AtomMask.ofCode ((Field.f6 w).extractLsb' 0 2)
  guardD (VReg.even (Field.y w)) .misalignedRegister <|
  guardD (ret || Field.d w == 0) .nonzeroField <|
    .ok (if ret then .atom op m (Field.d w) (Field.y w) (Field.z w) else .atomn op m (Field.y w) (Field.z w))

def dec79 (w : W32) : Dec Instr := do
  let m ← maskOf w
  let l ← named (PrefLevel.ofCode (Field.sz w).toNat)
  guardD (Field.d w == 0) .nonzeroField <|
  guardD (VReg.even (Field.y w)) .misalignedRegister (.ok (.pref l (Field.y w) m (Field.imm5 w)))

def dec7B (w : W32) : Dec Instr :=
  match (Field.f6 w).toNat with
  | 0 => guardD (Field.z w == 0) .nonzeroField (.ok (.bari (Field.d w) (Field.y w)))
  | 1 => guardD (Field.z w == 0) .nonzeroField (.ok (.bara (Field.d w) (Field.y w)))
  | 2 => guardD (Field.z w == 0) .nonzeroField (.ok (.barw (Field.d w) (Field.y w)))
  | 3 => .ok (.bart (Field.z w) (Field.d w) (Field.y w))
  | _ => .error .reservedFunction

def dec7D (w : W32) : Dec Instr :=
  let x := Field.d w
  let y := Field.y w
  let go (i : Instr) : Dec Instr := guardD (VReg.even x) .misalignedRegister (.ok i)
  guardD (Field.z w == 0) .nonzeroField <|
  match (Field.f6 w).toNat with
  | 0 => go (.cwb x y)
  | 1 => go (.cinv x y)
  | 2 => go (.iinv x y)
  | 3 => guardD (x == 0 && y == 0) .nonzeroField (.ok .fbar)
  | 4 => go (.ipre x y)
  | 5 => go (.ipin x y)
  | 6 => go (.iunp x y)
  | _ => .error .reservedFunction

/-- The L-set (13 Table 13.5). -/
def decodeL (w : W32) : Dec Instr :=
  let d := Field.d w
  let ea := Field.a7 w
  let eb := Field.b7 w
  let f := (Field.f4 w).toNat
  let x := Field.d w
  let y := Field.y w
  let z := Field.z w
  let f6 := (Field.f6 w).toNat
  match (Field.major w).toNat with
  | 0x01 => guardD (Field.low24 w == 0) .nonzeroField (.ok .nop)
  | 0x02 => guardD (Field.b7 w == 0 && Field.f4 w == 0) .nonzeroField <|
      match SysReg.ofCode ea.toNat with
      | some r => .ok (.movs d r)
      | none => .error .outOfRange
  | 0x03 => guardD (d == 0 && Field.f4 w == 0) .nonzeroField do
      let a ← srcOf .i ea
      match eb.toNat with
      | 13 => return .movt .fpf a
      | 14 => return .movt .fp4x a
      | _ => .error .outOfRange
  | 0x04 => guardD (d == 0 && Field.k2 w == 0) .nonzeroField <|
      match (Field.imm16 w).toNat with
      | 0 => .ok .syscIdentity
      | 1 => .ok .syscBudget
      | 16 => .ok .syscDispose
      | _ => .error .reservedFunction
  | 0x05 => guardD (y == 0 && z == 0) .nonzeroField <|
      match f6 with
      | 0 => .ok (.scway x)
      | 1 => .ok (.scfl x)
      | _ => .error .reservedFunction
  | 0x06 => guardD (d == 0 && Field.k2 w == 0) .nonzeroField (.ok (.trap (Field.imm16 w)))
  | 0x07 => guardD (d == 0 && ea == 0 && eb == 0) .nonzeroField <|
      match f with
      | 0 => .ok (.eret false)
      | 1 => .ok (.eret true)
      | _ => .error .reservedFunction
  | 0x08 => guardD (d == 0 && Field.k2 w == 0) .nonzeroField (.ok (.brk (Field.imm16 w)))
  | 0x10 => do let a ← srcOf .i ea; let b ← srcOf .i eb; dec10 f d a b
  | 0x11 => dec11 f d ea eb
  | 0x12 => guardD (eb == 0) .nonzeroField do let a ← srcOf .i ea; dec12 f d a
  | 0x13 => do
      let cc ← named (Cc.ofCode f)
      let cm ← named (Comb.ofCode (Field.comb w).toNat)
      let a ← srcOf .i ea
      let b ← srcOf .i eb
      return .icmp cc cm (Field.cbit w) a b
  | 0x14 => do
      let a ← srcOf .i ea
      let b ← srcOf .i eb
      return .sel d a b ((Field.f4 w).extractLsb' 0 3) ((Field.f4 w).extractLsb' 3 1 == 1)
  | 0x15 => .ok (.bfx x y z ((Field.f6 w).extractLsb' 0 5) ((Field.f6 w).extractLsb' 5 1 == 1))
  | 0x16 => guardD ((Field.f6 w).extractLsb' 5 1 == 0) .nonzeroField (.ok (.bfi x y z ((Field.f6 w).extractLsb' 0 5)))
  | 0x17 => .ok (.mad x y z (Field.f6 w))
  | 0x18 => do
      let cc ← named (CcImm.ofCode (Field.comb w).toNat)
      let a ← srcOf .i ea
      return .icmpi cc (Field.cbit w) a (Field.imm11 w)
  | 0x20 => do let a ← srcOf .i ea; return .addi d a (Field.imm11 w)
  | 0x21 => do let a ← srcOf .i ea; return .andi d a (Field.imm11 w)
  | 0x22 => do let a ← srcOf .i ea; return .ori d a (Field.imm11 w)
  | 0x23 => do let a ← srcOf .i ea; return .xori d a (Field.imm11 w)
  | 0x24 => guardD ((Field.imm11 w).extractLsb' 5 6 == 0) .nonzeroField do let a ← srcOf .i ea; return .shli d a (Field.imm5 w)
  | 0x25 => guardD ((Field.imm11 w).extractLsb' 5 6 == 0) .nonzeroField do let a ← srcOf .i ea; return .shri d a (Field.imm5 w)
  | 0x26 => guardD ((Field.imm11 w).extractLsb' 5 6 == 0) .nonzeroField do let a ← srcOf .i ea; return .sari d a (Field.imm5 w)
  | 0x28 => match (Field.k2 w).toNat with
      | 0 => .ok (.moviLo d (Field.imm16 w))
      | 1 => .ok (.moviSx d (Field.imm16 w))
      | 2 => .ok (.moviHi d (Field.imm16 w))
      | _ => .error .reservedFunction
  | 0x30 => do
      let rm ← named (Rm.ofCode (f % 4))
      let a ← srcOf .f ea
      let b ← srcOf .f eb
      dec30 (f / 4) rm d a b
  | 0x31 => dec31 f d ea eb
  | 0x32 => do
      let p ← named (FPred.ofCode f)
      let cm ← named (Comb.ofCode (Field.comb w).toNat)
      let a ← srcOf .f ea
      let b ← srcOf .f eb
      return .fcmp p cm (Field.cbit w) a b
  | 0x33 => guardD (eb == 0) .nonzeroField do let a ← srcOf .f ea; dec33 f d a
  | 0x34 => .ok (.ffma x y z (Field.f6 w))
  | 0x38 => do
      let a ← srcOf .h ea
      let b ← srcOf .h eb
      dec38 (f % 8) (if f / 8 = 1 then .bf16 else .fp16) d a b
  | 0x39 => .ok (.hfma2F16 x y z (Field.f6 w))
  | 0x3A => .ok (.hfma2Bf16 x y z (Field.f6 w))
  | 0x3B => do
      let p ← named (FPred.ofCode (f % 8))
      let cm ← named (Comb.ofCode (Field.comb w).toNat)
      let a ← srcOf .h ea
      let b ← srcOf .h eb
      guardD ((Field.cbit w).extractLsb' 0 1 == 0) .misalignedRegister <|
        .ok (.hcmp2 p (if f / 8 = 1 then .bf16 else .fp16) cm ((Field.cbit w).extractLsb' 1 2) a b)
  | 0x40 => dec40 .fp16 f d ea eb
  | 0x41 => dec40 .bf16 f d ea eb
  | 0x42 => dec40 .fp32 f d ea eb
  | 0x43 => .ok (.cfmaFp16 x y z (Field.f6 w))
  | 0x44 => .ok (.cfmaBf16 x y z (Field.f6 w))
  | 0x45 => guardD (VReg.even x && VReg.even y && VReg.even z && VReg.even (Field.f6 w)) .misalignedRegister
      (.ok (.cfmaFp32 x y z (Field.f6 w)))
  | 0x46 => dec46 w
  | 0x48 => dec48 w
  | 0x49 => do let a ← srcOf .i ea; let b ← srcOf .i eb; dec49 f d a b
  | 0x4A => dec4A w
  | 0x4C => dec4C w
  | 0x4D => guardD (Field.f6 w == 0) .nonzeroField <|
      guardD (y.toNat < 4) .outOfRange (.ok (.xlut x (y.setWidth 2) z))
  | 0x4E => dec4E w
  | 0x4F => dec4F w
  | 0x50 => dec50 w
  | 0x51 => decQ w fun nf wf => guardD (y.toNat % nf.group wf == 0 && (nf != .q4n || VReg.even z)) .misalignedRegister
      (.ok (.qpack nf wf x y z))
  | 0x52 => decQ w fun nf wf => guardD (x.toNat % nf.group wf == 0 && (nf != .q4n || VReg.even z)) .misalignedRegister
      (.ok (.qunpk nf wf x y z))
  | 0x53 => decQ w fun nf wf => guardD (nf == .q4n || z == 0) .nonzeroField (.ok (.qscl nf wf x y z))
  | 0x54 => guardD ((Field.f6 w).extractLsb' 5 1 == 0) .nonzeroField <|
      guardD (f6 % 2 == 0 && ((Field.f6 w).extractLsb' 0 5).toNat ≤ 28) .outOfRange
        (.ok (.rng x y z ((Field.f6 w).extractLsb' 0 5)))
  | 0x57 => dec57 w
  | 0x58 => dec58 w
  | 0x59 => dec59 w
  | 0x5C => guardD (z == 0) .nonzeroField <|
      match f6 with
      | 0 => .ok (.enq x y)
      | 1 => .ok (.enqNb x y)
      | _ => .error .reservedFunction
  | 0x5D => guardD (z == 0 && Field.f6 w == 0) .nonzeroField <|
      guardD (VReg.even x) .misalignedRegister <|
      guardD (y.toNat < 16) .outOfRange (.ok (.range x (y.setWidth 4)))
  | 0x5E => guardD (z == 0 && Field.f6 w == 0) .nonzeroField <|
      guardD (VReg.even x) .misalignedRegister (.ok (.qstat x y))
  | 0x5F => dec5F w
  | 0x60 => guardD (Field.comb w == 0 && Field.lbS w == 0 && Field.lbH w == 0) .nonzeroField (.ok (.bra (Field.off19 w)))
  | 0x61 => .ok (.bc (Field.comb w) (Field.lbS w == 1) (Field.lbH w == 1) (Field.off19 w))
  | 0x62 => .ok (.call d (Field.off18 w))
  | 0x63 => .ok (.callc d (Field.lcCb w) (Field.lcS w == 1) (Field.off14 w))
  | 0x64 => guardD (d == 0 && eb == 0 && Field.f4 w == 0) .nonzeroField do let a ← srcOf .a ea; return .bri a
  | 0x65 => guardD (z == 0 && Field.f6 w == 0) .nonzeroField <|
      guardD (VReg.even y) .misalignedRegister (.ok (.calli x y))
  | 0x66 => guardD (Field.low24 w == 0) .nonzeroField (.ok .ret)
  | 0x67 => guardD (Field.lbH w == 0 && Field.off19 w == 0) .nonzeroField (.ok (.retc (Field.comb w) (Field.lbS w == 1)))
  | 0x68 => guardD (Field.low24 w == 0) .nonzeroField (.ok .exit)
  | 0x69 => guardD (Field.low24 w == 0) .nonzeroField (.ok .yield)
  | 0x6A => guardD (d == 0 && (Field.imm11 w).extractLsb' 3 8 == 0) .nonzeroField do
      let a ← srcOf .i ea
      return .nap a ((Field.imm11 w).extractLsb' 0 3)
  | 0x6B => guardD (d == 0 && eb == 0 && Field.f4 w == 0) .nonzeroField <|
      guardD (ea.toNat < 64) .badSource (.ok (.peal (ea.setWidth 6)))
  | 0x6C => dec6C w
  | 0x70 => decLd w true
  | 0x71 => decSt w true
  | 0x72 => decLd w false
  | 0x73 => decSt w false
  | 0x74 => decT w false
  | 0x75 => decT w true
  | 0x76 => decAtom w true
  | 0x77 => decAtom w false
  | 0x78 => guardD (VReg.even y) .misalignedRegister (.ok (.cas x y z (Field.f6 w)))
  | 0x79 => dec79 w
  | 0x7A => guardD (d == 0 && Field.k2 w == 0 && (Field.imm16 w).extractLsb' 3 13 == 0) .nonzeroField do
      let s ← named (Scope.ofCode ((Field.imm16 w).extractLsb' 0 3).toNat)
      return .fence s
  | 0x7B => dec7B w
  | 0x7C => guardD (z == 0) .nonzeroField <|
      match f6 with
      | 0 => .ok (.flsetE x y)
      | 1 => .ok (.flsetF x y)
      | _ => .error .reservedFunction
  | 0x7D => dec7D w
  | _ => .error .reservedMajor

def decUA (f : Nat) (d : GReg) (ub : BitVec 6) (a b : Src6) : Dec Instr :=
  match f with
  | 0 => .ok (.uadd d a b)
  | 1 => .ok (.usub d a b)
  | 2 => .ok (.uand d a b)
  | 3 => .ok (.uor d a b)
  | 4 => .ok (.uxor d a b)
  | 5 => .ok (.ushl d a b)
  | 6 => .ok (.ushr d a b)
  | 7 => .ok (.usar d a b)
  | 8 => .ok (.umul d a b)
  | 9 => .ok (.umin d a b)
  | 10 => .ok (.umax d a b)
  | 11 => guardD (ub == 0) .nonzeroField (.ok (.umov d a))
  | 12 => .ok (.ulea d a b 0)
  | 13 => .ok (.ulea d a b 1)
  | 14 => .ok (.ulea d a b 2)
  | 15 => .ok (.ulea d a b 3)
  | 26 => .ok (.usel d a b)
  | f => do
    let cc ← named (if f < 16 then none else Cc.ofCode (f - 16))
    return .ucmp cc d a b

/-- The U-set (13 Table 13.6). -/
def decodeU (w : W32) : Dec Instr :=
  let d := Field.ud w
  match (Field.major w).toNat with
  | 0x10 => do
      let a ← src6Of (Field.ua w)
      let b ← src6Of (Field.ub w)
      decUA (Field.uf w).toNat d (Field.ub w) a b
  | 0x11 => match (Field.uk w).toNat with
      | 0 => .ok (.umoviLo d (Field.imm16 w))
      | 1 => .ok (.umoviSx d (Field.imm16 w))
      | 2 => .ok (.umoviHi d (Field.imm16 w))
      | _ => .error .reservedFunction
  | 0x12 => guardD (GReg.even (Field.ubase w)) .misalignedRegister <|
      guardD ((Field.off14 w).toNat % 4 == 0) .nonzeroField (.ok (.uld d (Field.ubase w) (Field.off14 w)))
  | _ => .error .reservedMajor

/-- The instruction of a word, or why it is none (13 R261, R267). -/
def decode (w : W32) : Dec Instr :=
  if Field.uset w = 1 then decodeU w else decodeL w

/-- A little-endian word of four bytes (00 R1). -/
def wordOfBytes (b0 b1 b2 b3 : W8) : W32 := b3 ++ b2 ++ b1 ++ b0

/-- Decoding of a byte string: the first instruction and what follows it. -/
def decodeBytes : List W8 → Dec (Instr × List W8)
  | b0 :: b1 :: b2 :: b3 :: rest => do
    let i ← decode (wordOfBytes b0 b1 b2 b3)
    return (i, rest)
  | _ => .error .truncated

/-- The bytes of a word in memory order (00 R1). -/
def bytesOfWord (w : W32) : List W8 :=
  [w.extractLsb' 0 8, w.extractLsb' 8 8, w.extractLsb' 16 8, w.extractLsb' 24 8]

/-- What the decoder reads from an instruction whose bits are w (every instruction is one 32-bit word). -/
def decodeTableWord (nbits w : Nat) : Option Instr :=
  if nbits = 0 then none
  else
    match decodeBytes (bytesOfWord (BitVec.ofNat 32 w)) with
    | .ok (i, _) => some i
    | .error _ => none

/-! The encoder (13 R262, R266-R269), from the same tables. -/

def Src7.enc : Src7 → BitVec 7
  | .v n => n.setWidth 7
  | .g n => 64 + n.setWidth 7
  | .int n => 96 + n.setWidth 7
  | .minusOne => 112
  | .one => 113
  | .half => 114
  | .two => 115
  | .minusOneF => 116

def Src6.enc : Src6 → BitVec 6
  | .g n => n.setWidth 6
  | .int n => 32 + n.setWidth 6
  | .minusOne => 48

def encLA (m : BitVec 7) (d : BitVec 6) (a b : BitVec 7) (f : BitVec 4) : W32 := 0#1 ++ m ++ d ++ a ++ b ++ f
def encLI (m : BitVec 7) (d : BitVec 6) (a : BitVec 7) (imm : BitVec 11) : W32 := 0#1 ++ m ++ d ++ a ++ imm
def encLK (m : BitVec 7) (d : BitVec 6) (k : BitVec 2) (imm : BitVec 16) : W32 := 0#1 ++ m ++ d ++ k ++ imm
def encLX (m : BitVec 7) (x y z f : BitVec 6) : W32 := 0#1 ++ m ++ x ++ y ++ z ++ f
def encLB (m : BitVec 7) (cb : BitVec 3) (s h : BitVec 1) (off : BitVec 19) : W32 := 0#1 ++ m ++ cb ++ s ++ h ++ off
def encLM (m : BitVec 7) (t base : BitVec 6) (mask : Option CBit) (sz : BitVec 3) (imm : BitVec 5) : W32 :=
  match mask with
  | none => 0#1 ++ m ++ t ++ base ++ 0#1 ++ 0#3 ++ sz ++ imm
  | some c => 0#1 ++ m ++ t ++ base ++ 1#1 ++ c ++ sz ++ imm
def encUA (d : BitVec 5) (a b : BitVec 6) (f : BitVec 7) : W32 := 1#1 ++ 0x10#7 ++ d ++ a ++ b ++ f
def encUK (d : BitVec 5) (k : BitVec 3) (imm : BitVec 16) : W32 := 1#1 ++ 0x11#7 ++ d ++ k ++ imm
def encUM (d base : BitVec 5) (imm : BitVec 14) : W32 := 1#1 ++ 0x12#7 ++ d ++ base ++ imm

def CType.major40 : CType → BitVec 7
  | .fp16 => 0x40
  | .bf16 => 0x41
  | .fp32 => 0x42
def cvFld (cv : CBit) (f : BitVec 3) : BitVec 6 := cv ++ f
def Half.bit : Half → BitVec 1
  | .fp16 => 0
  | .bf16 => 1

/-- The word of an instruction; a step without an encoding has none and gives 0, which is no instruction. -/
def encode : Instr → W32
  | .nop => encLA 0x01 0 0 0 0
  | .movs d r => encLA 0x02 d (BitVec.ofNat 7 r.code) 0 0
  | .movt r a => encLA 0x03 0 a.enc (match r with
    | .fpf => 13
    | .fp4x => 14) 0
  | .syscIdentity => encLK 0x04 0 0 0
  | .syscBudget => encLK 0x04 0 0 1
  | .syscDispose => encLK 0x04 0 0 16
  | .scway x => encLX 0x05 x 0 0 0
  | .scfl x => encLX 0x05 x 0 0 1
  | .trap c => encLK 0x06 0 0 c
  | .eret n => encLA 0x07 0 0 0 (if n then 1 else 0)
  | .brk c => encLK 0x08 0 0 c
  | .add d a b => encLA 0x10 d a.enc b.enc 0
  | .addc d a b => encLA 0x10 d a.enc b.enc 1
  | .sub d a b => encLA 0x10 d a.enc b.enc 2
  | .subb d a b => encLA 0x10 d a.enc b.enc 3
  | .and d a b => encLA 0x10 d a.enc b.enc 4
  | .or d a b => encLA 0x10 d a.enc b.enc 5
  | .xor d a b => encLA 0x10 d a.enc b.enc 6
  | .andn d a b => encLA 0x10 d a.enc b.enc 7
  | .shl d a b => encLA 0x10 d a.enc b.enc 8
  | .shr d a b => encLA 0x10 d a.enc b.enc 9
  | .sar d a b => encLA 0x10 d a.enc b.enc 10
  | .rotl d a b => encLA 0x10 d a.enc b.enc 11
  | .min d a b => encLA 0x10 d a.enc b.enc 12
  | .max d a b => encLA 0x10 d a.enc b.enc 13
  | .minu d a b => encLA 0x10 d a.enc b.enc 14
  | .maxu d a b => encLA 0x10 d a.enc b.enc 15
  | .mul d a b => encLA 0x11 d a.enc b.enc 0
  | .mulh d a b => encLA 0x11 d a.enc b.enc 1
  | .mulhu d a b => encLA 0x11 d a.enc b.enc 2
  | .divs d a b => encLA 0x11 d a.enc b.enc 3
  | .divu d a b => encLA 0x11 d a.enc b.enc 4
  | .rems d a b => encLA 0x11 d a.enc b.enc 5
  | .remu d a b => encLA 0x11 d a.enc b.enc 6
  | .addw d a b => encLA 0x11 d a.enc b.enc 7
  | .subw d a b => encLA 0x11 d a.enc b.enc 8
  | .shlw d a b => encLA 0x11 d a.enc b.enc 9
  | .shrw d a b => encLA 0x11 d a.enc b.enc 10
  | .bprm d a b => encLA 0x11 d a.enc b.enc 11
  | .lea d a b s => encLA 0x11 d a.enc b.enc (3#2 ++ s)
  | .neg d a => encLA 0x12 d a.enc 0 0
  | .abs d a => encLA 0x12 d a.enc 0 1
  | .not d a => encLA 0x12 d a.enc 0 2
  | .clz d a => encLA 0x12 d a.enc 0 3
  | .ctz d a => encLA 0x12 d a.enc 0 4
  | .popc d a => encLA 0x12 d a.enc 0 5
  | .brev d a => encLA 0x12 d a.enc 0 6
  | .mov d a => encLA 0x12 d a.enc 0 7
  | .icmp cc cm k a b => encLA 0x13 (BitVec.ofNat 3 cm.code ++ k) a.enc b.enc (BitVec.ofNat 4 cc.code)
  | .sel d a b k inv => encLA 0x14 d a.enc b.enc (bit1 inv ++ k)
  | .bfx x y z n s => encLX 0x15 x y z (bit1 s ++ n)
  | .bfi x y z n => encLX 0x16 x y z (0#1 ++ n)
  | .mad d a b c => encLX 0x17 d a b c
  | .icmpi cc k a imm => encLI 0x18 (BitVec.ofNat 3 cc.code ++ k) a.enc imm
  | .addi d a imm => encLI 0x20 d a.enc imm
  | .andi d a imm => encLI 0x21 d a.enc imm
  | .ori d a imm => encLI 0x22 d a.enc imm
  | .xori d a imm => encLI 0x23 d a.enc imm
  | .shli d a n => encLI 0x24 d a.enc (0#6 ++ n)
  | .shri d a n => encLI 0x25 d a.enc (0#6 ++ n)
  | .sari d a n => encLI 0x26 d a.enc (0#6 ++ n)
  | .moviLo d imm => encLK 0x28 d 0 imm
  | .moviSx d imm => encLK 0x28 d 1 imm
  | .moviHi d imm => encLK 0x28 d 2 imm
  | .fadd rm d a b => encLA 0x30 d a.enc b.enc (0#2 ++ BitVec.ofNat 2 rm.code)
  | .fsub rm d a b => encLA 0x30 d a.enc b.enc (1#2 ++ BitVec.ofNat 2 rm.code)
  | .fmul rm d a b => encLA 0x30 d a.enc b.enc (2#2 ++ BitVec.ofNat 2 rm.code)
  | .fdiv rm d a b => encLA 0x30 d a.enc b.enc (3#2 ++ BitVec.ofNat 2 rm.code)
  | .fmin d a b => encLA 0x31 d a.enc b.enc 0
  | .fmax d a b => encLA 0x31 d a.enc b.enc 1
  | .fcls d a => encLA 0x31 d a.enc 0 2
  | .frnd rm d a => encLA 0x31 d a.enc 0 (1#2 ++ BitVec.ofNat 2 rm.code)
  | .fcmp p cm k a b => encLA 0x32 (BitVec.ofNat 3 cm.code ++ k) a.enc b.enc (BitVec.ofNat 4 p.code)
  | .frcp d a => encLA 0x33 d a.enc 0 0
  | .frsq d a => encLA 0x33 d a.enc 0 1
  | .fsqt d a => encLA 0x33 d a.enc 0 2
  | .fexp d a => encLA 0x33 d a.enc 0 3
  | .flog d a => encLA 0x33 d a.enc 0 4
  | .fspi d a => encLA 0x33 d a.enc 0 5
  | .fcpi d a => encLA 0x33 d a.enc 0 6
  | .ffma d a b c => encLX 0x34 d a b c
  | .hadd2 h d a b => encLA 0x38 d a.enc b.enc (h.bit ++ 0#3)
  | .hsub2 h d a b => encLA 0x38 d a.enc b.enc (h.bit ++ 1#3)
  | .hmul2 h d a b => encLA 0x38 d a.enc b.enc (h.bit ++ 2#3)
  | .hmin2 h d a b => encLA 0x38 d a.enc b.enc (h.bit ++ 3#3)
  | .hmax2 h d a b => encLA 0x38 d a.enc b.enc (h.bit ++ 4#3)
  | .hfma2F16 d a b c => encLX 0x39 d a b c
  | .hfma2Bf16 d a b c => encLX 0x3A d a b c
  | .hcmp2 p h cm k a b => encLA 0x3B (BitVec.ofNat 3 cm.code ++ k ++ 0#1) a.enc b.enc (h.bit ++ BitVec.ofNat 3 p.code)
  | .cadd t d a b => encLA t.major40 d a.enc b.enc 0
  | .csub t d a b => encLA t.major40 d a.enc b.enc 1
  | .cmul t d a b => encLA t.major40 d a.enc b.enc 2
  | .crot t d a b => encLA t.major40 d a.enc b.enc 6
  | .cmag t d a => encLA t.major40 d a.enc 0 3
  | .carg t d a => encLA t.major40 d a.enc 0 4
  | .cexi t d a => encLA t.major40 d a.enc 0 5
  | .cfmaFp16 d a b c => encLX 0x43 d a b c
  | .cfmaBf16 d a b c => encLX 0x44 d a b c
  | .cfmaFp32 d a b c => encLX 0x45 d a b c
  | .twid t inv d a n => encLI 0x46 d a.enc (0#3 ++ bit1 inv ++ BitVec.ofNat 2 t.code ++ n)
  | .bfly t x y z n => encLX 0x48 x y z (0#1 ++ BitVec.ofNat 2 t.code ++ n)
  | .shufIdx d a b => encLA 0x49 d a.enc b.enc 0
  | .shufXor d a b => encLA 0x49 d a.enc b.enc 1
  | .shufUp d a b => encLA 0x49 d a.enc b.enc 2
  | .shufDown d a b => encLA 0x49 d a.enc b.enc 3
  | .voteAll d k => encLA 0x4A d 0 0 (0#1 ++ k)
  | .voteAny d k => encLA 0x4A d 0 1 (0#1 ++ k)
  | .voteBallot d k => encLA 0x4A d 0 2 (0#1 ++ k)
  | .xcopy ft sc acq rel x y => encLX 0x4C x y 0 (bit1 ft ++ BitVec.ofNat 3 sc.code ++ bit1 acq ++ bit1 rel)
  | .xlut x slot z => encLX 0x4D x (0#4 ++ slot) z 0
  | .obres ob y cv => encLX 0x4E (0#2 ++ ob) y 0 (cvFld cv 0)
  | .obrel ob cv => encLX 0x4E (0#2 ++ ob) 0 0 (cvFld cv 1)
  | .obld ob y z cv => encLX 0x4E (0#2 ++ ob) y z (cvFld cv 2)
  | .obgat ob y z cv => encLX 0x4E (0#2 ++ ob) y z (cvFld cv 3)
  | .mma acc a b cv => encLX 0x4F (0#3 ++ acc) (0#2 ++ a) (0#2 ++ b) (cvFld cv 0)
  | .mmac acc a b cv => encLX 0x4F (0#3 ++ acc) (0#2 ++ a) (0#2 ++ b) (cvFld cv 1)
  | .mdft inv n acc a cv => encLX 0x4F (0#3 ++ acc) (0#2 ++ a) (0#3 ++ bit1 inv ++ BitVec.ofNat 2 n.code) (cvFld cv 2)
  | .mdrn acc y cv => encLX 0x4F (0#3 ++ acc) y 0 (cvFld cv 3)
  | .mzro i acc cv => encLX 0x4F (0#3 ++ acc) 0 (0#5 ++ bit1 i) (cvFld cv 4)
  | .cvt dst src rm sat x y => encLX 0x50 x y (bit1 sat ++ 0#1 ++ BitVec.ofNat 4 src.code) (BitVec.ofNat 2 rm.code ++ BitVec.ofNat 4 dst.code)
  | .qpack nf wf x y z => encLX 0x51 x y z (BitVec.ofNat 2 (wideCode wf) ++ BitVec.ofNat 4 nf.code)
  | .qunpk nf wf x y z => encLX 0x52 x y z (BitVec.ofNat 2 (wideCode wf) ++ BitVec.ofNat 4 nf.code)
  | .qscl nf wf x y z => encLX 0x53 x y z (BitVec.ofNat 2 (wideCode wf) ++ BitVec.ofNat 4 nf.code)
  | .rng x y z k => encLX 0x54 x y z (0#1 ++ k)
  | .tkget acc cv => encLX 0x57 (0#3 ++ acc) 0 0 (cvFld cv 0)
  | .tkput acc cv => encLX 0x57 (0#3 ++ acc) 0 0 (cvFld cv 1)
  | .acld x acc z => encLX 0x57 x (0#3 ++ acc) z (cvFld 0 2)
  | .acst x acc z => encLX 0x57 x (0#3 ++ acc) z (cvFld 0 3)
  | .mtwn cv => encLX 0x57 0 0 0 (cvFld cv 4)
  | .cbop x y z t => encLX 0x58 (0#3 ++ x) (0#3 ++ y) (0#3 ++ z) (0#2 ++ t)
  | .cbmvGet x y => encLX 0x59 x (0#3 ++ y) 0 0
  | .cbmvPut x y => encLX 0x59 x (0#3 ++ y) 0 1
  | .cbmvGetAll x => encLX 0x59 x 0 0 2
  | .cbmvPutAll x => encLX 0x59 x 0 0 3
  | .enq x y => encLX 0x5C x y 0 0
  | .enqNb x y => encLX 0x5C x y 0 1
  | .range x u => encLX 0x5D x (0#2 ++ u) 0 0
  | .qstat x y => encLX 0x5E x y 0 0
  | .tex x y z => encLX 0x5F x y z 0
  | .trav x y => encLX 0x5F x y 0 1
  | .rast y => encLX 0x5F 0 y 0 2
  | .bra off => encLB 0x60 0 0 0 off
  | .bc k inv h off => encLB 0x61 k (bit1 inv) (bit1 h) off
  | .call w off => 0#1 ++ 0x62#7 ++ w ++ off
  | .callc w k inv off => 0#1 ++ 0x63#7 ++ w ++ k ++ bit1 inv ++ off
  | .bri a => encLA 0x64 0 a.enc 0 0
  | .calli w y => encLX 0x65 w y 0 0
  | .ret => encLA 0x66 0 0 0 0
  | .retc k inv => encLB 0x67 k (bit1 inv) 0 0
  | .exit => encLA 0x68 0 0 0 0
  | .yield => encLA 0x69 0 0 0 0
  | .nap a m => encLI 0x6A 0 a.enc (0#8 ++ m)
  | .peal n => encLA 0x6B 0 (0#1 ++ n) 0 0
  | .conv cv => encLX 0x6C (0#3 ++ cv) 0 0 0
  | .convInit cv y => encLX 0x6C (0#3 ++ cv) y 0 1
  | .convQuery z cv => encLX 0x6C (0#3 ++ cv) 0 z 2
  | .ldg sz t b m imm => encLM 0x70 t b m (BitVec.ofNat 3 sz.code) imm
  | .stg sz t b m imm => encLM 0x71 t b m (BitVec.ofNat 3 sz.code) imm
  | .ldl sz t b m imm => encLM 0x72 t b m (BitVec.ofNat 3 sz.code) imm
  | .stl sz t b m imm => encLM 0x73 t b m (BitVec.ofNat 3 sz.code) imm
  | .ldt v sz t b m imm => encLM 0x74 t b m (BitVec.ofNat 1 v.code ++ BitVec.ofNat 2 sz.code) imm
  | .stt v sz t b m imm => encLM 0x75 t b m (BitVec.ofNat 1 v.code ++ BitVec.ofNat 2 sz.code) imm
  | .atom op m x y z => encLX 0x76 x y z (BitVec.ofNat 4 op.code ++ m.code)
  | .atomn op m y z => encLX 0x77 0 y z (BitVec.ofNat 4 op.code ++ m.code)
  | .cas d a b c => encLX 0x78 d a b c
  | .pref l b m imm => encLM 0x79 0 b m (BitVec.ofNat 3 l.code) imm
  | .fence s => encLK 0x7A 0 0 (BitVec.ofNat 16 s.code)
  | .bari x y => encLX 0x7B x y 0 0
  | .bara x y => encLX 0x7B x y 0 1
  | .barw x y => encLX 0x7B x y 0 2
  | .bart z x y => encLX 0x7B x y z 3
  | .flsetE x y => encLX 0x7C x y 0 0
  | .flsetF x y => encLX 0x7C x y 0 1
  | .cwb x y => encLX 0x7D x y 0 0
  | .cinv x y => encLX 0x7D x y 0 1
  | .iinv x y => encLX 0x7D x y 0 2
  | .fbar => encLX 0x7D 0 0 0 3
  | .ipre x y => encLX 0x7D x y 0 4
  | .ipin x y => encLX 0x7D x y 0 5
  | .iunp x y => encLX 0x7D x y 0 6
  | .uadd d a b => encUA d a.enc b.enc 0
  | .usub d a b => encUA d a.enc b.enc 1
  | .uand d a b => encUA d a.enc b.enc 2
  | .uor d a b => encUA d a.enc b.enc 3
  | .uxor d a b => encUA d a.enc b.enc 4
  | .ushl d a b => encUA d a.enc b.enc 5
  | .ushr d a b => encUA d a.enc b.enc 6
  | .usar d a b => encUA d a.enc b.enc 7
  | .umul d a b => encUA d a.enc b.enc 8
  | .umin d a b => encUA d a.enc b.enc 9
  | .umax d a b => encUA d a.enc b.enc 10
  | .umov d a => encUA d a.enc 0 11
  | .ulea d a b s => encUA d a.enc b.enc (3#5 ++ s)
  | .ucmp cc d a b => encUA d a.enc b.enc (16 + BitVec.ofNat 7 cc.code)
  | .usel d a b => encUA d a.enc b.enc 26
  | .umoviLo d imm => encUK d 0 imm
  | .umoviSx d imm => encUK d 1 imm
  | .umoviHi d imm => encUK d 2 imm
  | .uld d b imm => encUM d b imm
  | .scwayComplete .. | .scflComplete .. | .fenceHostTransmitted .. | .resetBringUp .. | .submissionDoorbell ..
  | .sqctlWrite .. | .rsizeWrite .. | .detack .. | .framePointerWrite .. | .scanoutLutWrite .. | .accessTableWrite ..
  | .registerWrite .. | .launchPacket | .hostRingEntryWrite .. | .dispose | .pagereply | .clearkill | .qread
  | .qdrain | .qlaunch | .gsreset | .colstate | .counts | .attest | .loadcode | .hostBar2Read .. | .hostBar2Write ..
  | .hostAtomicop .. | .hostDetach | .linkRetrain | .sensorPacket .. | .poseMirror | .scanoutFieldStart ..
  | .columnGrant .. | .crewSave .. | .saveTimeout .. | .crewResume .. | .crewTimerLapse .. | .remoteEnqAccept ..
  | .enqQueueRoom .. | .crewLaunch .. | .crewStart .. | .crewEnd .. | .issueCycle | .ageingPromotion ..
  | .ptsTick | .quiescenceUpdate | .leafChange .. | .pageWalk .. | .walkComplete .. | .pagingServiceReply ..
  | .taggedReply .. | .copySectorRead .. | .copySectorLand .. | .amaxFold .. | .obresSpaceFreed .. | .matrixEngineHang ..
  | .ffRequestTakeup .. | .texReply .. | .travReply .. | .rastRun .. | .thermalMigration .. | .thermalShutdown ..
  | .columnFence .. | .remapScrub .. | .faultRecordAppend .. | .fatalError .. | .dieFreeze .. | .halyardMessage ..
  | .napTimeout .. | .yieldExpiry .. | .matrixOperationFinished .. | .matrixEngineResetComplete .. | .cwbComplete ..
  | .cinvComplete .. | .iinvComplete .. | .ipinComplete .. | .instructionFetchReturn .. | .powerLoss
  => 0

end Sys2Proof
end

