-- ==== Sys2Proof/Config.lean ====
section
/-! DEFINITION. What one module fixes, and the free values: opaque constants of which nothing can be evaluated or
proved. A free value is a constant here applied to the State's draw counter or to the data it depends on. -/

namespace Sys2Proof.Config

/-! Sizes the spec states (01 Tables 1.2 and 1.4, 02 R24, 08 R180). -/
def dies : Nat := 2
def columns : Nat := 104
def enabledColumns : Nat := 96
def crewSlots : Nat := 64
def columnRegisters : Nat := 131072
def localBytes : Nat := 0x100000
def operandBytes : Nat := 0x40000
def poolTiles : Nat := 32
def transfersPerColumn : Nat := 64
def ffQueue : Nat := 128
def pinLimit : Nat := 256
def l1TlbEntries : Nat := 64
def sharedTlbEntries : Nat := 8192
def walkCacheEntries : Nat := 512
def walkers : Nat := 16
def icacheLines : Nat := 512
def columnCacheLines : Nat := 1024
def hangCycles : Nat := 0x100000

/-! Home ranges of the dies (01 R14) and the fatal-dump region (11 R238). -/
def home0 : Nat := 0
def homeEnd0 : Nat := 0x3000000000
def home1 : Nat := 0x4000000000
def homeEnd1 : Nat := 0x7000000000
def dumpBase : Nat := 0x2FF0000000

/-! Free values (assumption log, entry 2). -/

/-- The outcome taken at the n-th point at which the spec leaves several outcomes open. -/
opaque choice : Nat → Nat
/-- A value the spec does not state, at the n-th such point. -/
opaque freeWord : Nat → W32
opaque freeQuad : Nat → W64
/-- Byte i of a block of bytes whose contents the spec does not state, at the n-th such point. -/
opaque freeByte : Nat → Nat → W8
opaque freeBit : Nat → Bool

/-- Whether the host's side of the link carries AtomicOps (07 R160). -/
opaque hostAtomics : Bool

/-! Named by the spec and not defined by it (12 R255-R259). -/

/-- Byte i of the SHAKE256 output over the data. -/
opaque shake256 : List W8 → Nat → W8
/-- Whether an ML-DSA-65 signature over a message verifies against a public key: key, message, signature. -/
opaque mlDsaVerifies : List W8 → List W8 → List W8 → Bool
/-- Byte i of die d's ML-DSA-65 signature over a message by its identity key. -/
opaque identitySignature : Nat → List W8 → Nat → W8
/-- The signer trust list: public key i, for i below the number of keys, at most 16. -/
opaque trustKeys : Nat → List W8
opaque trustCount : Fin 17
/-- The five latest Aelent versions the firmware knows. -/
opaque knownVersion : Fin 5 → W16
/-- The digest fused in a die, of the Ovior key that firmware is signed with; a die's firmware image, its key and its
signature, as the boot ROM finds them; a die's identity key and the Ovior certificate for it. -/
opaque fusedDigest : Nat → List W8
opaque firmwareBytes : Nat → List W8
opaque firmwareKey : Nat → List W8
opaque firmwareSignature : Nat → List W8
opaque identityKey : Nat → List W8
opaque identityCertificate : Nat → List W8
/-- damtx: whether it knows a form version of the tile level (true) or the loop level (false). -/
opaque damtxKnows : Bool → W32 → Bool
/-- damtx: the words, and the index of the entry word, it gives for the body of a tile or loop section. -/
opaque damtxWords : Bool → List W8 → List W32 × Nat

/-- A stream that expands to a block (10 R209, 06 R146-R148): the compressor's choice for an algorithm and a block,
at the n-th such point; it is used only when it expands to the block and is at most 4,128 bytes long. -/
opaque stream : Nat → Nat → List W8 → List W8

end Sys2Proof.Config
end

