-- ==== Sys2Proof/Machine/State.lean ====
section
/-! DEFINITION. The state of the module as plain data (01, 02 R21, 04, 06 to 12), the reasons a step can stop, and the
state after reset. Memories and tables are lists in one canonical form: keys strictly rising, no entry at its default. -/

namespace Sys2Proof.Machine

open Sys2Proof

/-- Why a step stops. -/
inductive Fault where
  /-- Raised by step while the module is without power and no bring-up comes next (11 R238, 12 R260). Safe: a module
  without power does nothing. -/
  | poweredOff
  deriving DecidableEq, Repr

/-- Why an instruction has no meaning. -/
inductive Refusal where
  /-- Raised by an arm of exec that has no meaning yet, by the mnemonic of the opcode table. Safe: nothing is claimed. -/
  | notModelled (mnemonic : String)
  deriving DecidableEq, Repr

/-- Bytes by address: addresses strictly rising, no byte equal to what an unlisted address reads as, which is 0
(DESIGN CHOICE, log 3). -/
abbrev Memory := List Host.Cell

/-- The byte-addressed stores of the module: device memory by physical address, host memory by bus address, the
local-memory allocation of a crew (by its serial), the scratchpad of a column. -/
inductive Space where
  | dev
  | host
  | loc (uid : Nat)
  | scr (die col : Nat)
  deriving DecidableEq, Repr

/-- The causes of 11 Table 11.1. -/
inductive Cause where
  | illegalInsn | illegalPealWord | nestedEmulation | pageNotPresent | permission | reservedBit | alignment
  | accessTableDenied | memoryUncorrectable | tokenViolation | partialConvergence | twinSplit | returnUnderflow
  | stackSpillFault | operandFormat | hostDetached | matrixEngineReset | columnFenced | contextLost | softwareTrap
  | breakpoint | scratchShrunk | badStage
  deriving DecidableEq, Repr

/-! ## Threads (02 R21) -/

inductive EntryKind where
  | call | trap
  deriving DecidableEq, Repr

/-- A return-stack entry (04 R80): the return PC, or a trap frame's VA; the saved fb; the kind. -/
structure REntry where
  pc : W64
  fb : W32
  kind : EntryKind
  deriving DecidableEq, Repr

inductive CacheOp where
  | cwb | cinv | iinv | ipin
  deriving DecidableEq, Repr

/-- Whose access a walk is for: a thread's own, one of its backing store (04 R82), or one that an engine makes for it. -/
inductive WalkFor where
  | core | spill | engine
  deriving DecidableEq, Repr

/-- What a thread waits for (02 R23, 11 Table 11.5). -/
inductive Wait where
  | ready
  /-- an empty line, and the word of the access that is performed when the lines are full (06 R126); 0 for one inside a
  PEAL -/
  | line (addr : W32) (len : Nat) (word : W32)
  /-- BARW: the object, the phase it must leave (10 R217), and its word -/
  | barrier (obj : W32) (phase : Bool) (word : W32)
  /-- NAP: the deadline in module nanoseconds and the event mask (16 R345) -/
  | nap (deadline : Nat) (mask : BitVec 3)
  /-- ENQ on a full queue, its record read (15 R309) -/
  | queue (stage : Nat) (record : List W8)
  /-- a page that the paging service, or the host, has been asked for (08 R183) -/
  | pageFault (die : Nat) (va : W64) (syn : W32) (entry : W64) (word : Option W32) (toHost : Bool)
  /-- a fault-domain fault, by ticket (11 R223) -/
  | faultDomain (ticket : W32)
  /-- signed, at a crew-wide instruction of this word -/
  | convergence (k : Nat) (word : W32)
  /-- FENCE.host: every host store before this place must be transmitted (07 R158) -/
  | hostTx (place : Nat)
  /-- an instruction-cache miss, or the refetch of FBAR -/
  | fetch
  /-- a scoreboard dependency: a spill, or a trap frame, takes registers that await their replies (log 7) -/
  | replies
  /-- a translation miss that a walker has not finished (08 R181): the address, the kind, the word, whose access it is -/
  | walk (va : W64) (kind : Nat) (word : W32) (who : WalkFor)
  /-- YIELD, until this cycle (17 R389) -/
  | yield (until_ : Nat)
  /-- SCWAY (true) or SCFL (false) in progress or queued (06 R134, R137) -/
  | reef (ways : Bool)
  /-- a cache operation that is not complete; of IPIN, the lines that it has pinned (15 R326) -/
  | cacheOp (op : CacheOp) (pinned : List Nat)
  /-- the vertical queue is full: the instruction runs again when an entry frees (03 R71) -/
  | ffQueue (unit : FfUnit)
  /-- XCOPY, not accepted: 64 copies in flight, an earlier one waiting, or a descriptor line that is empty; the copies of
  a column are accepted in issue order (10 R212): the serial, the word, the empty line -/
  | copySlot (serial : Nat) (word : W32) (line : Option W32)
  /-- XLUT: a copy in flight names the slot, an earlier one waits, or a line is empty; in issue order (10 R218) -/
  | lutSlot (serial : Nat) (word : W32) (line : Option W32)
  /-- ENQ to the other die, not accepted yet (03 R57) -/
  | remoteEnq
  /-- QSTAT of a stage of the other die, not answered yet: the stage, and the window register (16 R357) -/
  | remoteQstat (stage : Nat) (x : Nat)
  deriving DecidableEq, Repr

/-- A fetched instruction word and its PC. -/
structure Fetched where
  pc : W64
  word : W32
  deriving DecidableEq, Repr

/-- A stripe slot that awaits the tagged reply of a request (01 R9). -/
structure Awaiting where
  slot : Nat
  tag : Nat
  deriving DecidableEq, Repr

/-- An access that a walk held up: its address, and the serial of its issue (08 R188), one and the same in all the threads
of an issue group whose access is one (02 R32). -/
structure Missed where
  va : W64
  serial : Nat
  /-- where the range, or the extent, begins in which it lies -/
  start : W64
  deriving DecidableEq, Repr

structure Thread where
  pc : W64
  cond : W8
  /-- S registers of 32 bits, by stripe slot (04 R73) -/
  stripe : List W32
  fb : W32
  sm : W32
  lk : W32
  /-- at most 16 entries, the top first -/
  rstack : List REntry
  /-- return depth, sys.rsd -/
  rsd : W32
  emu : Bool
  fpf : BitVec 5
  cause : W8
  epc : W64
  ebad : W64
  eword : W32
  clkHi : W32
  nsHi : W32
  recAddr : W32
  age : Nat
  /-- ageing class 0 -/
  aged : Bool
  tag : Bool
  wait : Wait
  /-- program timestamp (07 R162) -/
  pts : Nat
  /-- fence point, a place of the store order (07 R156) -/
  fence : Nat
  awaiting : List Awaiting
  /-- slots whose parity check fails (11 Table 11.6) -/
  bad : List Nat
  /-- a PEAL in progress holds the thread (02 R46) -/
  peal : Bool
  /-- the latest access of the instruction at the PC that waited for a walk -/
  missed : Option Missed
  /-- the trap entry that waited for a page of the backing store, and is made again: its cause and word (04 R82) -/
  entry : Option (Cause × Option W32)
  /-- the next instruction, fetched -/
  next : Option Fetched
  /-- the line the fetch buffers hold: virtual line number and its words (07 R170) -/
  fbuf : Option (Nat × List W32)
  deriving DecidableEq, Repr

/-! ## Crews (02 R31) -/

/-- A convergence register (02 R33). -/
structure Cv where
  declared : W32
  signed : W32
  pc : Option W64
  deriving DecidableEq, Repr

/-- The reservation record's fields (09 Table 9.3) and the range's bytes. -/
structure Reservation where
  fmt : Nat
  mode : W8
  blen : Nat
  oblen : Nat
  rows : Nat
  cols : Nat
  x : W16
  scaleoff : Nat
  superoff : Nat
  bmoff : Nat
  /-- the 32 bytes of the record, for the save image -/
  raw : List W8
  data : Memory
  /-- rows, and the number of columns, of the latest fill that lie in its matrix: other elements read as +0 (09 R194) -/
  zrows : List Nat
  vcols : Nat
  /-- its parity check fails (11 Table 11.6) -/
  bad : Bool
  deriving DecidableEq, Repr

/-- A named accumulator tile (09 R191, R199): elements not at +0, by index; its type; its token. -/
structure Tile where
  elems : List (Nat × W48)
  i48q2 : Bool
  vector : Bool
  /-- an uncorrectable error stands in it (11 Table 11.6) -/
  bad : Bool
  deriving DecidableEq, Repr

/-- A crew-wide operation whose set is complete and which is not performed yet (09 R192, R196, R199, R203). -/
inductive HeldWhy where
  /-- space for a reservation, an earlier operation, the twin, one of the 64 transfers, a line, a fill's data -/
  | space | order | twin | slots | line | fills
  deriving DecidableEq, Repr

structure Held where
  cv : Nat
  instr : Instr
  pc : W64
  last : Nat
  why : HeldWhy
  word : W32
  /-- the twin register has been passed (09 R203) -/
  met : Bool
  deriving DecidableEq, Repr

/-- A queued record, its append time, and the module nanosecond of its latest return by a restart (03 R58). -/
structure QRec where
  bytes : List W8
  ns : Nat
  back : Nat
  deriving DecidableEq, Repr

inductive Phase where
  /-- placed; the prologue engine works (03 R61) -/
  | placed
  | running
  /-- sealed for a save (11 R229), since a module nanosecond -/
  | sealed (why : SaveWhy) (since : Nat)
  /-- sealed for a move to this column of its die (11 R232) -/
  | moving (toCol : Nat)
  /-- present set empty, resources held until its transfers and operations are complete (15 R311) -/
  | ended
  deriving DecidableEq, Repr

/-- A binding's failure (03 R62): index, tid, cause, ebad, syndrome, entry. -/
structure BindError where
  index : Nat
  tid : Nat
  cause : Cause
  ebad : W64
  syn : W32
  entry : W64
  deriving DecidableEq, Repr

/-- A page that an engine waits for: the address, the kind, whether its walk is still to be made, and, of a page that has
been asked for, the syndrome, the entry and whether the host was asked (08 R181 to R183). -/
structure EnginePage where
  va : Nat
  kind : Nat
  walk : Bool
  syn : W32
  entry : W64
  toHost : Bool
  deriving DecidableEq, Repr

structure Crew where
  place : CrewAt
  /-- serial of this residence, never reused (MODEL, log 1) -/
  uid : Nat
  at_ : StageAt
  crewno : Nat
  present : W32
  /-- by tid, one for each launched record -/
  threads : List Thread
  g : List W32
  fp4x : W16
  cv : List Cv
  ob : List (Option Reservation)
  tiles : List Tile
  lsize : Nat
  lmode : W8
  mem : Memory
  /-- empty lines of the allocation, rising -/
  empty : List Nat
  /-- tracked copies outstanding into a line, by line -/
  tracked : List (Nat × Nat)
  /-- the records the crew was launched from (11 R230) -/
  records : List QRec
  phase : Phase
  /-- the prologue's next copy, 32 × its binding + its tid, and the page that it waits for (03 R61, R62) -/
  bindNext : Nat
  bindPage : Option EnginePage
  /-- the read of the prologue that has waited for a walk (08 R188) -/
  bindMissed : Option Missed
  bindErr : Option BindError
  /-- the place of the twin, of a paired stage -/
  twin : Option CrewAt
  first : Bool
  /-- the twin register's state (09 R203), held alike in both crews -/
  bound : Bool
  widowed : Bool
  held : List Held
  launchNs : Nat
  deriving DecidableEq, Repr

/-! ## Engines of a column -/

/-- Where one destination byte of a transfer comes from. -/
inductive ByteSrc where
  /-- byte at this source address -/
  | mem (a : Nat)
  /-- the low n bits of the byte at this source address (09 R194) -/
  | low (a n : Nat)
  /-- byte k of the LUT entry that the index byte at this source address names (10 R219) -/
  | lut (a esize k : Nat)
  /-- byte k of the conversion of the source element at bit address a (10 Table 10.3, convert) -/
  | cvt (a k : Nat)
  /-- two converted 4-bit elements from the source elements at bit addresses a and b -/
  | cvt4 (a b : Nat)
  /-- byte of an expanded block (06 R145) -/
  | expand (block off : Nat)
  /-- byte of the compressed buffer -/
  | compress (off : Nat)
  /-- byte k of drained element e, or with k = none the pair of 4-bit elements e and e + 1 -/
  | drain (e : Nat) (k : Option Nat)
  | const (b : W8)
  deriving DecidableEq, Repr

/-- A destination sector: its address and its bytes (07 R154). -/
structure WSector where
  addr : Nat
  cells : List (Nat × ByteSrc)
  deriving DecidableEq, Repr

/-- The drain descriptor's fields (09 Table 9.5). -/
structure DrainDesc where
  dst : Nat
  pitch : Nat
  dfmt : Nat
  rnd : Rm
  sat : Bool
  guided : Bool
  residual : Bool
  dropout : Bool
  scaled : Bool
  amaxOn : Bool
  release : Bool
  scope : Scope
  rfmt : Nat
  resid : Nat
  barrier : W32
  scale : W32
  key : W64
  row0 : W32
  col0 : W32
  stream : W32
  thresh : W32
  g : W32
  keep : W32
  amax : Nat
  deriving DecidableEq, Repr

/-- A range that a fill writes: its crew and number, its bytes by offset, the rows outside the matrix and the number of
columns inside it (09 R194). -/
structure FillInto where
  uid : Nat
  ob : Nat
  cells : List (Nat × ByteSrc)
  zrows : List Nat
  vcols : Nat
  deriving DecidableEq, Repr

/-- What an accepted transfer is (10 R208, 09 R194, R202, 17 R362). -/
inductive TKind where
  /-- transform, its argument, src, dst, the extent of dimension 0, dcap -/
  | copy (xform : Nat) (xarg : W32) (src dst len dcap : Nat)
  /-- fill of operand ranges: one, or both twins' (09 R204), or none once they are released -/
  | fill (into : List FillInto)
  /-- the drained elements after step 1, by index, as 48-bit FA48 values -/
  | drain (d : DrainDesc) (elems : List (Nat × W48))
  /-- the bin record (17 Table 17.2) -/
  | raster (record : List W8)
  deriving DecidableEq, Repr

structure TlbEntry where
  /-- virtual base, log2 of the size, physical base, the leaf entry and its level -/
  va : Nat
  bits : Nat
  pa : Nat
  leaf : W64
  level : Nat
  deriving DecidableEq, Repr

/-- Where a sector that has passed its checks goes. -/
inductive Landing where
  | local_ (sp : Space) (a : Nat)
  | device (pa : Nat) (e : TlbEntry)
  | host (pa : Nat)
  | register (die off : Nat)
  deriving DecidableEq, Repr

/-- A write sector that was counted off when its checks had passed, and is written later (07 R157). -/
structure LateSector where
  addr : Nat
  cells : List (Nat × W8)
  goal : Landing
  deriving DecidableEq, Repr

structure Transfer where
  tag : Nat
  uid : Nat
  region : Nat
  kind : TKind
  /-- source and destination lie in global memory -/
  gsrc : Bool
  gdst : Bool
  /-- matrix fetcher, prologue, copy engine or fixed-function: the sub-master of 08 Table 8.8 -/
  sub : Nat
  acquire : Bool
  release : Bool
  scope : Scope
  track : Bool
  barrier : Option W32
  phase : Bool
  /-- timestamp (07 R164) and the store-order place its reads have reached (07 R156) -/
  pts : Nat
  place : Nat
  /-- source sectors still to read, ascending: address and length -/
  reads : List (Nat × Nat)
  buf : List (Nat × W8)
  writes : List WSector
  written : Nat
  /-- bytes counted off when the last sector lands (10 R213) -/
  surplus : Nat
  /-- sectors counted off and not written yet (07 R157) -/
  late : List LateSector
  /-- lines still held by fill-tracking, with their counts in this transfer's sectors -/
  lines : List Nat
  guard : Nat
  gexp : W32
  /-- guard reads made -/
  gread : Nat
  /-- expand: 0 while the header is read, 1 while the map and the index are read, 2 while the streams are -/
  phase3 : Nat
  /-- LUT contents at acceptance -/
  lut : List W8
  lutOk : Bool
  /-- abort once the last sector has landed (10 R219) -/
  abortAtEnd : Bool
  waiting : Option EnginePage
  /-- the largest timestamp of the write sectors that are ordered before the completion (07 R164) -/
  wrote : Option Nat
  /-- of a fill, the last signer of each crew whose range it fills: serial, tid, the PC and the word of its OBLD (08 R187) -/
  signers : List (Nat × Nat × W64 × W32)
  /-- cycles without progress, of a matrix transfer (11 R231) -/
  idle : Nat
  /-- its next read has waited on an empty line, and follows the fill (06 R126) -/
  behindFill : Bool
  /-- prologue binding index and tid -/
  bind : Option (Nat × Nat)
  /-- the amax fold remains (09 R202) -/
  fold : Option Nat
  deriving DecidableEq, Repr

/-- A matrix operation in the engine (09 R196). -/
structure MatOp where
  id : Nat
  uid : Nat
  instr : Instr
  last : Nat
  pc : W64
  cv : Nat
  /-- fill transfers it must wait for -/
  fills : List Nat
  /-- MDRN: the descriptor read at performance, the barrier's phase, the twin's serial for a guided drain -/
  drain : Option (DrainDesc × Bool)
  twin : Option Nat
  /-- timestamp, and fence point, of the signer it was accepted from -/
  pts : Nat
  fence : Nat
  deriving DecidableEq, Repr

/-- A fixed-function request waits for an entry of its vertical queue, holds one, or has been taken up (03 R71). -/
inductive FfStep where
  | waiting | queued | taken
  deriving DecidableEq, Repr

/-- A rational, its denominator above 0. -/
structure Q where
  n : Int
  d : Int
  deriving DecidableEq, Repr

/-- A hit: its s, u and v as quotients over one positive denominator, and its primitive index. -/
structure Hit where
  s : Q
  u : Q
  v : Q
  index : W32
  deriving DecidableEq, Repr

/-- What a traversal has found: malformed; a value the spec does not state; the best hit. -/
structure Walked where
  broken : Bool
  unstated : Bool
  hit : Option Hit
  deriving DecidableEq, Repr

/-- A traversal that goes on: the nodes that may still be visited, by number, those that are to be, and what it has found. -/
structure Travel where
  left : Nat
  nodes : List Nat
  found : Walked
  deriving DecidableEq, Repr

/-- A request for a vertical queue (03 R71), not answered. -/
structure FfRequest where
  tag : Nat
  unit : FfUnit
  uid : Nat
  tid : Nat
  slot : Nat
  region : Nat
  /-- local-memory bytes of its record, and for TEX the two coordinates -/
  record : List W8
  u : W32
  v : W32
  phase : Bool
  pts : Nat
  place : Nat
  step : FfStep
  /-- the PC and the word of its instruction, and the page that its engine waits for (08 R181 to R183, R187) -/
  pc : W64
  word : W32
  waiting : Option EnginePage
  /-- how far a traversal has come that a walk has held up -/
  travel : Option Travel
  deriving DecidableEq, Repr

/-- A load whose reply has not been delivered: its destination slots and their values (01 R9). -/
structure LoadReply where
  tag : Nat
  uid : Nat
  tid : Nat
  writes : List (Nat × W32)
  deriving DecidableEq, Repr

/-- A leased copy of a line (07 R162). -/
structure Copy where
  line : Nat
  data : List W8
  wts : Nat
  rts : Nat
  deriving DecidableEq, Repr

/-- An instruction-cache line by virtual line number, with the words of its fill (15 R327). -/
structure ILine where
  line : Nat
  words : List W32
  pinned : Bool
  deriving DecidableEq, Repr

/-- A codebook LUT slot (10 R218). -/
structure LutSlot where
  length : Nat
  owner : Option Nat
  data : List W8
  deriving DecidableEq, Repr

/-- A word of a PEAL that is still to run, or a nested PEAL still to be entered: its threads, whether it stands at depth 1
(02 R43), and whether these are threads whose access waits for a walk. -/
structure PealWord where
  word : W32
  tids : List Nat
  outer : Bool
  again : Bool
  deriving DecidableEq, Repr

/-- A PEAL that holds its pipe (02 R43, R46): its group, its own word, the words to come in order, the threads whose word
is illegal, those that completed, and the latest timestamp of the words that ran (02 R44). -/
structure PealRun where
  place : CrewAt
  tids : List Nat
  pc : W64
  word : W32
  pipe : Nat
  todo : List PealWord
  illegal : List (Nat × W32)
  done : List Nat
  pts : Nat
  deriving DecidableEq, Repr

/-- A prefetch whose page is being walked (15 R326, 16 R353): n bytes at an address, the level of a PREF or none for IPRE,
and the thread's timestamp. -/
structure Hint where
  va : Nat
  len : Nat
  level : Option PrefLevel
  pts : Nat
  deriving DecidableEq, Repr

/-- A SCWAY or SCFL request of the column, in issue order (06 R134, R137). -/
structure ReefReq where
  thread : ThreadAt
  ways : Bool
  arg : W32
  word : W32
  cost : Nat
  deriving DecidableEq, Repr

structure Column where
  enabled : Bool
  fenced : Bool
  /-- the failure that fenced it left its scratchpad unreadable (11 R233) -/
  unreadable : Bool
  hot : Bool
  count : Nat
  owner : Option Nat
  scratch : Memory
  empty : List Nat
  tracked : List (Nat × Nat)
  luts : List LutSlot
  transfers : List Transfer
  ops : List MatOp
  hang : Nat
  resetting : Bool
  ff : List FfRequest
  loads : List LoadReply
  l1 : List TlbEntry
  icache : List ILine
  copies : List Copy
  reefs : List ReefReq
  hints : List Hint
  /-- the PEALs that hold a pipe (02 R46) -/
  peals : List PealRun
  deriving DecidableEq, Repr

/-! ## Dies -/

/-- A walk in progress or waiting for a walker (08 R181): virtual page number, requester, and, once it has found an
invalid entry, the 32-byte request sent for it, to the host or to the management core's service (08 R183). -/
structure Walk where
  page : Nat
  master : Nat
  region : Nat
  engine : Bool
  kind : Nat
  /-- the requesters that joined it; a prefetch joins none (15 R326, 16 R353) -/
  waiters : Nat
  queued : Bool
  asked : Bool
  toHost : Bool
  request : List W8
  deriving DecidableEq, Repr

/-- A walk-cache entry: its level, the VA bits of its key, the table entry read (08 R180). -/
structure WalkEntry where
  level : Nat
  key : Nat
  entry : W64
  deriving DecidableEq, Repr

structure Denial where
  master : Nat
  sub : Nat
  addr : Nat
  kind : Nat
  deriving DecidableEq, Repr

structure DenialRing where
  entries : List Denial
  overflow : Nat
  deriving DecidableEq, Repr

/-- A line of the stacked cache (06 R129, R138): home line, bank, way, dirty, the data line it shares. -/
structure StackLine where
  line : Nat
  bank : Nat
  way : Nat
  dirty : Bool
  data : Option Nat
  deriving DecidableEq, Repr

/-- A dedup data line (06 R139): its serial, bank, way, contents, reference count. -/
structure DedupLine where
  id : Nat
  bank : Nat
  way : Nat
  bytes : List W8
  count : Nat
  deriving DecidableEq, Repr

structure Pose where
  seq : W32
  ns : W64
  gaze : List W32
  pos : List W32
  quat : List W32
  deriving DecidableEq, Repr

structure ScanOut where
  pointer : W64
  /-- the pointer of the frame being shown, the colour of the next field -/
  shown : W64
  colour : Nat
  /-- LUT entries that differ from the reset map, by 4096 × colour + index; and those in effect -/
  lut : List (Nat × W16)
  lutNow : List (Nat × W16)
  /-- modulator codes of the latest field, by pixel, that are not 0 -/
  field : List (Nat × W16)
  /-- the fields of the frame in progress, of the last complete one, and whether the frame in progress is abandoned -/
  parts : List (List (Nat × W16))
  frame : List (List (Nat × W16))
  abandoned : Bool
  /-- fields started since reset -/
  started : Nat
  deriving DecidableEq, Repr

/-- What a halyard message carries (12 R252; MODEL, log 63): down, the columns of the leaf's cluster that each stage is
granted; up, a launch. -/
inductive Halyard where
  | grant (l : List (StageAt × List Nat))
  | launched (a : StageAt)
  deriving DecidableEq, Repr

/-- One direction of a halyard link (12 R252): permits at the sender, messages on the way, the oldest first, and messages
that wait for a permit. -/
structure HalyardLink where
  permits : Nat
  flight : List Halyard
  waiting : List Halyard
  deriving DecidableEq, Repr

/-- A narrowed access-table entry that is not complete (08 R188): target and master, its stamp, the windows it had, and
the serial from which commands and requests are later than the change. -/
structure Narrowed where
  target : Nat
  master : Nat
  stamp : Nat
  old : List (W64 × W64)
  serial : Nat
  deriving DecidableEq, Repr

/-- A range unit (03 R67). -/
structure RangeUnit where
  stage : StageAt
  next : W32
  remaining : W32
  minChunk : Nat
  divisor : Nat
  deriving DecidableEq, Repr

structure Die where
  clk : Nat
  floor : Nat
  quiet : Nat
  /-- the timestamp of the management core (07 R167, 08 R188) -/
  corePts : Nat
  /-- freed pages with the stamps of their changes: address, size, stamp -/
  quarantine : List (Nat × Nat × Nat)
  trbase : W64
  tlb : List TlbEntry
  walkCache : List WalkEntry
  walks : List Walk
  /-- access-table entries that differ from reset, by target and master: four windows of two words -/
  access : List ((Nat × Nat) × List (W64 × W64))
  /-- narrowed entries not yet complete (08 R188) -/
  narrowed : List Narrowed
  denials : List (Nat × DenialRing)
  l2 : List (Nat × Bool)
  stack : List StackLine
  dedup : List DedupLine
  collisions : W32
  rdc : List Copy
  pose : Pose
  /-- updates on their way to die 1, the oldest first, each with the timestamp of its stores (12 R251) -/
  poseSend : List (Pose × Nat)
  sensorDrops : Nat
  scan : ScanOut
  frozen : Bool
  /-- module nanoseconds of the latest restart of the watchdog (12 R253) -/
  watchdog : Nat
  down : List HalyardLink
  up : List HalyardLink
  corrected : List Nat
  tcol : W32
  /-- since when tcol has exceeded 115 °C (12 R260) -/
  hotNs : Option Nat
  plimit : W32
  ranges : List (Nat × RangeUnit)
  ticket : Nat
  firmwareLog : List Nat
  fenced : List Nat
  /-- remap-table entries, by the column of the bank they serve, that are not good in both copies (11 R235) -/
  remap : List (Nat × RemapCheck × RemapCheck)
  /-- module nanoseconds of the latest scrub of the remap table -/
  scrubNs : Nat
  /-- the stage that the scheduler served last (03 R64) -/
  lastServed : Option StageAt
  /-- digest of the firmware image that was accepted (12 R255) -/
  digest : List W8
  deriving DecidableEq, Repr

/-! ## Regions and stages (03) -/

/-- A stage descriptor's fields (03 Table 3.3). -/
structure StageDesc where
  entry : W64
  recsize : Nat
  crewsize : Nat
  stripeCode : Nat
  timed : Bool
  paired : Bool
  persistent : Bool
  capacity : Nat
  timer : Nat
  lsize : Nat
  lmode : W8
  rangeunit : Nat
  nbind : Nat
  tiles : Nat
  die : Nat
  bindings : Nat
  outs : List Nat
  deriving DecidableEq, Repr

/-- A region's effective values (03 Table 3.1, R49). -/
structure Effective where
  priority : Nat
  restartable : Bool
  hostDependent : Bool
  detachable : Bool
  faultsToHost : Bool
  domain : W16
  mincols : Nat
  maxcols : Nat
  lmem : Nat
  ways : Nat
  tiles : Nat
  ageing : Nat
  faultstage : Option StageAt
  emuhandler : W64
  traphandler : W64
  stackbase : Nat
  stacksize : Nat
  genlist : Nat
  gencount : Nat
  deriving DecidableEq, Repr

/-- A formed crew, or pair, that waits for a column (03 R60). -/
structure Formed where
  records : List QRec
  second : Option (List QRec)
  since : Nat
  deriving DecidableEq, Repr

/-- A saved crew: the address of its image, and what stays outside it: the crew as it was sealed, the dispositions
recorded while it is saved, by tid, with the timestamp of who made them (11 R225), a detachment since (12 Table 12.3),
the reefed count its scratchpad image has, its twin. -/
structure Saved where
  crew : Crew
  image : Nat
  disposed : List (Nat × Nat × Nat)
  detach : Bool
  scratch : Nat
  pair : Option Nat
  fenced : Bool
  /-- the fencing left the scratchpad unreadable (11 R233) -/
  lost : Bool
  deriving DecidableEq, Repr

structure Stage where
  desc : Option StageDesc
  /-- the capacity field as read, of a malformed descriptor too -/
  capacity : Option Nat
  queue : List QRec
  formed : List Formed
  saved : List Saved
  /-- start record of a persistent stage that runs -/
  start : Option (List W8)
  grant : List Nat
  waiting : Option Nat
  deriving DecidableEq, Repr

structure Region where
  rcb : Nat
  parent : Nat
  eff : Effective
  savearea : Nat
  stages : List Stage
  deriving DecidableEq, Repr

/-- The 64-byte fault record's fields (11 Table 11.2). -/
structure FaultRec where
  ticket : W32
  cause : Option Cause
  tid : W8
  rkind : Nat
  index : Nat
  rcb : Nat
  epc : W64
  ebad : W64
  eword : W32
  syn : W32
  entry : W64
  stage : Nat
  crewno : Nat
  place : CrewAt
  ns : Nat
  deriving DecidableEq, Repr

/-- Where a record goes (11 R224, 14 R298). -/
inductive Dest where
  | stage (s : StageAt)
  | ring (k : Nat)
  deriving DecidableEq, Repr

structure Ticket where
  ticket : W32
  dest : Dest
  rkind : Nat
  tid : Nat
  uid : Nat
  rcb : Nat
  cause : Option Cause
  deriving DecidableEq, Repr

/-- A record bound for a fault stage or a host ring (11 R224, 12 R243). -/
structure Outgoing where
  die : Nat
  dest : Dest
  bytes : List W8
  deriving DecidableEq, Repr

/-- A posted item on die 0's outbound path (07 R160, 12 R242, R243). -/
inductive Posted where
  /-- address, bytes, the agent that stored (its serial), the place in the store order -/
  | store (addr : Nat) (bytes : List W8) (agent : Nat) (place : Nat)
  /-- an engine's write sector: the runs of bytes that it writes (07 R154) -/
  | sector (runs : List (Nat × List W8)) (agent : Nat) (place : Nat)
  /-- an entry of host ring k, with the advance of its rtail -/
  | entry (k : Nat) (addr : Nat) (bytes : List W8) (place : Nat)
  | msi (v : Nat)
  deriving DecidableEq, Repr

/-- What the outside has been answered (12 R240). -/
inductive HostReply where
  | data (bytes : List W8)
  | unsupported
  deriving DecidableEq, Repr

structure HostRing where
  base : W64
  size : W32
  head : W32
  tail : W32
  deriving DecidableEq, Repr

/-- Host registers (12 Table 12.2). -/
structure HostRegs where
  rev : W32
  bringup : W32
  colmask0 : BitVec 104
  colmask1 : BitVec 104
  sqbase : W64
  sqsize : W32
  sqctl : W32
  sqhead : W32
  sqtail : W32
  sqerr : W32
  rings : List HostRing
  apbase : W64
  detcount : W32
  detdrop : W32
  detread : W32
  detns : W64
  deriving DecidableEq, Repr

/-- The recovery mailbox (12 Table 12.5). -/
structure Mailbox where
  cmd : W32
  status : W32
  driving : Bool
  args : Memory
  result : Memory
  deriving DecidableEq, Repr

/-- A record of an ENQ on its way to the other die's queue, or the records of the launch packet in progress on their
way to die 1's, in the order sent (03 R55, R57; 12 R247): the stage; of an ENQ its bytes, the thread that waits, and
the form. -/
structure Transit where
  stage : StageAt
  bytes : List W8
  thread : Option ThreadAt
  nb : Bool
  deriving DecidableEq, Repr

/-- The launch packet in progress, its checks passed (03 R55): what it appends, its completion, and whether its records
are on their way to die 1. -/
structure Launching where
  at_ : StageAt
  records : List (List W8)
  done : Nat
  flags : Nat
  forwarded : Bool
  deriving DecidableEq, Repr

/-- A store's trace in the store order: the place, the space and address, the byte before it, and the write timestamp of
its line before it (07 R156, R164). -/
structure Past where
  place : Nat
  space : Space
  addr : Nat
  old : W8
  wts : Nat
  deriving DecidableEq, Repr

/-- The trace of a change of a line's full/empty bit: the place, the space and the line, and whether it was empty before
(06 R126). -/
structure LinePast where
  place : Nat
  space : Space
  line : Nat
  empty : Bool
  deriving DecidableEq, Repr

/-- A step of the firmware, the sensor link or the scan-out engine that waits for the walk of a page of a die, and the pages
whose walks have been made for it (08 R181). -/
structure HeldStep where
  instr : Instr
  die : Nat
  page : Nat
  walked : List (Nat × Nat)
  deriving DecidableEq, Repr

/-- Uncorrectable errors that stand in local memory or a scratchpad (11 R236). -/
inductive Damage where
  /-- the 8 bytes of local memory, or of scratchpad, at 8 times a number -/
  | loc (uid word : Nat)
  | scr (die col word : Nat)
  deriving DecidableEq, Repr

/-- An issue group (02 R25), and the word it executes. -/
structure Group where
  place : CrewAt
  tids : List Nat
  pc : W64
  pipe : Nat
  deriving DecidableEq, Repr

/-- The group that executes: its word; inside a PEAL the words' own PC stays at the PEAL, and threads that complete are
noted (02 R43). -/
structure Current where
  place : CrewAt
  tids : List Nat
  pc : W64
  word : W32
  pipe : Nat
  peal : Bool
  done : List Nat
  deriving DecidableEq, Repr

structure State where
  power : Bool
  fatal : Option (FatalCause × Nat)
  ns : Nat
  /-- twelfths of a nanosecond: one cycle of 2.4 GHz is five -/
  nsPart : Nat
  attached : Bool
  /-- the host has assigned the function's BARs since the link trained (12 R246) -/
  enumerated : Bool
  /-- launches and resumptions are held since a detachment (12 R245, R246) -/
  heldLaunch : Bool
  mem : Memory
  /-- home line stamps that are not (0, 0): line, wts, rts (07 R162) -/
  stamps : List (Nat × Nat × Nat)
  /-- the same for lines of the other stores, by `lineKey`, and the timestamp of the host's agent (MODEL, log 17) -/
  others : List (Nat × Nat × Nat)
  hostPts : Nat
  /-- poisoned lines with the parts written since (11 R234) -/
  poison : List (Nat × List Nat)
  damage : List Damage
  /-- leaves the management cores set executable: entry address, value and level (12 R256) -/
  execLeaves : List (Nat × W64 × Nat)
  /-- physical pages, by number, into which the management cores have written code (12 R256) -/
  codePages : List Nat
  hostMem : Memory
  hostOut : List Posted
  /-- a store of a thread, or a write sector, has been dropped by a detachment (12 Table 12.3) -/
  hostLost : Bool
  host : HostRegs
  mailbox : Mailbox
  msix : Memory
  msiSent : List Nat
  replies : List HostReply
  die0 : Die
  die1 : Die
  /-- column c of die d at 104·d + c -/
  cols : List Column
  crews : List Crew
  regions : List Region
  kills : List Nat
  tickets : List Ticket
  outgoing : List Outgoing
  transit : List Transit
  /-- the packet that die 0's scheduler has taken from the submission ring -/
  launching : Option Launching
  /-- crews the schedulers have chosen to save, and the stage and column they make room for (03 R65) -/
  victims : List CrewAt
  targets : List (StageAt × Nat)
  grantNs : Nat
  /-- MODEL fields (log 1, log 2, log 4) -/
  agenda : List Instr
  pending : List Group
  cur : Current
  oracle : Nat
  store : Nat
  past : List Past
  /-- changes of full/empty bits, latest first (06 R126, log 4) -/
  linePast : List LinePast
  /-- steps that wait for walks; of the step that is made, the pages whose walks have been made for it, and the first other
  one that it misses: die, page, master (08 R181) -/
  heldSteps : List HeldStep
  walkedFor : List (Nat × Nat)
  missedPage : Option (Nat × Nat × Nat)
  serial : Nat
  deriving DecidableEq, Repr

/-! ## Reset -/

def zeroBytes (n : Nat) : List W8 := List.replicate n 0

def LutSlot.reset : LutSlot := { length := 0, owner := none, data := [] }

/-- A column before bring-up: nothing resident, nothing reefed, caches empty. -/
def Column.reset : Column :=
  { enabled := false, fenced := false, unreadable := false, hot := false, count := 0, owner := none, scratch := [], empty := [],
    tracked := [], luts := List.replicate 4 LutSlot.reset, transfers := [], ops := [], hang := 0, resetting := false,
    ff := [], loads := [], l1 := [], icache := [], copies := [], reefs := [], hints := [], peals := [] }

def Pose.reset : Pose := { seq := 0, ns := 0, gaze := [0, 0, 0, 0], pos := [0, 0, 0], quat := [0, 0, 0, 0] }

def ScanOut.reset : ScanOut :=
  { pointer := 0, shown := 0, colour := 0, lut := [], lutNow := [], field := [], parts := [], frame := [],
    abandoned := false, started := 0 }

def Die.reset : Die :=
  { clk := 0, floor := 0, quiet := 0, corePts := 0, quarantine := [], trbase := 0, tlb := [], walkCache := [], walks := [],
    access := [], narrowed := [], denials := [], l2 := [], stack := [], dedup := [], collisions := 0, rdc := [],
    pose := Pose.reset, poseSend := [], sensorDrops := 0, scan := ScanOut.reset, frozen := false, watchdog := 0,
    down := List.replicate 13 ⟨8, [], []⟩, up := List.replicate 13 ⟨8, [], []⟩, corrected := List.replicate 9 0, tcol := 0,
    hotNs := none, plimit := 300, ranges := [], ticket := 1, firmwareLog := [], fenced := [], remap := [], scrubNs := 0,
    lastServed := none, digest := zeroBytes 64 }

def HostRing.reset : HostRing := { base := 0, size := 0, head := 0, tail := 0 }

def HostRegs.reset : HostRegs :=
  { rev := 0, bringup := 0, colmask0 := 0, colmask1 := 0, sqbase := 0, sqsize := 6, sqctl := 0, sqhead := 0,
    sqtail := 0, sqerr := 0, rings := List.replicate 3 HostRing.reset, apbase := 0, detcount := 0, detdrop := 0,
    detread := 0, detns := 0 }

def Mailbox.reset : Mailbox := { cmd := 0, status := 0, driving := false, args := [], result := [] }

def Current.none : Current :=
  { place := ⟨0, 0, 0⟩, tids := [], pc := 0, word := 0, pipe := 0, peal := false, done := [] }

/-- The module right after reset, before bring-up (12 R260): the values of Table 12.2 and of the chapters; the values
the spec does not state are those of log 3 and log 5. -/
def State.reset : State :=
  { power := true, fatal := none, ns := 0, nsPart := 0, attached := true, enumerated := false, heldLaunch := false, mem := [],
    stamps := [], others := [], hostPts := 0, poison := [], damage := [], execLeaves := [], codePages := [],
    hostMem := [], hostOut := [], hostLost := false, host := HostRegs.reset,
    mailbox := Mailbox.reset, msix := [], msiSent := [], replies := [], die0 := Die.reset, die1 := Die.reset,
    cols := List.replicate 208 Column.reset, crews := [], regions := [], kills := [], tickets := [], outgoing := [],
    transit := [], launching := none, victims := [], targets := [], grantNs := 0, agenda := [], pending := [], cur := Current.none,
    oracle := 0, store := 0, past := [], linePast := [], heldSteps := [], walkedFor := [], missedPage := none, serial := 0 }

end Sys2Proof.Machine
end

