-- ==== Sys2Proof/Machine/Bytes.lean ====
section
/-! DEFINITION. Bytes in memories and little-endian values (00 R1); sparse tables by key. -/

namespace Sys2Proof.Machine

open Sys2Proof

/-! Sparse tables: keys strictly rising, no entry at the default. -/

/-- The entry at a key, or the default. -/
def look [DecidableEq β] (dflt : β) : List (Nat × β) → Nat → β
  | [], _ => dflt
  | (k, v) :: t, a => if k = a then v else look dflt t a

/-- The table with the entry set; an entry at the default is removed. -/
def put [DecidableEq β] (dflt : β) (a : Nat) (b : β) : List (Nat × β) → List (Nat × β)
  | [] => if b = dflt then [] else [(a, b)]
  | (k, v) :: t =>
    if a < k then (if b = dflt then (k, v) :: t else (a, b) :: (k, v) :: t)
    else if a = k then (if b = dflt then t else (a, b) :: t)
    else (k, v) :: put dflt a b t

/-- The canonical form of a table whose keys all pass a bound. -/
def tableFrom [DecidableEq β] (dflt : β) : Option Nat → List (Nat × β) → Bool
  | _, [] => true
  | lo, (k, v) :: t =>
    (match lo with
      | none => true
      | some l => decide (l < k)) && decide (v ≠ dflt) && tableFrom dflt (some k) t

/-- A rising list of numbers as a set. -/
def insertN (a : Nat) : List Nat → List Nat
  | [] => [a]
  | k :: t => if a < k then a :: k :: t else if a = k then k :: t else k :: insertN a t

/-! Memories. -/

/-- The byte at an address: an address that is not listed reads as 0 (log 3). -/
def Memory.read (m : Memory) (a : Nat) : W8 := look 0 m a
def Memory.write (m : Memory) (a : Nat) (b : W8) : Memory := put 0 a b m
/-- The canonical form of a memory. -/
def Memory.wf (m : Memory) : Bool := tableFrom (0 : W8) none m

def Memory.readN (m : Memory) (a : Nat) : Nat → List W8
  | 0 => []
  | n + 1 => m.read a :: Memory.readN m (a + 1) n

def Memory.writeL (m : Memory) (a : Nat) : List W8 → Memory
  | [] => m
  | b :: t => Memory.writeL (m.write a b) (a + 1) t

/-! Little-endian values. -/

/-- The number that bytes hold, lowest first. -/
def leNat : List W8 → Nat
  | [] => 0
  | b :: t => b.toNat + 256 * leNat t

/-- The n bytes of a number, lowest first. -/
def leBytes : Nat → Nat → List W8
  | 0, _ => []
  | n + 1, v => BitVec.ofNat 8 v :: leBytes n (v / 256)

def le16 (l : List W8) : W16 := BitVec.ofNat 16 (leNat (l.take 2))
def le32 (l : List W8) : W32 := BitVec.ofNat 32 (leNat (l.take 4))
def le64 (l : List W8) : W64 := BitVec.ofNat 64 (leNat (l.take 8))
def bytes16 (v : W16) : List W8 := leBytes 2 v.toNat
def bytes32 (v : W32) : List W8 := leBytes 4 v.toNat
def bytes64 (v : W64) : List W8 := leBytes 8 v.toNat

/-- n bytes of a record from an offset, as a number. -/
def fieldAt (l : List W8) (off n : Nat) : Nat := leNat ((l.drop off).take n)

/-- A signed reading of the low n bits of a number. -/
def signedNat (n v : Nat) : Int := if v % 2 ^ n < 2 ^ (n - 1) then (v % 2 ^ n : Nat) else (v % 2 ^ n : Nat) - (2 ^ n : Nat)

def ceilDiv (a b : Nat) : Nat := (a + b - 1) / b

/-- The 128-byte lines that overlap n bytes from an address. -/
def linesOf (a n : Nat) : List Nat :=
  if n = 0 then [] else (List.range ((a + n - 1) / 128 - a / 128 + 1)).map (· + a / 128)

/-- The 4 KiB pages that overlap n bytes from an address. -/
def pagesOf (a n : Nat) : List Nat :=
  if n = 0 then [] else (List.range ((a + n - 1) / 4096 - a / 4096 + 1)).map (· + a / 4096)

/-- The 32-byte sectors that overlap n bytes from an address, as address and length, ascending (07 R154). -/
def sectorsOf (a n : Nat) : List (Nat × Nat) :=
  if n = 0 then [] else
    (List.range ((a + n - 1) / 32 - a / 32 + 1)).map fun i =>
      let b := 32 * (a / 32 + i)
      let lo := max a b
      (lo, min (a + n) (b + 32) - lo)

def zeros (n : Nat) : List W8 := List.replicate n 0

end Sys2Proof.Machine
end

