-- ==== Sys2Proof/Machine/Flags.lean ====
section
/-! DEFINITION. Floating-point values, the one rounding every result takes and the flags it raises (05 R91 to R105,
R112), the exact sums and products, and the carry and borrow of the wide integer forms (14 R286, 17 R374). -/

namespace Sys2Proof

open Sys2Proof.Machine

/-! ## Flags (05 Table 5.3) -/

abbrev Fl := BitVec 5
def Fl.invalid : Fl := 1
def Fl.divZero : Fl := 2
def Fl.overflow : Fl := 4
def Fl.underflow : Fl := 8
def Fl.inexact : Fl := 16

/-! ## Formats (05 Table 5.1) -/

/-- How a format uses its all-ones exponent. -/
inductive Top where
  | ieee
  /-- normal values, but for one NaN and no infinity (e4m3) -/
  | nanOnly
  /-- normal values only (e2m1) -/
  | finite
  deriving DecidableEq, Repr

/-- Exponent bits, fraction bits, bias. -/
structure FpFmt where
  eb : Nat
  mb : Nat
  bias : Nat
  top : Top
  deriving DecidableEq, Repr

def FpFmt.fp32 : FpFmt := ⟨8, 23, 127, .ieee⟩
def FpFmt.fp16 : FpFmt := ⟨5, 10, 15, .ieee⟩
def FpFmt.bf16 : FpFmt := ⟨8, 7, 127, .ieee⟩
def FpFmt.e4m3 : FpFmt := ⟨4, 3, 7, .nanOnly⟩
def FpFmt.e5m2 : FpFmt := ⟨5, 2, 15, .ieee⟩
def FpFmt.e2m1 : FpFmt := ⟨2, 1, 1, .finite⟩
def FpFmt.fa48 : FpFmt := ⟨10, 37, 511, .ieee⟩
def CType.fp : CType → FpFmt
  | .fp16 => .fp16
  | .bf16 => .bf16
  | .fp32 => .fp32
def Half.fp : Half → FpFmt
  | .fp16 => .fp16
  | .bf16 => .bf16

def FpFmt.width (f : FpFmt) : Nat := 1 + f.eb + f.mb
def FpFmt.signBit (f : FpFmt) : Nat := 2 ^ (f.eb + f.mb)
def FpFmt.infMag (f : FpFmt) : Nat := (2 ^ f.eb - 1) * 2 ^ f.mb
/-- The magnitude code of the largest finite value. -/
def FpFmt.maxMag (f : FpFmt) : Nat :=
  match f.top with
  | .ieee => f.infMag - 1
  | .nanOnly => 2 ^ (f.eb + f.mb) - 2
  | .finite => 2 ^ (f.eb + f.mb) - 1

/-- A value: a NaN with its sign, its fraction at the top of 52 bits and its quiet bit; an infinity; a finite
m × 2^e. -/
inductive Fp where
  | nan (neg : Bool) (payload : Nat) (quiet : Bool)
  | inf (neg : Bool)
  | fin (neg : Bool) (m : Nat) (e : Int)
  deriving DecidableEq, Repr

def Fp.isNan : Fp → Bool
  | .nan .. => true
  | _ => false
def Fp.isSignalling : Fp → Bool
  | .nan _ _ q => !q
  | _ => false
def Fp.neg : Fp → Fp
  | .nan s p q => .nan s p q
  | .inf s => .inf !s
  | .fin s m e => .fin (!s) m e
def Fp.sign : Fp → Bool
  | .nan s _ _ => s
  | .inf s => s
  | .fin s _ _ => s
def Fp.isZero : Fp → Bool
  | .fin _ 0 _ => true
  | _ => false

/-- The value of a code (05 R91). -/
def FpFmt.decode (f : FpFmt) (code : Nat) : Fp :=
  let neg := code / f.signBit % 2 == 1
  let mag := code % f.signBit
  let ex := mag / 2 ^ f.mb
  let fr := mag % 2 ^ f.mb
  let fin : Fp :=
    if ex = 0 then .fin neg fr (1 - (f.bias : Int) - f.mb) else .fin neg (fr + 2 ^ f.mb) ((ex : Int) - f.bias - f.mb)
  match f.top with
  | .ieee =>
    if mag < f.infMag then fin
    else if fr = 0 then .inf neg
    else .nan neg (fr * 2 ^ (52 - f.mb)) (fr / 2 ^ (f.mb - 1) % 2 == 1)
  | .nanOnly => if mag = 2 ^ (f.eb + f.mb) - 1 then .nan neg (2 ^ 51) true else fin
  | .finite => fin

/-- The canonical NaN of a format (05 R91). -/
def FpFmt.canonical (f : FpFmt) : Nat :=
  match f.top with
  | .ieee => f.infMag + 2 ^ (f.mb - 1)
  | .nanOnly => 2 ^ (f.eb + f.mb) - 1
  | .finite => 0

/-- A NaN in a format: sign and the top of the payload kept, the quiet bit set (05 R96); code 0 where there is none. -/
def FpFmt.ofNan (f : FpFmt) (neg : Bool) (payload : Nat) : Nat :=
  match f.top with
  | .ieee => (if neg then f.signBit else 0) + f.infMag + (payload / 2 ^ (52 - f.mb)) % 2 ^ (f.mb - 1) + 2 ^ (f.mb - 1)
  | .nanOnly => (if neg then f.signBit else 0) + (2 ^ (f.eb + f.mb) - 1)
  | .finite => 0

def bitLen (n : Nat) : Nat := if n = 0 then 0 else Nat.log2 n + 1

/-- Whether rounding goes up from floor n, with remainder r of a unit of size 2^k and a part below. -/
def roundsUp (rm : Rm) (neg : Bool) (n r k : Nat) (sticky : Bool) : Bool :=
  match rm with
  | .rz => false
  | .rup => !neg && (r != 0 || sticky)
  | .rdn => neg && (r != 0 || sticky)
  | .rne =>
    if k = 0 then false
    else
      let h := 2 ^ (k - 1)
      decide (h < r) || (r == h && (sticky || n % 2 == 1))

/-- m × 2^e, with a further positive part below 2^e when sticky, rounded to a multiple of 2^q: the multiple, and whether
it is inexact. When sticky, e ≤ q. -/
def roundTo (rm : Rm) (neg : Bool) (m : Nat) (e q : Int) (sticky : Bool) : Nat × Bool :=
  if q ≤ e then (m * 2 ^ (e - q).toNat, sticky)
  else
    let k := (q - e).toNat
    let n := m / 2 ^ k
    let r := m % 2 ^ k
    (n + (if roundsUp rm neg n r k sticky then 1 else 0), r != 0 || sticky)

/-- The magnitude code of n × 2^q, with n at most 2^(mb+1). -/
def FpFmt.magOf (f : FpFmt) (n : Nat) (q : Int) : Nat :=
  if n < 2 ^ f.mb then n else ((q + f.mb + f.bias).toNat) * 2 ^ f.mb + n - 2 ^ f.mb

/-- The result of an overflow (05 R93, R99, R100, Table 5.4). -/
def FpFmt.overflowCode (f : FpFmt) (rm : Rm) (sat neg : Bool) : Nat :=
  let toInf := match rm with
    | .rne => true
    | .rz => false
    | .rup => !neg
    | .rdn => neg
  let sgn := if neg then f.signBit else 0
  match f.top with
  | .finite => sgn + f.maxMag
  | .ieee => if sat || !toInf then sgn + f.maxMag else sgn + f.infMag
  | .nanOnly => if sat || !toInf then sgn + f.maxMag else sgn + (2 ^ (f.eb + f.mb) - 1)

/-- The one rounding (05 R93, R94): the code and the flags. Tininess is judged after rounding with an unbounded
exponent. -/
def FpFmt.round (f : FpFmt) (rm : Rm) (sat neg : Bool) (m : Nat) (e : Int) (sticky : Bool) : Nat × Fl :=
  let sgn := if neg then f.signBit else 0
  if m = 0 ∧ !sticky then (if f.top = .finite then 0 else sgn, 0)
  else
    let topBit : Int := e + bitLen m - 1
    let qFree := topBit - f.mb
    let qMin : Int := 1 - (f.bias : Int) - f.mb
    let q := max qFree qMin
    let (n, ix) := roundTo rm neg m e q sticky
    let (nf, _) := roundTo rm neg m e qFree sticky
    -- a carry out of the top keeps the code's value: the magnitude code runs on into the exponent
    let mag := if n = 2 ^ (f.mb + 1) then f.magOf (2 ^ f.mb) (q + 1) else f.magOf n q
    let tiny := decide (qFree < qMin) && !(decide (nf = 2 ^ (f.mb + 1)) && decide (qFree + 1 = qMin))
    if mag > f.maxMag then (f.overflowCode rm sat neg, Fl.overflow ||| Fl.inexact)
    else
      let fl : Fl := (if ix then Fl.inexact else 0) ||| (if ix && tiny then Fl.underflow else 0)
      (if f.top = .finite ∧ mag = 0 then 0 else sgn + mag, fl)

/-! ## Exact values with a sign of zero -/

structure Ex where
  neg : Bool
  m : Nat
  e : Int
  deriving DecidableEq, Repr

/-- A sum (05 R98): an exact zero is +0, or −0 when rounding down, but the sum of two −0 is −0. The sum of two +0 is +0 in
every mode, the IEEE 754 sign, also when rounding down, which the rule's list does not name (DEDUCED, log 83). -/
def Ex.add (rm : Rm) (a b : Ex) : Ex :=
  let e := min a.e b.e
  let x : Int := a.m * 2 ^ (a.e - e).toNat
  let y : Int := b.m * 2 ^ (b.e - e).toNat
  let s := (if a.neg then -x else x) + (if b.neg then -y else y)
  if s = 0 then ⟨if a.m = 0 ∧ b.m = 0 ∧ a.neg = b.neg then a.neg else rm == .rdn, 0, e⟩
  else ⟨decide (s < 0), s.natAbs, e⟩

/-- The exact result of a step: no numeric result, an infinity, or a value. -/
inductive Res where
  | invalid
  | inf (neg : Bool)
  | val (x : Ex)
  deriving DecidableEq, Repr

def Fp.res : Fp → Res
  | .nan .. => .invalid
  | .inf s => .inf s
  | .fin s m e => .val ⟨s, m, e⟩

def Res.neg : Res → Res
  | .invalid => .invalid
  | .inf s => .inf !s
  | .val x => .val { x with neg := !x.neg }

def Res.add (rm : Rm) : Res → Res → Res
  | .invalid, _ => .invalid
  | _, .invalid => .invalid
  | .inf s, .inf t => if s = t then .inf s else .invalid
  | .inf s, .val _ => .inf s
  | .val _, .inf t => .inf t
  | .val x, .val y => .val (x.add rm y)

def Fp.mulRes : Fp → Fp → Res
  | .fin s m e, .fin t n f => .val ⟨s != t, m * n, e + f⟩
  | .inf s, .fin t n _ => if n = 0 then .invalid else .inf (s != t)
  | .fin s m _, .inf t => if m = 0 then .invalid else .inf (s != t)
  | .inf s, .inf t => .inf (s != t)
  | _, _ => .invalid

/-- The first NaN in operand order, quieted (05 R96), with invalid when any operand is signalling. -/
def nanOf (f : FpFmt) (xs : List Fp) : Option (Nat × Fl) :=
  let fl : Fl := if xs.any Fp.isSignalling then Fl.invalid else 0
  match xs.find? Fp.isNan with
  | some (.nan s p _) => some (f.ofNan s p, fl)
  | _ => none

/-- A result from its inputs and its exact value: a NaN input decides, then the rounding. -/
def FpFmt.deliver (f : FpFmt) (rm : Rm) (sat : Bool) (inputs : List Fp) (r : Res) : Nat × Fl :=
  match nanOf f inputs with
  | some x => x
  | none => match r with
    | .invalid => (f.canonical, Fl.invalid)
    | .inf s => ((if s then f.signBit else 0) + f.infMag, 0)
    | .val x => f.round rm sat x.neg x.m x.e false

def FpFmt.add (f : FpFmt) (rm : Rm) (a b : Nat) : Nat × Fl :=
  let x := f.decode a
  let y := f.decode b
  f.deliver rm false [x, y] (x.res.add rm y.res)
/-- A NaN subtrahend keeps its own sign (15 R312). -/
def FpFmt.sub (f : FpFmt) (rm : Rm) (a b : Nat) : Nat × Fl :=
  let x := f.decode a
  let y := f.decode b
  f.deliver rm false [x, y] (x.res.add rm y.res.neg)
def FpFmt.mul (f : FpFmt) (rm : Rm) (a b : Nat) : Nat × Fl :=
  let x := f.decode a
  let y := f.decode b
  f.deliver rm false [x, y] (x.mulRes y)
/-- One rounding of a × b + c (05 R97). -/
def FpFmt.fma (f : FpFmt) (a b c : Nat) : Nat × Fl :=
  let x := f.decode a
  let y := f.decode b
  let z := f.decode c
  f.deliver .rne false [x, y, z] ((x.mulRes y).add .rne z.res)

/-- A quotient of naturals times a power of two: enough bits, and whether a remainder is left. -/
def quotient (m n : Nat) (e : Int) : Nat × Int × Bool :=
  let k := 64 + bitLen n
  (m * 2 ^ k / n, e - k, m * 2 ^ k % n != 0)

/-- Division (15 R312, Table 15.4). -/
def FpFmt.div (f : FpFmt) (rm : Rm) (a b : Nat) : Nat × Fl :=
  let x := f.decode a
  let y := f.decode b
  match nanOf f [x, y] with
  | some r => r
  | none =>
    let s := x.sign != y.sign
    let sgn := if s then f.signBit else 0
    match x, y with
    | .fin _ m e, .fin _ n g =>
      if n = 0 then (if m = 0 then (f.canonical, Fl.invalid) else (sgn + f.infMag, Fl.divZero))
      else if m = 0 then (sgn, 0)
      else
        let (q, e, st) := quotient m n (e - g)
        f.round rm false s q e st
    | .inf _, .inf _ => (f.canonical, Fl.invalid)
    | .inf _, _ => (sgn + f.infMag, 0)
    | _, _ => (sgn, 0)

/-! ## Comparison -/

def Ex.lt (a b : Ex) : Bool :=
  let e := min a.e b.e
  let x : Int := a.m * 2 ^ (a.e - e).toNat
  let y : Int := b.m * 2 ^ (b.e - e).toNat
  decide ((if a.neg then -x else x) < (if b.neg then -y else y))

/-- Less, of values that are not NaNs; −0 equals +0. -/
def Fp.lt : Fp → Fp → Bool
  | .inf s, .inf t => s && !t
  | .inf s, .fin .. => s
  | .fin .., .inf t => !t
  | .fin s m e, .fin t n f => Ex.lt ⟨s, m, e⟩ ⟨t, n, f⟩
  | _, _ => false

/-- A predicate of 15 Table 15.8, and invalid for a signalling operand. -/
def FpFmt.compare (f : FpFmt) (p : FPred) (a b : Nat) : Bool × Fl :=
  let x := f.decode a
  let y := f.decode b
  let nan := x.isNan || y.isNan
  let lt := x.lt y
  let gt := y.lt x
  (match p with
    | .eq => !nan && !lt && !gt
    | .ne => nan || lt || gt
    | .lt => !nan && lt
    | .le => !nan && !gt
    | .gt => !nan && gt
    | .ge => !nan && !lt
    | .ord => !nan
    | .uno => nan,
   if x.isSignalling || y.isSignalling then Fl.invalid else 0)

/-- The lesser (or greater) value, −0 below +0 (05 R98). -/
def FpFmt.minMax (f : FpFmt) (greater : Bool) (a b : Nat) : Nat × Fl :=
  let x := f.decode a
  let y := f.decode b
  match nanOf f [x, y] with
  | some r => r
  | none =>
    let less := x.lt y || (!y.lt x && x.sign && !y.sign)
    (if less != greater then a else b, 0)

/-! ## Rounding to integers -/

/-- A finite value as an integer in a mode, and whether it is inexact. -/
def toIntegral (rm : Rm) (neg : Bool) (m : Nat) (e : Int) : Int × Bool :=
  let (n, ix) := roundTo rm neg m e 0 false
  ((if neg then -(n : Int) else n), ix)

/-- FRND (15 R321). -/
def roundIntegral (rm : Rm) (a : Nat) : Nat × Fl :=
  let f := FpFmt.fp32
  match f.decode a with
  | .nan s p q => (f.ofNan s p, if q then 0 else Fl.invalid)
  | .inf _ => (a, 0)
  | .fin s m e =>
    if m = 0 ∨ 0 ≤ e then (a, 0)
    else
      let (n, _) := roundTo rm s m e 0 false
      ((f.round .rne false s n 0 false).1, 0)

/-! ## Square roots -/

/-- The integer square root by bits from the top. -/
def isqrtLoop (n : Nat) : Nat → Nat → Nat
  | 0, r => r
  | k + 1, r => isqrtLoop n k (if (r + 2 ^ k) * (r + 2 ^ k) ≤ n then r + 2 ^ k else r)
def isqrt (n : Nat) : Nat := isqrtLoop n (bitLen n / 2 + 1) 0

/-- √(m × 2^e) with at least 64 bits: significand, exponent, whether a remainder is left. -/
def sqrtParts (m : Nat) (e : Int) : Nat × Int × Bool :=
  let k : Nat := 128 + (if (e - 128) % 2 = 0 then 0 else 1)
  let n := m * 2 ^ k
  let r := isqrt n
  (r, (e - k) / 2, r * r != n)

/-! ## Integer carries -/

/-- ADDC: the sum with a carry in, and the carry out (14 R286). -/
def addCarry (a b : W32) (c : Bool) : W32 × Bool :=
  let s := a.toNat + b.toNat + c.toNat
  (BitVec.ofNat 32 s, decide (2 ^ 32 ≤ s))
/-- SUBB: the difference with a borrow in, and the borrow out (17 R374). -/
def subBorrow (a b : W32) (c : Bool) : W32 × Bool :=
  (a - b - (if c then 1 else 0), decide (a.toNat < b.toNat + c.toNat))

end Sys2Proof
end

