-- ==== Sys2Proof/Machine/Access.lean ====
section
/-! DEFINITION. The parts of the state by name, draws of free values, translation and the order of checks of a global
access (08), the checks of a local access (06 R119, R120), and loads, stores and atomics in the store order (07). -/

namespace Sys2Proof.Machine

open Sys2Proof

/-! ## Free choices (log 2) -/

/-- One of n outcomes, 0 to n − 1, that the spec leaves open; with one outcome nothing is drawn. -/
def State.pick (s : State) (n : Nat) : Nat × State :=
  if n ≤ 1 then (0, s) else (Config.choice s.oracle % n, { s with oracle := s.oracle + 1 })

/-- A 32-bit value the spec does not state. -/
def State.anyWord (s : State) : W32 × State := (Config.freeWord s.oracle, { s with oracle := s.oracle + 1 })

/-- n bytes the spec does not state. -/
def State.anyBytes (s : State) (n : Nat) : List W8 × State :=
  ((List.range n).map (Config.freeByte s.oracle), { s with oracle := s.oracle + 1 })

/-- The elements in an order the spec leaves open (02 R26): element by element, each drawn from those that remain. -/
def State.shuffle {α : Type} : Nat → State → List α → List α × State
  | 0, s, l => (l, s)
  | _ + 1, s, [] => ([], s)
  | n + 1, s, x :: t =>
    let (i, s) := s.pick (t.length + 1)
    match (x :: t)[i]? with
    | none => (x :: t, s)
    | some y =>
      let (r, s) := State.shuffle n s ((x :: t).eraseIdx i)
      (y :: r, s)

/-! ## Parts of the state -/

def State.die (s : State) (d : Nat) : Die := if d = 0 then s.die0 else s.die1
def State.modDie (s : State) (d : Nat) (f : Die → Die) : State :=
  if d = 0 then { s with die0 := f s.die0 } else { s with die1 := f s.die1 }

/-- The time floor is passed by every access (07 R167). -/
def State.floorPts (s : State) (d pts : Nat) : Nat := max pts (s.die d).floor
/-- The timestamp of a die's management core at its next access, and after one (07 R167, 08 R188). -/
def State.coreTime (s : State) (d : Nat) : Nat := s.floorPts d (s.die d).corePts
def State.coreReaches (s : State) (d t : Nat) : State := s.modDie d fun die => { die with corePts := max die.corePts t }

def State.col (s : State) (d c : Nat) : Column := s.cols.getD (104 * d + c) Column.reset
def State.modCol (s : State) (d c : Nat) (f : Column → Column) : State :=
  { s with cols := s.cols.modify (104 * d + c) f }

def State.crew? (s : State) (p : CrewAt) : Option Crew := s.crews.find? fun c => c.place = p
def State.modCrew (s : State) (p : CrewAt) (f : Crew → Crew) : State :=
  { s with crews := s.crews.map fun c => if c.place = p then f c else c }
def State.crewByUid? (s : State) (u : Nat) : Option Crew := s.crews.find? fun c => c.uid = u

def State.thread? (s : State) (p : CrewAt) (t : Nat) : Option Thread := (s.crew? p).bind fun c => c.threads[t]?
def Crew.modThread (c : Crew) (t : Nat) (f : Thread → Thread) : Crew := { c with threads := c.threads.modify t f }
def State.modThread (s : State) (p : CrewAt) (t : Nat) (f : Thread → Thread) : State :=
  s.modCrew p fun c => c.modThread t f

def Crew.has (c : Crew) (t : Nat) : Bool := c.present.getLsbD t
def bit32 (t : Nat) : W32 := BitVec.ofNat 32 (2 ^ t)
/-- The tids of a mask, ascending. -/
def tidsOf (m : W32) : List Nat := (List.range 32).filter fun t => m.getLsbD t
def Crew.tidsPresent (c : Crew) : List Nat := (tidsOf c.present).filter fun t => t < c.threads.length

def State.region? (s : State) (rcb : Nat) : Option Region := s.regions.find? fun r => r.rcb = rcb
def State.modRegion (s : State) (rcb : Nat) (f : Region → Region) : State :=
  { s with regions := s.regions.map fun r => if r.rcb = rcb then f r else r }
def State.stage? (s : State) (a : StageAt) : Option Stage := (s.region? a.rcb).bind fun r => r.stages[a.stage]?
def State.modStage (s : State) (a : StageAt) (f : Stage → Stage) : State :=
  s.modRegion a.rcb fun r => { r with stages := r.stages.modify a.stage f }

/-- The effective values of a region; of a region that is not live, all at their least (log 1). -/
def Effective.zero : Effective :=
  { priority := 0, restartable := false, hostDependent := false, detachable := false, faultsToHost := false,
    domain := 0, mincols := 0, maxcols := 0, lmem := 0, ways := 0, tiles := 0, ageing := 4096, faultstage := none,
    emuhandler := 0, traphandler := 0, stackbase := 0, stacksize := 0, genlist := 0, gencount := 0 }
def State.eff (s : State) (rcb : Nat) : Effective := ((s.region? rcb).map Region.eff).getD Effective.zero
def StageDesc.zero : StageDesc :=
  { entry := 0, recsize := 16, crewsize := 1, stripeCode := 0, timed := false, paired := false, persistent := false,
    capacity := 1, timer := 0, lsize := 0, lmode := 0, rangeunit := 0, nbind := 0, tiles := 0, die := 0,
    bindings := 0, outs := [] }
def State.desc (s : State) (a : StageAt) : StageDesc := ((s.stage? a).bind Stage.desc).getD StageDesc.zero

/-- Stripe sizes by code (03 Table 3.3). -/
def stripeSize : Nat → Nat
  | 0 => 64
  | 1 => 96
  | 2 => 128
  | 3 => 192
  | _ => 256

/-! ## Spaces: the bytes of every store -/

def State.space (s : State) : Space → Memory
  | .dev => s.mem
  | .host => s.hostMem
  | .loc u => ((s.crewByUid? u).map Crew.mem).getD []
  | .scr d c => (s.col d c).scratch

def State.setSpace (s : State) (sp : Space) (m : Memory) : State :=
  match sp with
  | .dev => { s with mem := m }
  | .host => { s with hostMem := m }
  | .loc u => { s with crews := s.crews.map fun c => if c.uid = u then { c with mem := m } else c }
  | .scr d c => s.modCol d c fun k => { k with scratch := m }

def State.byte (s : State) (sp : Space) (a : Nat) : W8 := (s.space sp).read a
def State.bytes (s : State) (sp : Space) (a n : Nat) : List W8 := (s.space sp).readN a n

/-- The 8 bytes in which an error stands are all among n bytes of a store, from an address. -/
def Damage.rewritten (sp : Space) (a n : Nat) (x : Damage) : Bool :=
  let whole (w : Nat) : Bool := decide (a ≤ 8 * w ∧ 8 * w + 8 ≤ a + n)
  match sp, x with
  | .loc u, .loc v w => decide (u = v) && whole w
  | .scr d c, .scr e k w => decide (d = e ∧ c = k) && whole w
  | _, _ => false

/-- The number of a line of host memory, of a crew's allocation, of a scratchpad, of a die's registers. -/
def lineKey (sp : Space) (line : Nat) : Nat :=
  match sp with
  | .dev => 4 * line
  | .host => 4 * line + 1
  | .loc u => 4 * (u * 2 ^ 20 + line) + 2
  | .scr d c => 4 * ((104 * d + c) * 2 ^ 20 + line) + 3

/-- The write timestamp of a line of a store (07 R162; log 17). -/
def State.lineWts (s : State) (sp : Space) (line : Nat) : Nat :=
  match sp with
  | .dev => (look (0, 0) s.stamps line).1
  | _ => (look (0, 0) s.others (lineKey sp line)).1

/-- Store bytes at one place of the store order (07 R150): the bytes before it are kept as the past (07 R156). A checked
8 bytes that is written whole is good again (DEDUCED, log 80). -/
def State.storeBytes (s : State) (sp : Space) (a : Nat) (l : List W8) : State :=
  let olds := (List.range l.length).map fun i =>
    (⟨s.store, sp, a + i, s.byte sp (a + i), s.lineWts sp ((a + i) / 128)⟩ : Past)
  let s := s.setSpace sp (Memory.writeL (s.space sp) a l)
  { s with store := s.store + 1, past := olds ++ s.past, damage := s.damage.filter fun x => !x.rewritten sp a l.length }

/-- Runs of bytes stored at one place of the store order: a sector with gaps is one access (07 R154). -/
def State.storeRuns (s : State) (sp : Space) (runs : List (Nat × List W8)) : State :=
  { runs.foldl (fun s r => { s.storeBytes sp r.1 r.2 with store := s.store }) s with store := s.store + 1 }

/-- The byte as it stood at a place of the store order: before every store at that place or later. -/
def pastByte (sp : Space) (a place : Nat) (now : W8) (past : List Past) : W8 :=
  past.foldl (fun v p => if p.place ≥ place ∧ p.space = sp ∧ p.addr = a then p.old else v) now

/-- A line's write timestamp as it stood at a place of the store order: before every store into the line at that place or
later. -/
def State.wtsAt (s : State) (place : Nat) (sp : Space) (line : Nat) : Nat :=
  s.past.foldl (fun v p => if p.place ≥ place ∧ p.space = sp ∧ p.addr / 128 = line then p.wts else v) (s.lineWts sp line)

/-- A line's full/empty bit as it stood at a place of the store order (06 R126). -/
def emptyAt (sp : Space) (line place : Nat) (now : Bool) (past : List LinePast) : Bool :=
  past.foldl (fun v p => if p.place ≥ place ∧ p.space = sp ∧ p.line = line then p.empty else v) now

def State.bytesAt (s : State) (place : Nat) (sp : Space) (a n : Nat) : List W8 :=
  if place ≥ s.store then s.bytes sp a n
  else (List.range n).map fun i => pastByte sp (a + i) place (s.byte sp (a + i)) s.past

/-! ## Causes (11 Table 11.1) -/

def Cause.code : Cause → W8
  | .illegalInsn => 0x01
  | .illegalPealWord => 0x02
  | .nestedEmulation => 0x03
  | .pageNotPresent => 0x04
  | .permission => 0x05
  | .reservedBit => 0x06
  | .alignment => 0x07
  | .accessTableDenied => 0x08
  | .memoryUncorrectable => 0x09
  | .tokenViolation => 0x0A
  | .partialConvergence => 0x0B
  | .twinSplit => 0x0C
  | .returnUnderflow => 0x0D
  | .stackSpillFault => 0x0E
  | .operandFormat => 0x0F
  | .hostDetached => 0x10
  | .matrixEngineReset => 0x11
  | .columnFenced => 0x12
  | .contextLost => 0x13
  | .softwareTrap => 0x14
  | .breakpoint => 0x15
  | .scratchShrunk => 0x16
  | .badStage => 0x17

/-- What a failed check gives: the cause, sys.ebad when the cause sets it, the syndrome and the entry (08 R182). -/
structure Bad where
  cause : Cause
  ebad : Option W64
  syn : W32
  entry : W64
  deriving DecidableEq, Repr

def Bad.plain (c : Cause) : Bad := ⟨c, none, 0, 0⟩
def Bad.at_ (c : Cause) (a : W64) : Bad := ⟨c, some a, 0, 0⟩
/-- A local-address cause: sys.ebad holds the address, zero-extended (06 R120). -/
def Bad.local_ (c : Cause) (a : Nat) : Bad := ⟨c, some (BitVec.ofNat 64 a), 0, 0⟩

inductive AccKind where
  | read | write | atomic | fetch
  deriving DecidableEq, Repr

def AccKind.code : AccKind → Nat
  | .read => 0
  | .write => 1
  | .atomic => 2
  | .fetch => 3

/-- The translation syndrome (08 Table 8.4). -/
def syndrome (level : Nat) (k : AccKind) (engine : Bool) (c : Cause) : W32 :=
  BitVec.ofNat 32 (level + 8 * k.code + (if engine then 32 else 0) + 256 * c.code.toNat)

/-! ## Homes and access tables -/

/-- The home die of a device physical address (01 R14). -/
def homeOf (pa : Nat) : Option Nat :=
  if Config.home0 ≤ pa ∧ pa < Config.homeEnd0 then some 0
  else if Config.home1 ≤ pa ∧ pa < Config.homeEnd1 then some 1
  else none
def homeBase (d : Nat) : Nat := if d = 0 then Config.home0 else Config.home1

/-- Who makes an access (08 Table 8.7): the die it is on, its id on that die, its sub-master (0 core, 1 copy engine,
2 matrix fetcher, 3 prologue engine, 4 fixed-function); of a command or request that was issued in an earlier step, its
serial. -/
structure Master where
  die : Nat
  id : Nat
  sub : Nat
  issued : Option Nat
  deriving DecidableEq, Repr

/-- The id under which the tables of die d know the master; the host function keeps its id (12 R240). -/
def Master.idAt (m : Master) (d : Nat) : Nat :=
  if m.die = d ∨ m.id = 119 then m.id else if m.id < 104 then 128 + m.id else 120

/-- The windows of an entry: at reset all disabled, but entry 118's, which admits everything (08 R186). -/
def resetWindows (master : Nat) : List (W64 × W64) :=
  if master = 118 then [(0, 0x000FFFFFFFFFF1FF#64), (0, 0), (0, 0), (0, 0)] else [(0, 0), (0, 0), (0, 0), (0, 0)]

def Die.windows (d : Die) (target master : Nat) : List (W64 × W64) :=
  match d.access.find? fun e => e.1 = (target, master) with
  | some e => e.2
  | none => resetWindows master

def permMask : AccKind → W64
  | .read => 1
  | .write => 2
  | .atomic => 3
  | .fetch => 4

/-- One window admits n bytes at p for a sub-master and a kind (08 R186). -/
def windowAdmits (w : W64 × W64) (sub : Nat) (k : AccKind) (p n : Nat) : Bool :=
  w.2.getLsbD 8 && w.2.getLsbD (3 + sub) && (w.2 &&& permMask k == permMask k)
    && decide ((w.1 &&& 0x000FFFFFFFFFF000#64).toNat ≤ p)
    && decide (p + n ≤ (w.2 &&& 0x000FFFFFFFFFF000#64).toNat + 4096)

def reservedMaster (m : Nat) : Bool := (123 ≤ m && m ≤ 127) || 232 ≤ m

/-- The table of target t on die d admits the access. -/
def State.admits (s : State) (d t : Nat) (m : Master) (k : AccKind) (p n : Nat) : Bool :=
  !reservedMaster (m.idAt d) && ((s.die d).windows t (m.idAt d)).any fun w => windowAdmits w m.sub k p n

/-- A denial is logged at its target: a ring of 64 that overwrites its oldest (08 R187). -/
def State.logDenial (s : State) (d t : Nat) (m : Master) (k : AccKind) (p : Nat) : State :=
  s.modDie d fun die =>
    let r := look ⟨[], 0⟩ die.denials t
    let es := r.entries ++ [⟨m.idAt d, m.sub, p, k.code⟩]
    let r := if es.length > 64 then ⟨es.drop 1, r.overflow + 1⟩ else ⟨es, r.overflow⟩
    { die with denials := put ⟨[], 0⟩ t r die.denials }

/-- The checks at the targets of a device access: the bridge of the requester's die for the other die's memory, then
the home slices (08 R185). `none` when admitted, else the die and target that refuse. -/
def State.devDenied (s : State) (m : Master) (k : AccKind) (p n h : Nat) : Option (Nat × Nat) :=
  if m.die ≠ h ∧ !s.admits m.die 6 m k p n then some (m.die, 6)
  else if !s.admits h 0 m k p n then some (h, 0)
  else none

/-- The old windows of an entry, of whose narrowing the access is older and which is not complete, admit it (08 R188). -/
def State.admitsOld (s : State) (d t : Nat) (m : Master) (k : AccKind) (p n : Nat) : Bool :=
  (s.die d).narrowed.any fun x =>
    decide (x.target = t ∧ x.master = m.idAt d) && (match m.issued with
      | some i => decide (i < x.serial)
      | none => false) && !reservedMaster x.master && x.old.any fun w => windowAdmits w m.sub k p n

/-- A target's answer. An access issued before a narrowing that is not complete is judged by the old entry or by the new
one (08 R188); a denial is logged. -/
def State.gate (s : State) (d t : Nat) (m : Master) (k : AccKind) (p n : Nat) : Bool × State :=
  if s.admits d t m k p n then (true, s)
  else if s.admitsOld d t m k p n then
    let (i, s) := s.pick 2
    if i = 0 then (false, s.logDenial d t m k p) else (true, s)
  else (false, s.logDenial d t m k p)

/-- The same at the targets of a device access, one after the other (08 R185). -/
def State.devGate (s : State) (m : Master) (k : AccKind) (p n h : Nat) : Bool × State :=
  if m.die = h then s.gate h 0 m k p n
  else match s.gate m.die 6 m k p n with
    | (true, s) => s.gate h 0 m k p n
    | (false, s) => (false, s)

/-- The access-table target of a register offset (12 Table 12.1); none where no block lies. Where a block ends whose
extent the table does not give (0x4000, 0x7000, 0x20000, 0x81C000) is the model's choice (DESIGN CHOICE, log 85). -/
def regTarget (off : Nat) : Option Nat :=
  if off < 0x5000 then some 1
  else if 0x6000 ≤ off ∧ off < 0x7000 then some 4
  else if 0x8000 ≤ off ∧ off < 0x10000 then some 3
  else if 0x10000 ≤ off ∧ off < 0x20000 then some 1
  else if 0x100000 ≤ off ∧ off < 0x110000 then some 2
  else if 0x1000000 ≤ off ∧ off < 0x1200000 then some 1
  else none

/-- The access-table block admits master 118 alone (12 R239). -/
def accessTableBlock (off : Nat) : Bool := decide (0x800000 ≤ off ∧ off < 0x81C000)

/-! ## Translation (08) -/

/-- What a translation gives: the TLB entry that covers the address. -/
def TlbEntry.covers (e : TlbEntry) (va : Nat) : Bool := va / 2 ^ e.bits == e.va / 2 ^ e.bits
def TlbEntry.phys (e : TlbEntry) (va : Nat) : Nat := e.pa + va % 2 ^ e.bits
def leafWritable (e : W64) : Bool := e.getLsbD 2
def leafExec (e : W64) : Bool := e.getLsbD 3
def leafShareable (e : W64) : Bool := e.getLsbD 4
def leafContig (e : W64) : Nat := (e >>> 5).toNat % 4
def leafPinned (e : W64) : Bool := e.getLsbD 7
def leafType (e : W64) : Nat := (e >>> 8).toNat % 16
def entryPage (e : W64) : Nat := (e &&& 0x000FFFFFFFFFF000#64).toNat

/-- log2 of the page of a leaf at a level (08 Table 8.2). -/
def levelBits (level : Nat) : Nat := 12 + 9 * level

/-- The entry of the page that holds an address: in a contiguous group the entries differ in the page alone (08 R177,
R182). -/
def TlbEntry.leafAt (e : TlbEntry) (va : Nat) : W64 :=
  (e.leaf &&& 0xFFF0000000000FFF#64) ||| BitVec.ofNat 64 (e.phys va / 2 ^ levelBits e.level * 2 ^ levelBits e.level)

/-- A valid entry breaks 08 R176 at its level. -/
def entryBad (e : W64) (level : Nat) : Bool :=
  (e &&& 0xF0F0000000000000#64 != 0)
    || (if e.getLsbD 1 then
          leafContig e == 3 || (leafContig e != 0 && level == 3) || level == 4
            || entryPage e % 2 ^ levelBits level != 0 || leafType e > 3
        else (e &&& 0xFFC#64 != 0) || level == 0)

/-- How a walk ends: a page, or a cause at a level with the entry that caused it. -/
inductive WalkEnd where
  | page (e : TlbEntry)
  /-- with the die, the target and the address of a read that an access table denied -/
  | stop (c : Cause) (level : Nat) (entry : W64) (denied : Option (Nat × Nat × Nat))
  deriving DecidableEq, Repr

/-- A walk takes an executable leaf only where the management cores made it so (12 R256). -/
def State.execOk (s : State) (a : Nat) (e : W64) : Bool := !leafExec e || s.execLeaves.any fun x => x.1 = a ∧ x.2.1 = e

/-- The group of a contiguous leaf is a whole page when every entry agrees (08 R177). -/
def State.groupEntry (s : State) (table va level : Nat) (e : W64) : TlbEntry :=
  let one : TlbEntry :=
    { va := va / 2 ^ levelBits level * 2 ^ levelBits level, bits := levelBits level, pa := entryPage e, leaf := e, level }
  if leafContig e = 0 then one
  else
    let lg := 2 * leafContig e
    let size := 2 ^ levelBits level
    let i := va / 2 ^ levelBits level % 512
    let i0 := i / 2 ^ lg * 2 ^ lg
    let base := entryPage e - (i - i0) * size
    let agree (k : Nat) : Bool :=
      let x := le64 (s.bytes .dev (table + 8 * (i0 + k)) 8)
      x.getLsbD 0 && x.getLsbD 1 && (x &&& 0x0F00000000000FFC#64 == e &&& 0x0F00000000000FFC#64)
        && entryPage x == base + k * size && !entryBad x level && s.execOk (table + 8 * (i0 + k)) x
    if base % (2 ^ lg * size) = 0 ∧ entryPage e ≥ (i - i0) * size ∧ (List.range (2 ^ lg)).all agree then
      { va := va / (2 ^ lg * size) * (2 ^ lg * size), bits := levelBits level + lg, pa := base, leaf := e, level }
    else one

/-- Page walkers are checked as the management core (08 R185). -/
def walkerOf (die : Nat) : Master := ⟨die, 118, 0, none⟩

/-- Walk from a table at a level (08 R179), collecting the table entries read for the walk caches. -/
def State.walkFrom (s : State) (die va : Nat) : Nat → Nat → W64 → List WalkEntry → WalkEnd × List WalkEntry
  | level, table, ptr, seen =>
    let a := table + 8 * (va / 2 ^ levelBits level % 512)
    match homeOf a with
    | none => (.stop .accessTableDenied level ptr none, [])
    | some h => match s.devDenied (walkerOf die) .read a 8 h with
      | some (d, t) => (.stop .accessTableDenied level ptr (some (d, t, a)), [])
      | none =>
        let e := le64 (s.bytes .dev a 8)
        if !e.getLsbD 0 then (.stop .pageNotPresent level e none, [])
        else if entryBad e level then (.stop .reservedBit level e none, [])
        else if e.getLsbD 1 then
          if s.execOk a e then (.page (s.groupEntry table va level e), seen)
          else (.stop .pageNotPresent level e none, [])
        else match level with
          | 0 => (.stop .reservedBit 0 e none, [])
          | l + 1 =>
            s.walkFrom die va l (entryPage e) e
              (if l + 1 ≥ 2 then ⟨l + 1, va / 2 ^ levelBits (l + 1), e⟩ :: seen else seen)

/-- A walk starts below the deepest walk-cache hit (08 R180). -/
def State.walk (s : State) (die va : Nat) : WalkEnd × List WalkEntry :=
  let hit (l : Nat) := (s.die die).walkCache.find? fun w => w.level = l ∧ w.key = va / 2 ^ levelBits l
  match hit 2 with
  | some w => s.walkFrom die va 1 (entryPage w.entry) w.entry []
  | none => match hit 3 with
    | some w => s.walkFrom die va 2 (entryPage w.entry) w.entry []
    | none => match hit 4 with
      | some w => s.walkFrom die va 3 (entryPage w.entry) w.entry []
      | none => s.walkFrom die va 4 (entryPage (s.die die).trbase) (s.die die).trbase []

/-- A read that an access table denied a walker is logged (08 R187). -/
def State.logWalk (s : State) (die : Nat) (denied : Option (Nat × Nat × Nat)) : State :=
  match denied with
  | some (d, t, a) => s.logDenial d t (walkerOf die) .read a
  | none => s

def keep (n : Nat) (l : List α) : List α := l.take n

/-- A finished walk installs its page in the shared TLB and its table entries in the walk caches (08 R180, R181). -/
def State.install (s : State) (die : Nat) (e : TlbEntry) (ws : List WalkEntry) : State :=
  s.modDie die fun d => { d with
    tlb := keep Config.sharedTlbEntries (e :: d.tlb.filter fun x => x ≠ e)
    walkCache := [2, 3, 4].flatMap fun l =>
      keep Config.walkCacheEntries ((ws ++ d.walkCache.filter fun x => !ws.contains x).filter fun x => x.level = l) }

/-- Only a column has an L1 TLB: the other masters use the shared TLB alone. -/
def State.installL1 (s : State) (die col : Nat) (e : TlbEntry) : State :=
  if col ≥ Config.columns then s else s.modCol die col fun c => { c with l1 := keep Config.l1TlbEntries (e :: c.l1.filter fun x => x ≠ e) }

def State.l1Hit (s : State) (die col va : Nat) : Option TlbEntry :=
  if col ≥ Config.columns then none else (s.col die col).l1.find? fun e => e.covers va
def State.tlbHit (s : State) (die va : Nat) : Option TlbEntry := (s.die die).tlb.find? fun e => e.covers va

/-- Where a translation comes from: a TLB hit, or a walk that must be made. -/
inductive Lookup where
  | hit (e : TlbEntry) (s : State)
  | miss
  deriving DecidableEq, Repr

/-- Look an address up in the column's TLB and the die's shared TLB. -/
def State.lookup (s : State) (die col va : Nat) : Lookup :=
  match s.l1Hit die col va with
  | some e => .hit e s
  | none => match s.tlbHit die va with
    | some e => .hit e (s.installL1 die col e)
    | none => .miss

/-- The outcome of the checks of 08 R179 on one access: where it goes, or why it stops; `walk` when a walk must be
made first and the requester waits for it. -/
inductive Checked where
  | device (pa home : Nat) (e : TlbEntry)
  | host (pa : Nat) (e : TlbEntry)
  | register (die off : Nat)
  | bad (b : Bad)
  | walk
  deriving DecidableEq, Repr

/-- The checks before translation (08 R179). -/
def preCheck (va : W64) (size : Nat) (k : AccKind) (engine : Bool) : Option Bad :=
  if va.toNat ≥ 2 ^ 57 then some ⟨.permission, some va, syndrome 7 k engine .permission, 0⟩
  else if va.toNat % size ≠ 0 then some ⟨.alignment, some va, syndrome 7 k engine .alignment, 0⟩
  else none

/-- The checks after translation (08 R178, R179, R185, 12 R239), for a requester on a die. A register of the other die is
checked by its block's table alone: the bridge's table names the other die's memory (DESIGN CHOICE, log 86). -/
def State.postCheck (s : State) (m : Master) (engine : Bool) (va : W64) (size : Nat) (k : AccKind) (e : TlbEntry) :
    Checked × State :=
  let bad (c : Cause) : Checked := .bad ⟨c, some va, syndrome e.level k engine c, e.leafAt va.toNat⟩
  let pa := e.phys va.toNat
  let writing := k = .write ∨ k = .atomic
  if writing ∧ !leafWritable e.leaf then (bad .permission, s)
  else if k = .fetch ∧ !leafExec e.leaf then (bad .permission, s)
  else match leafType e.leaf with
    | 2 =>
      -- the PCIe outbound path is die 0's, for both dies (08 R178, R185)
      match s.gate 0 5 m k pa size with
      | (true, s) => (.host pa e, s)
      | (false, s) => (bad .accessTableDenied, s)
    | 3 =>
      if k = .atomic ∨ k = .fetch ∨ (size ≠ 4 ∧ size ≠ 8) then (bad .permission, s)
      else if pa ≥ 0x20000000 then (bad .accessTableDenied, s)
      else if accessTableBlock (pa % 0x10000000) ∧ m.id ≠ 118 then (bad .accessTableDenied, s)
      else
        let d := pa / 0x10000000
        let off := pa % 0x10000000
        let dieOnly := 0x1000 ≤ off ∧ off < 0x4000 ∨ 0x10000 ≤ off ∧ off < 0x20000 ∨ 0x100000 ≤ off
        match regTarget off with
        | some t =>
          if d = 1 ∧ dieOnly then (.register d off, s)
          else match s.gate d t m k pa size with
            | (true, s) => (.register d off, s)
            | (false, s) => (bad .accessTableDenied, s)
        | none => (.register d off, s)
    | _ => match homeOf pa with
      | none => (bad .accessTableDenied, s)
      | some h => match s.devGate m k pa size h with
        | (true, s) => (.device pa h e, s)
        | (false, s) => (bad .accessTableDenied, s)

def colMaster (p : CrewAt) : Master := ⟨p.die, p.col, 0, none⟩

/-- The serial of the issue of a thread's access that waited for a walk (08 R188). -/
def State.issuedAt (s : State) (p : CrewAt) (tid : Nat) (va : W64) : Option Nat :=
  ((s.thread? p tid).bind Thread.missed).bind fun m => if m.va = va then some m.serial else none
/-- A thread as the requester of an access: its column's core, or for it an engine of the column. -/
def State.threadMaster (s : State) (p : CrewAt) (tid : Nat) (va : W64) (sub : Nat := 0) : Master :=
  ⟨p.die, p.col, sub, s.issuedAt p tid va⟩

/-- The checks of a thread's access, or of one that an engine of its column, by its sub-master, makes for it; a translation
miss is answered by `walk` (08 R179, R181). -/
def State.check (s : State) (p : CrewAt) (tid : Nat) (va : W64) (size : Nat) (k : AccKind) (sub : Nat := 0) :
    Checked × State :=
  match preCheck va size k (sub != 0) with
  | some b => (.bad b, s)
  | none => match s.lookup p.die p.col va.toNat with
    | .miss => (.walk, s)
    | .hit e s => s.postCheck (s.threadMaster p tid va sub) (sub != 0) va size k e

/-- A step of a master that is no column meets a page that no TLB holds: its walk comes first, unless it has been made for
the step (08 R181). -/
def State.noteMiss (s : State) (m : Master) (va : Nat) : State :=
  let page := va / 4096
  if m.id < 104 ∨ s.missedPage.isSome ∨ s.walkedFor.contains (m.die, page) then s
  else { s with missedPage := some (m.die, page, m.id) }

/-- The same with the walk at its end already: the walk's own cause, with PAGE_NOT_PRESENT among them, is the outcome. -/
def State.checkNow (s : State) (m : Master) (engine : Bool) (va : W64) (size : Nat) (k : AccKind) : Checked × State :=
  match preCheck va size k engine with
  | some b => (.bad b, s)
  | none => match s.lookup m.die m.id va.toNat with
    | .hit e s => s.postCheck m engine va size k e
    | .miss =>
      let s := s.noteMiss m va.toNat
      match s.walk m.die va.toNat with
      | (.stop c l en dn, _) => (.bad ⟨c, some va, syndrome l k engine c, en⟩, s.logWalk m.die dn)
      | (.page e, ws) => ((s.install m.die e ws).installL1 m.die m.id e).postCheck m engine va size k e

/-! ## Local accesses (06 R119, R120) -/

/-- The rows of 06 Table 6.1 that hold some byte of [a, a + n): each row's end and the cause of its bytes. -/
def localCause (lsize count : Nat) (owns : Bool) (a n : Nat) : Option Cause :=
  let hits (lo hi : Nat) : Bool := decide (a < hi ∧ lo < a + n ∧ lo < hi)
  let top := 0x1000000 + count * 0x100000
  if hits 0x2000000 0x200000000 then some .permission
  else if hits top 0x2000000 then some .scratchShrunk
  else if hits 0x1000000 top && !owns then some .accessTableDenied
  else if hits lsize 0x1000000 then some .permission
  else none

def State.ownsScratch (s : State) (c : Crew) : Bool := (s.col c.place.die c.place.col).owner = some c.at_.rcb

/-- The check of n local bytes at a, which must lie at a multiple of `align`. -/
def State.checkLocal (s : State) (c : Crew) (a n align : Nat) : Option Bad :=
  if a % align ≠ 0 then some (Bad.local_ .alignment a)
  else match localCause c.lsize (s.col c.place.die c.place.col).count (s.ownsScratch c) a n with
    | some k => some (Bad.local_ k a)
    | none => none

/-- The store and address within it of a valid local address. -/
def localSpace (c : Crew) (a : Nat) : Space × Nat :=
  if a < 0x1000000 then (.loc c.uid, a) else (.scr c.place.die c.place.col, a - 0x1000000)

def State.localBytes (s : State) (c : Crew) (a n : Nat) : List W8 :=
  let (sp, o) := localSpace c a
  s.bytes sp o n

/-- Every line of n bytes at a local address is full (06 R126). -/
def State.linesFull (s : State) (c : Crew) (a n : Nat) : Bool :=
  let col := s.col c.place.die c.place.col
  (linesOf a n).all fun l =>
    if l < 0x1000000 / 128 then !c.empty.contains l else !col.empty.contains (l - 0x1000000 / 128)

/-- An uncorrectable error stands in the checked 8 bytes that a read, or a store of a part of them, takes (11 R236). -/
def State.localDamaged (s : State) (c : Crew) (a n : Nat) (reads : Bool := true) : Bool :=
  let x := localSpace c a
  let hit (w : Nat) : Bool :=
    decide (8 * w < x.2 + n ∧ x.2 < 8 * w + 8) && (reads || !decide (x.2 ≤ 8 * w ∧ 8 * w + 8 ≤ x.2 + n))
  s.damage.any fun
    | .loc u w => decide (x.1 = .loc u) && hit w
    | .scr d k w => decide (x.1 = .scr d k) && hit w

/-! ## Home lines: leases, poison, caches -/

def State.stamp (s : State) (line : Nat) : Nat × Nat := look (0, 0) s.stamps line
def State.setStamp (s : State) (line wts rts : Nat) : State := { s with stamps := put (0, 0) line (wts, rts) s.stamps }

def State.poisoned (s : State) (a n : Nat) : Bool := (linesOf a n).any fun l => s.poison.any fun p => p.1 = l

/-- A whole 16-byte part written since the poisoning counts; with all eight the poison clears (11 R234). -/
def State.writeParts (s : State) (a n : Nat) : State :=
  let line := a / 128
  let parts := (List.range 8).filter fun i => a ≤ line * 128 + 16 * i ∧ line * 128 + 16 * i + 16 ≤ a + n
  { s with poison := s.poison.filterMap fun (l, ps) =>
      if l = line then
        let ps := parts.foldl (fun acc i => insertN i acc) ps
        if ps.length = 8 then none else some (l, ps)
      else some (l, ps) }

/-- Bank, set and ways of a home line (06 R129). -/
def State.enabledList (s : State) (d : Nat) : List Nat :=
  let m := if d = 0 then s.host.colmask0 else s.host.colmask1
  (List.range 104).filter fun c => m.getLsbD c

def State.bankOf (s : State) (d line : Nat) : Nat :=
  let l := line - homeBase d / 128
  let es := s.enabledList d
  es.getD (l % es.length) 0
def State.setOf (s : State) (d line : Nat) : Nat :=
  let l := line - homeBase d / 128
  l / (s.enabledList d).length % 8192

/-- Take a line out of the stacked cache; a dedup reference is given up (06 R139). -/
def DedupLine.release (x : DedupLine) : Option DedupLine :=
  if x.count = 255 then some x else if x.count ≤ 1 then none else some { x with count := x.count - 1 }
def Die.detach (d : Die) (r : Option Nat) : Die :=
  match r with
  | none => d
  | some i => { d with dedup := d.dedup.filterMap fun x => if x.id = i then x.release else some x }
def Die.evict (d : Die) (line : Nat) : Die :=
  match d.stack.find? fun x => x.line = line with
  | none => d
  | some x => { d.detach x.data with stack := (d.detach x.data).stack.filter fun y => y.line ≠ line }

/-- The hash of a line in a bank's dedup index is not the spec's to give (06 R138). -/
def dedupHash (l : List W8) : Nat := Config.choice (leNat l) % 2 ^ 32

/-- A use of a bank checks its entry of the remap table: one that is not good is dealt with next (11 R235). -/
def State.useBank (s : State) (d bank : Nat) : State :=
  match (s.die d).remap.find? fun x => x.1 = bank with
  | none => s
  | some (_, u, l) =>
    let i : Instr := .remapScrub d bank u l
    if s.agenda.contains i then s else { s with agenda := s.agenda ++ [i] }

/-- Fill a line into the stacked cache: one that is resident becomes the most recently used; another replaces the least
recently used among the ways not reefed; an eligible line shares an equal data line of its bank (06 R129, R138). The
collision counter rises by one for each data line of the bank that clashes (DESIGN CHOICE, log 81). -/
def State.fillStack (s : State) (d line : Nat) (eligible dirty : Bool) : State :=
  let bank := s.bankOf d line
  let s := s.useBank d bank
  let ways := 16 - (s.col d bank).count
  if (s.col d bank).fenced || ways = 0 || (s.enabledList d).length = 0 then s
  else if (s.die d).stack.any fun x => x.line = line then
    s.modDie d fun die => { die with
      stack := ((die.stack.filter fun x => x.line = line).map fun x => { x with dirty := x.dirty || dirty })
        ++ die.stack.filter fun x => x.line ≠ line }
  else
    let inSet := (s.die d).stack.filter fun x => x.bank = bank ∧ s.setOf d x.line = s.setOf d line
    let used := inSet.map StackLine.way
    let free := (List.range ways).find? fun w => !used.contains w
    let victim := inSet.getLast?
    let way := match free with
      | some w => w
      | none => (victim.map StackLine.way).getD 0
    let bytes := s.bytes .dev (128 * line) 128
    s.modDie d fun die =>
      let die := match free, victim with
        | none, some v => die.evict v.line
        | _, _ => die
      let same := die.dedup.filter fun x => x.bank = bank ∧ dedupHash x.bytes = dedupHash bytes
      let clash := same.filter fun x => x.bytes ≠ bytes
      let die := if eligible then
          { die with collisions := BitVec.ofNat 32 (min 0xFFFFFFFF (die.collisions.toNat + clash.length)) } else die
      if eligible then
        match same.find? fun x => x.bytes = bytes with
        | some x => { die with
            dedup := die.dedup.map fun y => if y.id = x.id then { y with count := min 255 (y.count + 1) } else y
            stack := ⟨line, bank, way, dirty, some x.id⟩ :: die.stack }
        | none =>
          let id := die.dedup.foldl (fun n x => max n (x.id + 1)) 0
          { die with dedup := ⟨id, bank, way, bytes, 1⟩ :: die.dedup
                     stack := ⟨line, bank, way, dirty, some id⟩ :: die.stack }
      else { die with stack := ⟨line, bank, way, dirty, none⟩ :: die.stack }

/-- The L2 slice of a home line (06 R141), and its set: the spec gives no index among the 1,024, and the model takes the
line number modulo 1,024 (DESIGN CHOICE, log 75). -/
def l2Place (d line : Nat) : Nat × Nat :=
  let p := 128 * line - homeBase d
  (((p / 2 ^ 8) ^^^ (p / 2 ^ 13) ^^^ (p / 2 ^ 18)) % 32, line % 1024)

/-- A line passes through its home's L2, and, unless streaming, the stacked cache (06 R141, 08 R178): the lines held,
which no load's value depends on. -/
def State.touch (s : State) (d line : Nat) (write eligible streaming : Bool) : State :=
  match (s.die d).l2.find? fun x => x.1 = line with
  | some x => s.modDie d fun die => { die with l2 := (line, x.2 || write) :: die.l2.filter fun y => y.1 ≠ line }
  | none =>
    let s := if streaming then s else s.fillStack d line eligible false
    let mates := (s.die d).l2.filter fun y => l2Place d y.1 = l2Place d line
    let s := if mates.length ≥ 16 then
        match mates.getLast? with
        | some v =>
          let s := s.modDie d fun die => { die with l2 := die.l2.filter fun y => y.1 ≠ v.1 }
          if v.2 then s.fillStack d v.1 false true else s
        | none => s
      else s
    s.modDie d fun die => { die with l2 := (line, write) :: die.l2 }

def entryStreams (e : TlbEntry) : Bool := leafType e.leaf = 1
def entryEligible (e : TlbEntry) : Bool := leafShareable e.leaf && !leafWritable e.leaf && !entryStreams e

/-! ## Loads, stores and atomics on device memory (07 R163) -/

def copyBytes (c : Copy) (a n : Nat) : List W8 := (c.data.drop (a % 128)).take n

/-- The home grants a lease: rts of at least pts + 16, and the line with its wts (07 R163). -/
def State.grantLease (s : State) (line pts : Nat) : Copy × State :=
  let (w, r) := s.stamp line
  (⟨line, s.bytes .dev (128 * line) 128, w, pts + 16⟩, s.setStamp line w (max r (pts + 16)))

/-- The remote-data cache takes a line: 16,384 sets of 16 ways, the least recently used of a full set goes (06 R142; the
set is the line number modulo 16,384, DESIGN CHOICE, log 75). -/
def rdcPut (c : Copy) (l : List Copy) : List Copy :=
  let rest := l.filter fun x => x.line ≠ c.line
  let gone := (rest.filter fun x => x.line % 16384 = c.line % 16384).drop 15
  c :: rest.filter fun x => !gone.contains x

/-- A line for a column of a die: from its home's L2, or for the other die's line from the remote-data cache within that
copy's own lease, or through it (06 R141 to R143). -/
def State.lineFill (s : State) (die pts line : Nat) (eligible streaming : Bool) : Copy × State :=
  let h := (homeOf (128 * line)).getD 0
  if h = die then
    let (c, s) := s.grantLease line pts
    (c, s.touch h line false eligible streaming)
  else match (s.die die).rdc.find? fun c => c.line = line ∧ pts ≤ c.rts with
    | some r => (({ r with rts := min r.rts (pts + 16) } : Copy), s.modDie die fun d => { d with rdc := rdcPut r d.rdc })
    | none =>
      let (r, s) := s.grantLease line pts
      let s := s.modDie die fun d => { d with rdc := rdcPut r d.rdc }
      (r, s.touch h line false eligible streaming)

/-- A device load by a column's core: from a leased copy where one is valid, and still held, else by a lease from the
home, or from the remote-data cache within its own lease. The bytes, the new timestamp, and the state. -/
def State.devLoad (s : State) (die col pts a n : Nat) (e : TlbEntry) : List W8 × Nat × State :=
  let line := a / 128
  match (s.col die col).copies.find? fun c => c.line = line ∧ pts ≤ c.rts with
  | some c =>
    if copyBytes c a n = s.bytes .dev a n then (copyBytes c a n, max pts c.wts, s)
    else
      let (k, s) := s.pick 2
      if k = 0 then (copyBytes c a n, max pts c.wts, s)
      else
        let (c, s) := s.grantLease line pts
        (copyBytes c a n, max pts c.wts, s)
  | none =>
    let (c, s) := s.lineFill die pts line (entryEligible e) (entryStreams e)
    let s := s.modCol die col fun k =>
      { k with copies := keep Config.columnCacheLines (c :: k.copies.filter fun x => x.line ≠ line) }
    (copyBytes c a n, max pts c.wts, s)

/-- A store into a line at its home (07 R163), the bytes written by f: the timestamp passes every lease; the other die's
copy is given up (06 R142). -/
def State.devStoreBy (s : State) (pts line : Nat) (f : State → State) (e : Option TlbEntry) : Nat × State :=
  let h := (homeOf (128 * line)).getD 0
  let t := max pts ((s.stamp line).2 + 1)
  let s := (f s).setStamp line t t
  let s := s.modDie (1 - h) fun d => { d with rdc := d.rdc.filter fun x => x.line ≠ line }
  let s := s.modDie h fun d => match d.stack.find? fun x => x.line = line ∧ x.data.isSome with
    | some x => { d.detach x.data with
        stack := (d.detach x.data).stack.map fun y => if y.line = line then { y with data := none } else y }
    | none => d
  (t, s.touch h line true false ((e.map entryStreams).getD false))

def State.devStore (s : State) (pts a : Nat) (l : List W8) (e : Option TlbEntry) : Nat × State :=
  s.devStoreBy pts (a / 128) (fun s => s.storeBytes .dev a l) e


/-! ## Host memory (07 R159, R160; 12 R245) -/

/-- The place of a posted item in the store order; none of an interrupt message. -/
def Posted.place? : Posted → Option Nat
  | .store _ _ _ p | .sector _ _ p | .entry _ _ _ p => some p
  | .msi _ => none
/-- A store that precedes a place of the store order. -/
def Posted.before (place : Nat) (x : Posted) : Bool := x.place?.any fun p => decide (p < place)

/-- Transmit every posted item in order: a read does not pass posted writes. -/
def State.transmit (s : State) (p : Posted) : State :=
  match p with
  | .store a l _ _ => { s with hostMem := Memory.writeL s.hostMem a l }
  | .sector rs _ _ => { s with hostMem := rs.foldl (fun m r => Memory.writeL m r.1 r.2) s.hostMem }
  | .entry k a l _ =>
    let step (r : HostRing) : HostRing :=
      { r with tail := BitVec.ofNat 32 ((r.tail.toNat + 1) % 2 ^ (r.size.toNat % 32)) }
    { s with hostMem := Memory.writeL s.hostMem a l, host := { s.host with rings := s.host.rings.modify k step } }
  | .msi v => { s with msiSent := s.msiSent ++ [v] }

def State.drainOut (s : State) : State := { s.hostOut.foldl State.transmit s with hostOut := [] }

/-! ## Timestamps of the other stores (log 17) -/

/-- The store and the line of a key. -/
def lineOfKey (k : Nat) : Space × Nat :=
  let l := k / 4
  match k % 4 with
  | 0 => (.dev, l)
  | 1 => (.host, l)
  | 2 => (.loc (l / 2 ^ 20), l % 2 ^ 20)
  | _ => (.scr (l / 2 ^ 20 / 104) (l / 2 ^ 20 % 104), l % 2 ^ 20)

/-- An access of a scratchpad uses its column's bank (06 R419, 11 R235). -/
def State.useSpace (s : State) (sp : Space) : State :=
  match sp with
  | .scr d c => s.useBank d c
  | _ => s

/-- A load passes the latest store of its lines; the timestamp after it. -/
def State.passLoad (s : State) (sp : Space) (a n pts : Nat) : Nat × State :=
  (linesOf a n).foldl (fun x l =>
    let k := lineKey sp l
    let m := look (0, 0) x.2.others k
    let t := max x.1 m.1
    (t, { x.2 with others := put (0, 0) k (m.1, max m.2 t) x.2.others })) (pts, s.useSpace sp)

/-- A store passes the latest load and store of its lines. -/
def State.passStore (s : State) (sp : Space) (a n pts : Nat) : Nat × State :=
  let t := (linesOf a n).foldl (fun t l => max t (look (0, 0) s.others (lineKey sp l)).2) pts
  (t, { s.useSpace sp with others := (linesOf a n).foldl (fun o l => put (0, 0) (lineKey sp l) (t, t) o) s.others })

def State.countDetread (s : State) : State := { s with host := { s.host with detread := s.host.detread + 1 } }

def satInc (w : W32) : W32 := if w = 0xFFFFFFFF then w else w + 1

/-- The agents whose stores a FENCE.host covers: threads, and engines by their transfers; not the firmware (07 R158). -/
def fencedAgent (agent : Nat) : Bool := decide (agent < 2 ^ 65)

/-- A posted store to host memory: accepted at one place of the store order; after a detachment it is dropped. -/
def State.hostStore (s : State) (a : Nat) (l : List W8) (agent : Nat) : State :=
  if s.attached then { s with hostOut := s.hostOut ++ [.store a l agent s.store], store := s.store + 1 }
  else { s with host := { s.host with detdrop := satInc s.host.detdrop }, hostLost := s.hostLost || fencedAgent agent }

/-- An engine's write sector to host memory: one posted item. -/
def State.hostSector (s : State) (runs : List (Nat × List W8)) (agent : Nat) : State :=
  { s with hostOut := s.hostOut ++ [.sector runs agent s.store], store := s.store + 1 }

/-- A load from host memory: the value the host's completion carries, or none after a detachment. -/
def State.hostLoad (s : State) (a n : Nat) : Option (List W8) × State :=
  if s.attached then
    let s := s.drainOut
    (some (s.bytes .host a n), s)
  else (none, s.countDetread)

def State.sendMsi (s : State) (v : Nat) : State :=
  if s.attached then { s with hostOut := s.hostOut ++ [.msi v] } else s

end Sys2Proof.Machine
end

