-- ==== Sys2Proof/Machine/Registers.lean ====
section
/-! DEFINITION. The register space of each die (12 R239, Tables 12.1, 12.2, 12.4, 12.5): what a read gives and what a
write does, whoever makes it. -/

namespace Sys2Proof.Machine

open Sys2Proof

def ascii (s : String) (n : Nat) : List W8 :=
  ((s.toList.map fun c => BitVec.ofNat 8 c.toNat) ++ zeros n).take n

/-! ## Waking threads -/

/-- Threads of the crews that pass a test and whose wait passes another are changed. -/
def State.wakeWhere (s : State) (inCrew : Crew → Bool) (w : Crew → Thread → Bool) (f : Thread → Thread) : State :=
  { s with crews := s.crews.map fun c =>
      if inCrew c then { c with threads := c.threads.map fun t => if w c t then f t else t } else c }

/-- A NAP ends: ready at the next instruction, behind the stores up to a timestamp (16 R345, 12 R251). -/
def napEndAt (pts : Nat) (t : Thread) : Thread := { t with wait := .ready, pc := t.pc + 4, pts := max t.pts pts }
def napEnd (t : Thread) : Thread := napEndAt 0 t
def isNap (k : Nat) (t : Thread) : Bool :=
  match t.wait with
  | .nap _ m => m.getLsbD k
  | _ => false
/-- An event of 16 Table 16.7 wakes the threads of a die that nap on it, which then see the stores of the event, up to a
timestamp; none stands for both dies. -/
def State.napEvent (s : State) (die : Option Nat) (k : Nat) (pts : Nat := 0) : State :=
  s.wakeWhere (fun c => die.isNone || die == some c.place.die) (fun _ t => isNap k t) (napEndAt pts)

/-- A retry: the thread becomes ready where it stands, and runs its instruction again. -/
def retry (t : Thread) : Thread := { t with wait := .ready }

/-! ## Reading -/

def poseBytes (p : Pose) : List W8 :=
  bytes32 p.seq ++ zeros 4 ++ bytes64 p.ns ++ (p.gaze.flatMap bytes32 ++ zeros 16).take 16
    ++ (p.pos.flatMap bytes32 ++ zeros 16).take 16 ++ (p.quat.flatMap bytes32 ++ zeros 16).take 16

def lutEntry (l : List (Nat × W16)) (k : Nat) : W16 := look (BitVec.ofNat 16 (k % 4096 / 4)) l k

def freezeBits (s : State) : W32 :=
  BitVec.ofNat 32 ((if s.die0.frozen then 1 else 0) + (if s.die1.frozen then 2 else 0) + (if s.mailbox.driving then 4 else 0))

/-- The registers of a die's space that read as something: offset and bytes. -/
def State.regBlocks (s : State) (d : Nat) : List (Nat × List W8) :=
  let h := s.host
  [(0x0, ascii "OVF-HX8-384" 16), (0x10, ascii "Falain" 8), (0x18, bytes32 h.rev), (0x1C, bytes32 h.bringup),
   (0x20, leBytes 16 h.colmask0.toNat), (0x30, leBytes 16 h.colmask1.toNat),
   (0x4000, bytes64 (s.die d).trbase), (0x4010, bytes32 (s.die d).tcol), (0x4014, bytes32 (s.die d).plimit),
   (0x6000, poseBytes (s.die d).pose), (0x8000, bytes64 (s.die d).scan.pointer)]
  ++ (if d ≠ 0 then [] else
    [(0x1000, bytes64 h.sqbase), (0x1008, bytes32 h.sqsize), (0x100C, bytes32 h.sqctl), (0x1010, bytes32 h.sqhead),
     (0x1014, bytes32 h.sqtail), (0x1018, bytes32 h.sqerr), (0x3000, bytes64 h.apbase), (0x3008, bytes32 h.detcount),
     (0x300C, bytes32 h.detdrop), (0x3010, bytes32 h.detread), (0x3018, bytes64 h.detns),
     (0x100000, bytes32 s.mailbox.cmd), (0x100004, bytes32 s.mailbox.status), (0x100008, bytes32 (freezeBits s))]
    ++ (List.range 3).flatMap fun k =>
      let r := h.rings.getD k HostRing.reset
      [(0x2000 + 32 * k, bytes64 r.base), (0x2008 + 32 * k, bytes32 r.size), (0x200C + 32 * k, bytes32 r.head),
       (0x2010 + 32 * k, bytes32 r.tail)])

/-- One byte of a die's register space; an offset in no register reads 0 (12 R239). -/
def State.regByte (s : State) (d off : Nat) : W8 :=
  if 0xA000 ≤ off ∧ off < 0x10000 then
    (bytes16 (lutEntry (s.die d).scan.lut ((off - 0xA000) / 2))).getD (off % 2) 0
  else if d = 0 ∧ 0x10000 ≤ off ∧ off < 0x20000 then s.msix.read (off - 0x10000)
  else if d = 0 ∧ 0x100010 ≤ off ∧ off < 0x100100 then s.mailbox.args.read (off - 0x100010)
  else if d = 0 ∧ 0x100100 ≤ off ∧ off < 0x110000 then s.mailbox.result.read (off - 0x100000)
  else if accessTableBlock off then
    let o := off - 0x800000
    let w := ((s.die d).windows (o / 0x4000) (o % 0x4000 / 64)).getD (o % 64 / 16) (0, 0)
    (bytes64 (if o % 16 < 8 then w.1 else w.2)).getD (o % 8) 0
  else match (s.regBlocks d).find? fun b => b.1 ≤ off ∧ off < b.1 + b.2.length with
    | some b => b.2.getD (off - b.1) 0
    | none => 0

def State.regRead (s : State) (d off n : Nat) : List W8 := (List.range n).map fun i => s.regByte d (off + i)

/-! ## Writing -/

def half (old : W64) (hi : Bool) (v : W32) : W64 :=
  if hi then W32.pair (W64.lo old) v else W32.pair v (W64.hi old)

def modRing (k : Nat) (f : HostRing → HostRing) (s : State) : State :=
  { s with host := { s.host with rings := s.host.rings.modify k f } }

/-- The doorbell (03 R54): a tail not below the ring size is ignored and counted. -/
def State.writeTail (s : State) (v : W32) : State :=
  if v.toNat < 2 ^ s.host.sqsize.toNat then { s with host := { s.host with sqtail := v } }
  else { s with host := { s.host with sqerr := satInc s.host.sqerr } }

/-- sqctl bit 0 (12 Table 12.2): setting it restarts what a detachment held, and is a NAP event of bit 2. -/
def State.writeSqctl (s : State) (v : W32) : State :=
  let on := v.getLsbD 0
  let was := s.host.sqctl.getLsbD 0
  let s := { s with host := { s.host with sqctl := if on then 1 else 0 } }
  if on ∧ !was then { s with heldLaunch := false }.napEvent none 2 else s

/-- rsize (12 Table 12.2): a size outside 4 to 16 is ignored whole. -/
def State.writeRsize (s : State) (k : Nat) (v : W32) : State :=
  if 4 ≤ v.toNat % 32 ∧ v.toNat % 32 ≤ 16 then modRing k (fun r => { r with size := v &&& 0x31F }) s else s

def State.writeDetack (s : State) : State := { s with host := { s.host with detdrop := 0, detread := 0 } }

def State.writeApbase (s : State) (v : W64) : State :=
  if [0, 64, 128, 256, 320, 384].any fun g => v.toNat = g * 2 ^ 30 then { s with host := { s.host with apbase := v } } else s

def State.writeSqbase (s : State) (v : W64) : State :=
  if s.host.sqctl.getLsbD 0 then s else { s with host := { s.host with sqbase := v } }

/-- Only master 118 writes trbase and plimit; only master 118 and threads write the scan-out registers (12 R241,
R248, R249). -/
def isFirmware (m : Master) : Bool := m.id == 118
def isThread (m : Master) : Bool := decide (m.id < 104)

def State.writePointer (s : State) (d : Nat) (v : W64) : State :=
  s.modDie d fun die => { die with scan := { die.scan with pointer := v } }

/-- Consecutive 16-bit LUT entries from an index (12 R249). -/
def State.writeLut (s : State) (d k : Nat) (vs : List W16) : State :=
  s.modDie d fun die => { die with scan := { die.scan with
    lut := (List.range vs.length).foldl
      (fun l i => put (BitVec.ofNat 16 ((k + i) % 4096 / 4)) (k + i) (vs.getD i 0) l) die.scan.lut } }

/-- New windows of an entry that leave out an enabled one it had. -/
def narrows (old new : List (W64 × W64)) : Bool := old.any fun w => w.2.getLsbD 8 && !new.contains w

/-- A write of one access-table entry takes effect at one instant; one that narrows it is complete when Q exceeds its
stamp, and until then accesses issued earlier may be judged by the old windows (08 R188). The stamp is the timestamp of the
writing core plus 1. Bits that Table 8.8 gives as zero stay zero. -/
def State.writeAccess (s : State) (d t m : Nat) (ws : List (W64 × W64)) : State :=
  let ws := ws.map fun w => (w.1 &&& 0x000FFFFFFFFFF000#64, w.2 &&& 0x000FFFFFFFFFF1FF#64)
  let pts := s.coreTime d
  (s.coreReaches d pts).modDie d fun die => { die with
    access := (if ws = resetWindows m then [] else [((t, m), ws)]) ++ die.access.filter fun e => e.1 ≠ (t, m)
    narrowed := if narrows (die.windows t m) ws then ⟨t, m, pts + 1, die.windows t m, s.serial⟩ :: die.narrowed
      else die.narrowed }

/-- One 64-bit word of a window is written, at an offset of the access-table block (08 Table 8.8). -/
def State.writeWindow (s : State) (d off : Nat) (f : W64 → W64) : State :=
  let o := off - 0x800000
  let ws := (s.die d).windows (o / 0x4000) (o % 0x4000 / 64)
  let w := ws.getD (o % 64 / 16) (0, 0)
  s.writeAccess d (o / 0x4000) (o % 0x4000 / 64) (ws.set (o % 64 / 16) (if o % 16 < 8 then (f w.1, w.2) else (w.1, f w.2)))

/-- A mailbox command is taken when none is busy; an unknown or badly formed code is refused at once (12 R254). -/
def State.writeCmd (s : State) (v : W32) : State :=
  if s.mailbox.status.toNat % 256 = 1 then s
  else
    let code := v.toNat % 256
    if 1 ≤ code ∧ code ≤ 11 ∧ v.toNat / 256 % 256 = 0 then
      { s with mailbox := { s.mailbox with cmd := v, status := (s.mailbox.status &&& 0xFFFF0000) ||| 1 } }
    else
      { s with mailbox := { s.mailbox with cmd := v, status := (v &&& 0xFFFF0000) ||| 3 } }.sendMsi 7

/-- One 4-byte word written at an offset of a die's register space; what is not writable ignores it (12 R239, R241). -/
def State.write32 (s : State) (m : Master) (d off : Nat) (v : W32) : State :=
  if 0xA000 ≤ off ∧ off < 0x10000 then
    if isFirmware m ∨ isThread m then s.writeLut d ((off - 0xA000) / 2) [v.setWidth 16, (v >>> 16).setWidth 16] else s
  else if accessTableBlock off then
    if isFirmware m then s.writeWindow d off fun w => half w (off % 8 = 4) v else s
  else if off = 0x4000 ∨ off = 0x4004 then
    if isFirmware m then s.modDie d fun die => { die with trbase := half die.trbase (off = 0x4004) v } else s
  else if off = 0x4014 then
    if isFirmware m then s.modDie d fun die => { die with plimit := v } else s
  else if off = 0x8000 ∨ off = 0x8004 then
    if isFirmware m ∨ isThread m then s.writePointer d (half (s.die d).scan.pointer (off = 0x8004) v) else s
  else if d ≠ 0 then s
  else if off = 0x1000 ∨ off = 0x1004 then s.writeSqbase (half s.host.sqbase (off = 0x1004) v)
  else if off = 0x1008 then
    if 6 ≤ v.toNat ∧ v.toNat ≤ 16 then { s with host := { s.host with sqsize := v } } else s
  else if off = 0x100C then s.writeSqctl v
  else if off = 0x1014 then s.writeTail v
  else if 0x2000 ≤ off ∧ off < 0x2060 then
    let k := (off - 0x2000) / 32
    match (off - 0x2000) % 32 with
    | 0 => modRing k (fun r => { r with base := half r.base false v }) s
    | 4 => modRing k (fun r => { r with base := half r.base true v }) s
    | 8 => s.writeRsize k v
    | 12 => modRing k (fun r => { r with head := v }) s
    | _ => s
  else if off = 0x3000 ∨ off = 0x3004 then s.writeApbase (half s.host.apbase (off = 0x3004) v)
  else if off = 0x3014 then s.writeDetack
  else if 0x10000 ≤ off ∧ off < 0x20000 then { s with msix := Memory.writeL s.msix (off - 0x10000) (bytes32 v) }
  else if off = 0x100000 then s.writeCmd v
  else if 0x100010 ≤ off ∧ off < 0x100100 then
    { s with mailbox := { s.mailbox with args := Memory.writeL s.mailbox.args (off - 0x100010) (bytes32 v) } }
  else s

/-- An aligned 8-byte write: whole to a 64-bit register, else as its two words, the lower first. -/
def State.write64 (s : State) (m : Master) (d off : Nat) (v : W64) : State :=
  if off = 0x4000 then
    if isFirmware m then s.modDie d fun die => { die with trbase := v } else s
  else if off = 0x8000 then
    if isFirmware m ∨ isThread m then s.writePointer d v else s
  else if accessTableBlock off then
    if isFirmware m then s.writeWindow d off fun _ => v else s
  else if d = 0 ∧ off = 0x1000 then s.writeSqbase v
  else if d = 0 ∧ off = 0x3000 then s.writeApbase v
  else if 0xA000 ≤ off ∧ off < 0x10000 then
    if isFirmware m ∨ isThread m then
      s.writeLut d ((off - 0xA000) / 2)
        [v.setWidth 16, (v >>> 16).setWidth 16, (v >>> 32).setWidth 16, (v >>> 48).setWidth 16]
    else s
  else (s.write32 m d off (W64.lo v)).write32 m d (off + 4) (W64.hi v)

def State.regWrite (s : State) (m : Master) (d off : Nat) (l : List W8) : State :=
  if l.length = 8 then s.write64 m d off (le64 l) else s.write32 m d off (le32 l)

end Sys2Proof.Machine
end

