-- ==== Sys2Proof/Machine/Ops.lean ====
section
/-! DEFINITION. The named operations over threads: the register window (04 R73, R79), the threads of the issue group,
fault records and parking (11 R223, R224), page requests (08 R183), the return stack and backing store (04 R80, R82),
entering a handler and returning from it (04 R86, R88), and memory accesses of a thread. -/

namespace Sys2Proof.Machine

open Sys2Proof

/-! ## Registers of a thread -/

/-- The stripe slot of window register n: logical register fb + n modulo the stripe size (04 R73). -/
def Thread.slot (t : Thread) (n : Nat) : Nat := (t.fb.toNat + n) % t.stripe.length
def Thread.v (t : Thread) (n : Nat) : W32 := t.stripe.getD (t.slot n) 0
/-- A register write: a reply still awaited for the register no longer reaches it, and its parity is good again
(DEDUCED, log 80). -/
def Thread.setV (t : Thread) (n : Nat) (x : W32) : Thread :=
  { t with
    stripe := t.stripe.set (t.slot n) x, awaiting := t.awaiting.filter fun a => a.slot ≠ t.slot n
    bad := t.bad.filter fun i => i ≠ t.slot n }
/-- pair(n) (04 R74): the low half in n. -/
def Thread.pair (t : Thread) (n : Nat) : W64 := W32.pair (t.v n) (t.v (n + 1))
def Thread.setPair (t : Thread) (n : Nat) (x : W64) : Thread := (t.setV n (W64.lo x)).setV (n + 1) (W64.hi x)
/-- Consecutive registers from n. -/
def Thread.setVs (t : Thread) (n : Nat) : List W32 → Thread
  | [] => t
  | x :: xs => (t.setV n x).setVs (n + 1) xs
def Thread.c (t : Thread) (k : Nat) : Bool := t.cond.getLsbD k
def setBit8 (w : W8) (k : Nat) (b : Bool) : W8 :=
  if b then w ||| BitVec.ofNat 8 (2 ^ k) else w &&& ~~~ BitVec.ofNat 8 (2 ^ k)
def Thread.setC (t : Thread) (k : Nat) (b : Bool) : Thread := { t with cond := setBit8 t.cond k b }
/-- Raise flags: they are sticky (05 R95). -/
def Thread.raise (t : Thread) (f : BitVec 5) : Thread := { t with fpf := t.fpf ||| f }
def Thread.next4 (t : Thread) : Thread := { t with pc := t.pc + 4 }

def Crew.g' (c : Crew) (n : Nat) : W32 := c.g.getD n 0

/-! ## The threads of the issue group (02 R26) -/

/-- The thread's PC goes on by 4 (04 R281); within a PEAL it stays, and the thread is noted as complete (02 R43). -/
def State.finish (s : State) (tid : Nat) : State :=
  if s.cur.peal then { s with cur := { s.cur with done := tid :: s.cur.done } }
  else s.modThread s.cur.place tid Thread.next4

def mapIdxFrom (f : Nat → α → α) : Nat → List α → List α
  | _, [] => []
  | i, x :: t => f i x :: mapIdxFrom f (i + 1) t

/-- An instruction that reads and writes only its own thread's registers: each thread of the group, then its PC. -/
def State.perThread (s : State) (f : Crew → Nat → Thread → Thread) : State :=
  let one (c : Crew) (i : Nat) (t : Thread) : Thread :=
    if s.cur.tids.contains i then (if s.cur.peal then f c i t else (f c i t).next4) else t
  let upd (c : Crew) : Crew := { c with threads := mapIdxFrom (one c) 0 c.threads }
  let s' := s.modCrew s.cur.place upd
  if s.cur.peal then { s' with cur := { s'.cur with done := s.cur.tids ++ s.cur.done } } else s'

/-- The tids of a group, ascending. -/
def ascending (l : List Nat) : List Nat := l.foldr insertN []
/-- One thread after another, in ascending tid. -/
def State.inOrder (s : State) (f : State → Nat → State) : State := (ascending s.cur.tids).foldl f s
/-- One thread after another, in an order the spec leaves open (02 R26). -/
def State.inAnyOrder (s : State) (f : State → Nat → State) : State :=
  let (l, s) := State.shuffle s.cur.tids.length s s.cur.tids
  l.foldl f s

/-- The crew and thread that execute, for a step on one thread. -/
def State.withThread (s : State) (tid : Nat) (f : Crew → Thread → State) : State :=
  match s.crew? s.cur.place with
  | none => s
  | some c => match c.threads[tid]? with
    | none => s
    | some t => f c t

def State.setThread (s : State) (tid : Nat) (t : Thread) : State := s.modThread s.cur.place tid fun _ => t
def State.park (s : State) (p : CrewAt) (tid : Nat) (w : Wait) : State := s.modThread p tid fun t => { t with wait := w }

/-! ## Fault records (11 Table 11.2) -/

def FaultRec.toBytes (r : FaultRec) : List W8 :=
  bytes32 r.ticket ++ [((r.cause.map Cause.code).getD 0), r.tid, BitVec.ofNat 8 r.rkind, BitVec.ofNat 8 r.index]
    ++ leBytes 8 r.rcb ++ bytes64 r.epc ++ bytes64 r.ebad ++ bytes32 r.eword ++ bytes32 r.syn ++ bytes64 r.entry
    ++ leBytes 2 r.stage ++ leBytes 2 r.crewno ++ [BitVec.ofNat 8 r.place.col, BitVec.ofNat 8 r.place.die,
      BitVec.ofNat 8 r.place.slot, 0] ++ leBytes 8 r.ns

/-- The fault stage of a region, or of the nearest ancestor that has one; a crew of a fault stage skips that stage's own
region (11 R224). -/
def State.destFrom (s : State) (at_ : StageAt) : Nat → Nat → Dest
  | 0, _ => .ring 1
  | n + 1, rcb =>
    if rcb = 0 then .ring 1
    else match s.region? rcb with
      | none => .ring 1
      | some r => match r.eff.faultstage with
        | none => s.destFrom at_ n r.parent
        | some f =>
          if f = at_ then s.destFrom at_ n (((s.region? f.rcb).map Region.parent).getD 0) else .stage f
def State.recordDest (s : State) (at_ : StageAt) : Dest := s.destFrom at_ 16 at_.rcb

def ticketWord (d n : Nat) : W32 := BitVec.ofNat 32 (n % 0x80000000 + d * 0x80000000)
/-- The first serial from n on whose ticket is not taken; after 2^31 − 1 comes 1. -/
def freeSerial (d : Nat) (taken : List W32) : Nat → Nat → Nat
  | 0, n => n
  | k + 1, n => if taken.contains (ticketWord d n) then freeSerial d taken k (if n + 1 ≥ 0x80000000 then 1 else n + 1) else n

/-- The die's next ticket: a serial in [30:0], never 0, and the die in bit 31 (11 Table 11.2); never that of a ticket
which is open. -/
def State.newTicket (s : State) (d : Nat) : W32 × State :=
  let n := freeSerial d (s.tickets.map Ticket.ticket) s.tickets.length (s.die d).ticket
  (ticketWord d n, s.modDie d fun die => { die with ticket := if n + 1 ≥ 0x80000000 then 1 else n + 1 })

/-- A record is on its way to its destination, and its ticket, unless 0, is open. -/
def State.sendRecord (s : State) (r : FaultRec) (dest : Dest) (uid : Nat) : State :=
  { s with
    outgoing := s.outgoing ++ [⟨r.place.die, dest, r.toBytes⟩]
    tickets := if r.ticket = 0 then s.tickets
      else s.tickets ++ [⟨r.ticket, dest, r.rkind, r.tid.toNat, uid, r.rcb, r.cause⟩] }

/-- A crew record: no thread behind it, tid 0xFF (11 R223). -/
def State.crewRecord (s : State) (c : Crew) (cause : Option Cause) (rkind index : Nat) (ebad : W64) (syn : W32)
    (entry : W64) (reply : Bool) : State :=
  let (t, s) := if reply then s.newTicket c.place.die else (0, s)
  s.sendRecord
    { ticket := t, cause, tid := 0xFF, rkind, index, rcb := c.at_.rcb, epc := 0, ebad, eword := 0, syn, entry,
      stage := c.at_.stage, crewno := c.crewno, place := c.place, ns := s.ns } (s.recordDest c.at_) c.uid

/-! ## Taking a fault (11 R223) -/

/-- A thread that takes a fault while it waits on a convergence register leaves the signed mask; a set that was complete
is so no more, and its operation is not performed (02 R37). -/
def Crew.unsign (c : Crew) (tid : Nat) : Crew :=
  match (c.threads[tid]?).map Thread.wait with
  | some (.convergence k _) => { c with
      cv := c.cv.modify k fun v => { v with signed := v.signed &&& ~~~ bit32 tid }
      held := c.held.filter fun h => h.cv ≠ k }
  | _ => c

/-- A request that waits for a queue entry is given up when its thread leaves that wait. -/
def State.dropRequest (s : State) (c : Crew) (tid : Nat) (t : Thread) : State :=
  match t.wait with
  | .ffQueue _ => s.modCol c.place.die c.place.col fun k =>
      { k with ff := k.ff.filter fun (r : FfRequest) => !(r.uid == c.uid && r.tid == tid && r.step == .waiting) }
  | _ => s

/-- sys.cause, sys.epc, sys.ebad and sys.eword take the values that a cause sets, with the PC at the instruction (11 R223,
08 R182, 02 R45). A cause that names no address leaves sys.ebad (log 6). -/
def Thread.caught (b : Bad) (word : Option W32) (t : Thread) : Thread :=
  { t with cause := b.cause.code, epc := t.pc, ebad := b.ebad.getD t.ebad, eword := word.getD t.eword }

/-- The thread parks with its PC at the instruction and with the values of its cause, and its record is sent. A cause of an
instruction that the thread has left behind, at `at_`, parks it where it stands (DESIGN CHOICE, log 23). -/
def State.faultTo (s : State) (p : CrewAt) (tid : Nat) (b : Bad) (word : Option W32) (dest : Option Dest)
    (at_ : Option W64 := none) : State :=
  match s.crew? p with
  | none => s
  | some c => match c.threads[tid]? with
    | none => s
    | some t =>
      let (k, s) := (s.dropRequest c tid t).newTicket p.die
      let ebad := b.ebad.getD t.ebad
      let eword := word.getD t.eword
      let s := s.modCrew p fun c => (c.unsign tid).modThread tid fun t =>
        { t.caught b word with epc := at_.getD t.pc, wait := .faultDomain k, entry := none, missed := none, next := none }
      s.sendRecord
        { ticket := k, cause := some b.cause, tid := BitVec.ofNat 8 tid, rkind := 0, index := 0, rcb := c.at_.rcb,
          epc := at_.getD t.pc, ebad, eword, syn := b.syn, entry := b.entry, stage := c.at_.stage, crewno := c.crewno,
          place := p, ns := s.ns } (dest.getD (s.recordDest c.at_)) c.uid

def State.fault (s : State) (p : CrewAt) (tid : Nat) (b : Bad) (word : Option W32) : State := s.faultTo p tid b word none

/-- A thread of a crew, if it is there still, takes a cause of a request or an operation that it has left behind: sys.epc
names its instruction (08 R187, 11 Table 11.6; DESIGN CHOICE, log 23). -/
def State.faultBehind (s : State) (uid tid : Nat) (b : Bad) (pc : W64) (word : Option W32) : State :=
  match s.crewByUid? uid with
  | none => s
  | some c => if c.has tid then s.faultTo c.place tid b word none (some pc) else s

/-! ## Page requests (08 R183) -/

/-- The 32-byte page request of 08 Table 8.5. -/
def pageRequest (page : Nat) (b : Bad) (master die waiters rcb : Nat) : List W8 :=
  (leBytes 8 (b.ebad.getD (BitVec.ofNat 64 (page * 4096))).toNat) ++ bytes32 b.syn
    ++ [BitVec.ofNat 8 master, BitVec.ofNat 8 die] ++ leBytes 2 (min waiters 0xFFFF) ++ leBytes 8 rcb ++ bytes64 b.entry

/-- One request for each walk that found an invalid entry, to the host or to the management core's service. The answer
false means that the request is refused at once, because it is routed to a detached host (12 Table 12.3). -/
def State.askPageFor (s : State) (die page master rcb : Nat) (engine : Bool) (b : Bad) (waiters : Nat) : Bool × State :=
  let toHost := (s.eff rcb).faultsToHost
  if toHost ∧ !s.attached then (false, s)
  else
    let request := pageRequest page b master die waiters rcb
    let w : Walk := { page, master, region := rcb, engine, kind := (b.syn >>> 3).toNat % 4, waiters,
                      queued := false, asked := true, toHost, request }
    let s := s.modDie die fun d => { d with walks := d.walks ++ [w] }
    (true, if toHost then { s with outgoing := s.outgoing ++ [⟨die, .ring 0, request⟩] } else s)
def State.askPage (s : State) (die page master rcb : Nat) (engine : Bool) (b : Bad) : Bool × State :=
  s.askPageFor die page master rcb engine b 1

def pageOf (a : Option W64) : Nat := ((a.getD 0).toNat % 2 ^ 57) / 4096

/-- PAGE_NOT_PRESENT parks the thread, with the values of its cause at once (02 R45, 08 R182; DEDUCED, log 6), until the
paging service answers (08 R183). -/
def State.pageFault (s : State) (p : CrewAt) (tid : Nat) (b : Bad) (word : Option W32) : State :=
  let rcb := ((s.crew? p).map fun c => c.at_.rcb).getD 0
  let (ok, s) := s.askPage p.die (pageOf b.ebad) p.col rcb false b
  let w : Wait := .pageFault p.die (b.ebad.getD 0) b.syn b.entry word (s.eff rcb).faultsToHost
  if ok then s.modThread p tid fun t => { t.caught b word with wait := w, missed := none }
  else s.fault p tid b word

/-! ## Translation misses (08 R181) -/

/-- A walk for a page of an agent of a column, with a number of requesters: one that waits or runs serves every requester
of its page. -/
def State.queueWalkFor (s : State) (die col rcb : Nat) (va : W64) (k : AccKind) (engine : Bool) (n : Nat := 1) : State :=
  let page := va.toNat / 4096
  s.modDie die fun d =>
    if d.walks.any fun w => w.page = page ∧ !w.asked then
      { d with walks := d.walks.map fun w => if w.page = page ∧ !w.asked then { w with waiters := w.waiters + n } else w }
    else
      { d with walks := d.walks ++ [⟨page, col, rcb, engine, k.code, n, true, false, false, []⟩] }
def State.queueWalk (s : State) (p : CrewAt) (va : W64) (k : AccKind) (engine : Bool) : State :=
  s.queueWalkFor p.die p.col (((s.crew? p).map fun c => c.at_.rcb).getD 0) va k engine

/-! ## Memory accesses of a thread (07 R150 to R163) -/

def State.setPts (s : State) (p : CrewAt) (tid n : Nat) : State := s.modThread p tid fun t => { t with pts := max t.pts n }
def State.ptsOf (s : State) (p : CrewAt) (tid : Nat) : Nat :=
  s.floorPts p.die (((s.thread? p tid).map Thread.pts).getD 0)
/-- A thread waits for the walk of its page, past the time floor (07 R167). -/
def State.walkPark (s : State) (p : CrewAt) (tid : Nat) (m : Missed) (k : AccKind) (word : W32) (who : WalkFor) : State :=
  (s.setPts p tid (s.ptsOf p tid)).modThread p tid fun t => { t with wait := .walk m.va k.code word who, missed := some m }
/-- One access of threads waits: of one thread, or of an issue group whose access is one (02 R32); of a range that begins at
`start`, one of its pages. -/
def State.walkGroup (s : State) (p : CrewAt) (tids : List Nat) (va : W64) (k : AccKind) (word : W32) (who : WalkFor)
    (start : W64 := va) : State :=
  let n := ((tids.head?).bind fun t => s.issuedAt p t va).getD s.serial
  tids.foldl (fun s t => s.walkPark p t ⟨va, n, start⟩ k word who)
    { s.queueWalk p va k (who == .engine) with serial := s.serial + 1 }
def State.walkWait (s : State) (p : CrewAt) (tid : Nat) (va : W64) (k : AccKind) (word : W32) (who : WalkFor)
    (start : W64 := va) : State :=
  s.walkGroup p [tid] va k word who start
/-- Where a thread goes on in a range that begins at an address: at the page whose walk it has waited for (08 R181). -/
def State.goesOnAt (s : State) (p : CrewAt) (tid start : Nat) : Option Nat :=
  ((s.thread? p tid).bind Thread.missed).bind fun m => if m.start.toNat = start then some m.va.toNat else none
/-- The pieces of a range from an address on, where it is one of them. -/
def piecesFrom (at_ : Option Nat) (l : List (Nat × Nat)) : List (Nat × Nat) :=
  match at_ with
  | some a => if l.any fun x => x.1 = a then l.dropWhile fun x => x.1 ≠ a else l
  | none => l
/-- A thread's load, or store, of bytes of a store other than device memory passes their lines' timestamps. -/
def State.seeLines (s : State) (p : CrewAt) (tid : Nat) (sp : Space) (a n : Nat) : State :=
  let (t, s) := s.passLoad sp a n (s.ptsOf p tid)
  s.setPts p tid t
def State.markLines (s : State) (p : CrewAt) (tid : Nat) (sp : Space) (a n : Nat) : State :=
  let (t, s) := s.passStore sp a n (s.ptsOf p tid)
  s.setPts p tid t
/-- The same at a local address. -/
def State.seeLocal (s : State) (c : Crew) (tid a n : Nat) : State :=
  let x := localSpace c a
  s.seeLines c.place tid x.1 x.2 n
def State.markLocal (s : State) (c : Crew) (tid a n : Nat) : State :=
  let x := localSpace c a
  s.markLines c.place tid x.1 x.2 n

/-- The serial under which a thread's posted stores keep their order: one for each thread. -/
def agentOf (c : Crew) (tid : Nat) : Nat := 64 * c.uid + tid

/-- A load after its checks. -/
def State.loadOk (s : State) (p : CrewAt) (tid : Nat) (va : W64) (n : Nat) (k : Checked) : Except Bad (List W8) × State :=
  match k with
  | .device pa _ e =>
    if s.poisoned pa n then (.error (Bad.at_ .memoryUncorrectable va), s)
    else
      let (l, t, s) := s.devLoad p.die p.col (s.ptsOf p tid) pa n e
      (.ok l, s.setPts p tid t)
  | .host pa _ => match s.hostLoad pa n with
    | (some l, s) => (.ok l, s.seeLines p tid .host pa n)
    | (none, s) => (.error (Bad.at_ .hostDetached va), s)
  | .register d off => (.ok (s.regRead d off n), s.setPts p tid (s.ptsOf p tid))
  | .bad b => (.error b, s)
  | .walk => (.error (Bad.at_ .pageNotPresent va), s)

/-- A store after its checks (17 R371). -/
def State.storeOk (s : State) (p : CrewAt) (tid : Nat) (va : W64) (l : List W8) (k : Checked) : Except Bad Unit × State :=
  match k with
  | .device pa _ e =>
    if s.poisoned pa l.length ∧ l.length < 16 then (.error (Bad.at_ .memoryUncorrectable va), s)
    else
      let (t, s) := s.devStore (s.ptsOf p tid) pa l (some e)
      let s := if l.length = 16 then s.writeParts pa 16 else s
      (.ok (), s.setPts p tid t)
  | .host pa _ =>
    let agent := ((s.crew? p).map fun c => agentOf c tid).getD 0
    (.ok (), (s.hostStore pa l agent).markLines p tid .host pa l.length)
  | .register d off => (.ok (), (s.regWrite (colMaster p) d off l).setPts p tid (s.ptsOf p tid))
  | .bad b => (.error b, s)
  | .walk => (.error (Bad.at_ .pageNotPresent va), s)

/-! ## The backing store (04 R81, R82) -/

/-- Why an access of the backing store stops: a page that is not present, a walk to be made, a failing address; or what it
stores is a register that awaits a reply (log 7), or whose parity check fails (11 Table 11.6). -/
inductive Stop where
  | page (b : Bad)
  | walk (va : W64) (k : AccKind)
  | spill (a : W64)
  | reply
  | parity
  deriving DecidableEq, Repr

def stopOf (a : Nat) (b : Bad) : Stop := if b.cause = .pageNotPresent then .page b else .spill (BitVec.ofNat 64 a)

structure Store where
  base : Nat
  size : Nat

/-- B and stacksize (04 R81). -/
def State.backing (s : State) (c : Crew) (tid : Nat) : Store :=
  let e := s.eff c.at_.rcb
  ⟨e.stackbase + (c.crewno * 32 + tid) * e.stacksize, e.stacksize⟩

def State.stackLoad (s : State) (p : CrewAt) (tid a n : Nat) : Except Stop (List W8) × State :=
  match s.check p tid (BitVec.ofNat 64 a) n .read with
  | (.walk, s) => (.error (.walk (BitVec.ofNat 64 a) .read), s)
  | (k, s) => match s.loadOk p tid (BitVec.ofNat 64 a) n k with
    | (.ok l, s) => (.ok l, s)
    | (.error b, s) => (.error (stopOf a b), s)

def State.stackStore (s : State) (p : CrewAt) (tid a : Nat) (l : List W8) : Option Stop × State :=
  match s.check p tid (BitVec.ofNat 64 a) l.length .write with
  | (.walk, s) => (some (.walk (BitVec.ofNat 64 a) .write), s)
  | (k, s) => match s.storeOk p tid (BitVec.ofNat 64 a) l k with
    | (.ok _, s) => (none, s)
    | (.error b, s) => (some (stopOf a b), s)

/-- Why a register of a stripe slot cannot be stored now. -/
def Thread.unready (t : Thread) (i : Nat) : Option Stop :=
  if t.awaiting.any fun a => a.slot == i then some .reply else if t.bad.contains i then some .parity else none

/-- Spill n registers from the spill mark upward, one 4-byte access each; the mark follows (04 R79, R82). -/
def State.spillRegs (s : State) (p : CrewAt) (tid : Nat) (b : Store) : Nat → Option Stop × State
  | 0 => (none, s)
  | n + 1 =>
    match s.thread? p tid with
    | none => (none, s)
    | some t =>
      let x := t.sm.toNat
      let a := b.base + b.size / 2 + 4 * x
      if 4 * x + 4 > b.size - b.size / 2 then (some (.spill (BitVec.ofNat 64 a)), s)
      else match t.unready (x % t.stripe.length) with
        | some e => (some e, s)
        | none => match s.stackStore p tid a (bytes32 (t.stripe.getD (x % t.stripe.length) 0)) with
          | (some e, s) => (some e, s)
          | (none, s) => (s.modThread p tid fun t => { t with sm := t.sm + 1 }).spillRegs p tid b n

/-- Read n registers of the register area from logical register x. -/
def State.readRegs (s : State) (p : CrewAt) (tid : Nat) (b : Store) : Nat → Nat → List W32 → Except Stop (List W32) × State
  | 0, _, acc => (.ok acc.reverse, s)
  | n + 1, x, acc =>
    let a := b.base + b.size / 2 + 4 * x
    if 4 * x + 4 > b.size - b.size / 2 then (.error (.spill (BitVec.ofNat 64 a)), s)
    else match s.stackLoad p tid a 4 with
      | (.error e, s) => (.error e, s)
      | (.ok l, s) => s.readRegs p tid b n (x + 1) (le32 l :: acc)

def fillStripe (st : List W32) : Nat → List W32 → List W32
  | _, [] => st
  | x, v :: vs => fillStripe (st.set (x % st.length) v) (x + 1) vs

/-- The registers from logical register fb on, read from the register area up to the old spill mark, come into the stripe;
of more than the stripe holds, those from fb on (04 R73). What their slots still awaited belongs to registers that the
stripe no longer holds. -/
def refillThread (fb : Nat) (vs : List W32) (t : Thread) : Thread :=
  let vs := vs.take t.stripe.length
  let slots := (List.range vs.length).map fun j => (fb + j) % t.stripe.length
  { t with
    stripe := fillStripe t.stripe fb vs, sm := BitVec.ofNat 32 fb, fb := BitVec.ofNat 32 fb
    bad := t.bad.filter fun i => !slots.contains i
    awaiting := t.awaiting.filter fun a => !slots.contains a.slot }

/-- The window moves to fb, restoring the invariant first (04 R79): spill what would pass the top, refill what lies below
the mark. -/
def State.slide (s : State) (p : CrewAt) (tid : Nat) (b : Store) (fb : Nat) : Option Stop × State :=
  match s.thread? p tid with
  | none => (none, s)
  | some t =>
    let size := t.stripe.length
    let sm := t.sm.toNat
    if fb + 64 > sm + size then
      match s.spillRegs p tid b (fb + 64 - size - sm) with
      | (some e, s) => (some e, s)
      | (none, s) => (none, s.modThread p tid fun t => { t with fb := BitVec.ofNat 32 fb })
    else if fb < sm then
      match s.readRegs p tid b (sm - fb) fb [] with
      | (.error e, s) => (some e, s)
      | (.ok vs, s) => (none, s.modThread p tid (refillThread fb vs))
    else (none, s.modThread p tid fun t => { t with fb := BitVec.ofNat 32 fb })

def REntry.toBytes (e : REntry) : List W8 :=
  bytes64 e.pc ++ bytes32 e.fb ++ leBytes 4 (match e.kind with
    | .call => 0
    | .trap => 1)
/-- An entry from its 16 bytes; a kind that is not 0, in memory that software altered, reads as a trap entry (DESIGN
CHOICE, log 81). -/
def REntry.ofBytes (l : List W8) : REntry :=
  ⟨BitVec.ofNat 64 (fieldAt l 0 8), BitVec.ofNat 32 (fieldAt l 8 4), if fieldAt l 12 4 = 0 then .call else .trap⟩

/-- Spill the oldest hardware entry to the link area (04 R80). -/
def State.spillEntry (s : State) (p : CrewAt) (tid : Nat) (b : Store) : Option Stop × State :=
  match s.thread? p tid with
  | none => (none, s)
  | some t => match t.rstack.getLast? with
    | none => (none, s)
    | some e =>
      let a := b.base + t.lk.toNat
      if t.lk.toNat + 16 > b.size / 2 then (some (.spill (BitVec.ofNat 64 a)), s)
      else match s.stackStore p tid a e.toBytes with
        | (some x, s) => (some x, s)
        | (none, s) => (none, s.modThread p tid fun t => { t with rstack := t.rstack.dropLast, lk := t.lk + 16 })

def State.spillEntries (s : State) (p : CrewAt) (tid : Nat) (b : Store) : Nat → Option Stop × State
  | 0 => (none, s)
  | n + 1 => match s.spillEntry p tid b with
    | (some e, s) => (some e, s)
    | (none, s) => s.spillEntries p tid b n

/-- Room for one more entry: a push to a full stack first spills the oldest (04 R80). -/
def State.makeRoom (s : State) (p : CrewAt) (tid : Nat) (b : Store) : Option Stop × State :=
  match s.thread? p tid with
  | none => (none, s)
  | some t => if t.rstack.length ≥ 16 then s.spillEntry p tid b else (none, s)

/-- n bytes at an address lie in the link area. -/
def Store.links (b : Store) (a n : Nat) : Bool := decide (b.base ≤ a ∧ a + n ≤ b.base + b.size / 2)

/-- The top entry: of an empty hardware stack, the one that a pop would refill from the top of the link area (04 R80). -/
def State.topEntry (s : State) (p : CrewAt) (tid : Nat) (b : Store) : Except Stop (Option REntry) × State :=
  match s.thread? p tid with
  | none => (.ok none, s)
  | some t =>
    if t.rstack ≠ [] ∨ t.lk.toNat < 16 then (.ok t.rstack.head?, s)
    else
      let a := b.base + t.lk.toNat - 16
      if !b.links a 16 then (.error (.spill (BitVec.ofNat 64 a)), s)
      else match s.stackLoad p tid a 16 with
        | (.error e, s) => (.error e, s)
        | (.ok l, s) => (.ok (some (REntry.ofBytes l)), s)

/-- The top entry is popped; one that was refilled for it leaves the link area. -/
def popEntry (t : Thread) : Thread :=
  { t with rsd := t.rsd - 1, rstack := t.rstack.drop 1, lk := if t.rstack = [] then t.lk - 16 else t.lk }

/-- How a stopped spill or refill ends: the thread waits for the walk, the page or the replies, or takes STACK_SPILL_FAULT
(04 R82), or MEMORY_UNCORRECTABLE for a register that it reads (11 Table 11.6). -/
def State.stopped (s : State) (p : CrewAt) (tid : Nat) (x : Stop) (word : Option W32) : State :=
  match x with
  | .page b => s.pageFault p tid b word
  | .walk va k => s.walkWait p tid va k (word.getD 0) .spill
  | .spill a => s.fault p tid (Bad.at_ .stackSpillFault a) word
  | .reply => s.park p tid .replies
  | .parity => s.fault p tid (Bad.plain .memoryUncorrectable) word

/-! ## Entering a handler (04 R86) -/

def causeByte (t : Thread) : W8 := t.cause

/-- The trap frame of 04 Table 4.4. -/
def trapFrame (t : Thread) (emu : Bool) : List W8 :=
  bytes64 t.pc ++ bytes64 t.epc ++ bytes64 t.ebad ++ bytes32 t.eword
    ++ [t.cause, t.cond, (if t.emu then 1 else 0) ||| (if emu then 0 else 2), 0] ++ bytes32 t.fb ++ zeros 28
    ++ (List.range 16).flatMap fun i => bytes32 (t.v i)

/-- Store a frame as eight 16-byte accesses in ascending address, each of which must lie in the link area; those before
one that stops stay in memory (04 R82). -/
def State.storeFrame (s : State) (p : CrewAt) (tid : Nat) (b : Store) : Nat → List W8 → Nat → Option Stop × State
  | _, _, 0 => (none, s)
  | a, l, n + 1 =>
    if !b.links a 16 then (some (.spill (BitVec.ofNat 64 a)), s)
    else match s.stackStore p tid a (l.take 16) with
      | (some e, s) => (some e, s)
      | (none, s) => s.storeFrame p tid b (a + 16) (l.drop 16) n

/-- The first of v0 to v15, which a frame takes, that cannot be stored now. -/
def Thread.frameUnready (t : Thread) : Option Stop := (List.range 16).findSome? fun n => t.unready (t.slot n)

/-- The state of the thread as the handler finds it: the entry pushed, the special registers, the window registers that
R86 writes, E, and the PC at the handler. -/
def enterThread (cause : Cause) (ebad : Option W64) (word : Option W32) (frame : Nat) (emu : Bool) (handler : W64)
    (oldfb : W32) (t : Thread) : Thread :=
  let eword := word.getD t.eword
  let t := { t with
    lk := t.lk + 128
    rstack := ⟨BitVec.ofNat 64 frame, oldfb, .trap⟩ :: t.rstack
    rsd := t.rsd + 1
    cause := cause.code, epc := t.pc, ebad := ebad.getD t.ebad, eword
    emu := t.emu || emu
    pc := handler, wait := .ready, entry := none, missed := none, next := none }
  t.setVs 48 ([BitVec.ofNat 32 frame, BitVec.ofNat 32 (frame / 2 ^ 32), cause.code.setWidth 32, eword]
    ++ List.replicate 12 0)

/-- A reply writes the slots that still await it; a thread that waited for replies to store its registers goes on (02
R23). -/
def replyThread (tag : Nat) (ws : List (Nat × W32)) (t : Thread) : Thread :=
  let t := if t.wait = .replies then { t with wait := .ready } else t
  ws.foldl (fun t x =>
    if t.awaiting.contains ⟨x.1, tag⟩ then
      { t with
        stripe := t.stripe.set x.1 x.2, awaiting := t.awaiting.filter fun a => a ≠ ⟨x.1, tag⟩
        bad := t.bad.filter fun i => i ≠ x.1 }
    else t) t

/-- A trap entry stops: one that waits is made again when the thread wakes, a later one is the fault's (04 R82, R89). -/
def State.entryStopped (s : State) (p : CrewAt) (tid : Nat) (x : Stop) (cause : Cause) (word : Option W32) : State :=
  match x with
  | .spill _ | .parity => s.stopped p tid x word
  | _ => ((s.modCrew p fun c => c.unsign tid).modThread p tid fun t => { t with entry := some (cause, word) }).stopped p tid x word

/-- A trap for the emulation handler (emu) or the software-trap handler (04 R86, R89). -/
def State.trap (s : State) (p : CrewAt) (tid : Nat) (b : Bad) (word : Option W32) (emu : Bool) : State :=
  match s.crew? p with
  | none => s
  | some c => match c.threads[tid]? with
    | none => s
    | some t =>
      let e := s.eff c.at_.rcb
      let handler := if emu then e.emuhandler else e.traphandler
      if emu ∧ t.emu then s.fault p tid ⟨.nestedEmulation, b.ebad, 0, 0⟩ word
      else if handler = 0 then s.fault p tid b word
      else
        let bs := s.backing c tid
        match s.spillEntries p tid bs t.rstack.length with
        | (some x, s) => s.entryStopped p tid x b.cause word
        | (none, s) => match s.thread? p tid with
          | none => s
          | some t =>
            let f := bs.base + t.lk.toNat
            match t.frameUnready with
            | some x => s.entryStopped p tid x b.cause word
            | none => match s.storeFrame p tid bs f (trapFrame t emu) 8 with
              | (some x, s) => s.entryStopped p tid x b.cause word
              | (none, s) => match s.slide p tid bs (t.fb.toNat + 16) with
                | (some x, s) => s.entryStopped p tid x b.cause word
                | (none, s) => s.modCrew p fun c => (c.unsign tid).modThread tid
                    (enterThread b.cause b.ebad word f emu handler t.fb)

/-- Take a cause: each is delivered as 11 Table 11.1 gives. A BREAKPOINT goes to host ring 2 while that ring is enabled
(14 R298). -/
def State.take (s : State) (p : CrewAt) (tid : Nat) (b : Bad) (word : Option W32) : State :=
  match b.cause with
  | .illegalInsn | .illegalPealWord => s.trap p tid b word true
  | .softwareTrap | .twinSplit => s.trap p tid b word false
  | .pageNotPresent => s.pageFault p tid b word
  | .breakpoint =>
    if (s.host.rings.getD 2 HostRing.reset).size.getLsbD 8 then s.faultTo p tid b word (some (.ring 2))
    else s.fault p tid b word
  | _ => s.fault p tid b word

/-- A thread of the group takes a cause at the instruction. -/
def State.raiseBad (s : State) (tid : Nat) (b : Bad) : State := s.take s.cur.place tid b (some s.cur.word)
def State.raise (s : State) (tid : Nat) (c : Cause) : State := s.raiseBad tid (Bad.plain c)

/-! ## Returning from a handler (04 R88) -/

/-- Read a frame as eight 16-byte accesses, each of which must lie in the link area (04 R82). -/
def State.loadFrame (s : State) (p : CrewAt) (tid : Nat) (b : Store) : Nat → List W8 → Nat → Except Stop (List W8) × State
  | _, acc, 0 => (.ok acc, s)
  | a, acc, n + 1 =>
    if !b.links a 16 then (.error (.spill (BitVec.ofNat 64 a)), s)
    else match s.stackLoad p tid a 16 with
      | (.error e, s) => (.error e, s)
      | (.ok l, s) => s.loadFrame p tid b (a + 16) (acc ++ l) n

/-- What a frame restores (04 R88), once the window is back. -/
def leaveThread (frame base : Nat) (l : List W8) (next : Bool) (t : Thread) : Thread :=
  let t := t.setVs 0 ((List.range 16).map fun i => BitVec.ofNat 32 (fieldAt l (0x40 + 4 * i) 4))
  { t with
    cond := BitVec.ofNat 8 (fieldAt l 0x1D 1), emu := (BitVec.ofNat 8 (fieldAt l 0x1E 1)).getLsbD 0
    cause := BitVec.ofNat 8 (fieldAt l 0x1C 1), epc := BitVec.ofNat 64 (fieldAt l 8 8)
    ebad := BitVec.ofNat 64 (fieldAt l 0x10 8), eword := BitVec.ofNat 32 (fieldAt l 0x18 4)
    lk := BitVec.ofNat 32 (frame - base), pc := BitVec.ofNat 64 (fieldAt l 0 8) + (if next then 4 else 0) }

/-- ERET of one thread of the group (04 R88, 15 R310). -/
def State.leave (s : State) (tid : Nat) (next : Bool) : State :=
  let p := s.cur.place
  let w := some s.cur.word
  s.withThread tid fun c _ =>
    let bs := s.backing c tid
    match s.topEntry p tid bs with
    | (.error x, s) => s.stopped p tid x w
    | (.ok (some ⟨f, _, .trap⟩), s) => match s.loadFrame p tid bs f.toNat [] 8 with
      | (.error x, s) => s.stopped p tid x w
      | (.ok l, s) => match s.slide p tid bs (fieldAt l 0x20 4) with
        | (some x, s) => s.stopped p tid x w
        | (none, s) => s.modThread p tid fun t => leaveThread f.toNat bs.base l next (popEntry t)
    | (.ok _, s) => s.raise tid .illegalInsn

end Sys2Proof.Machine
end

