-- ==== Sys2Proof/Machine/Operands.lean ====
section
/-! DEFINITION. Source operands by operand kind (13 R264, R266, Tables 13.2 and 13.3), the special registers
(04 R76, R77), and the window registers an instruction reads (02 R23). -/

namespace Sys2Proof.Machine

open Sys2Proof

/-! ## Constants -/

/-- An integer constant in a floating-point format: exact in each of them (13 R264). -/
def fpInt (f : FpFmt) (neg : Bool) (n : Nat) : Nat := (f.round .rne false neg n 0 false).1
/-- The constants 1.0, 0.5, 2.0 and −1.0. -/
def fpTwoTo (f : FpFmt) (neg : Bool) (e : Int) : Nat := (f.round .rne false neg 1 e false).1

/-- The pattern of an S7 constant in a floating-point format. -/
def constFp (f : FpFmt) : Src7 → Nat
  | .int n => fpInt f false n.toNat
  | .minusOne => fpInt f true 1
  | .one => fpTwoTo f false 0
  | .half => fpTwoTo f false (-1)
  | .two => fpTwoTo f false 1
  | .minusOneF => fpTwoTo f true 0
  | .v _ | .g _ => 0

/-- src7(e, I) (13 Table 13.3). -/
def srcI (c : Crew) (t : Thread) : Src7 → W32
  | .v n => t.v n.toNat
  | .g n => c.g' n.toNat
  | .int n => BitVec.ofNat 32 n.toNat
  | .minusOne => 0xFFFFFFFF
  | .one => 0x3F800000
  | .half => 0x3F000000
  | .two => 0x40000000
  | .minusOneF => 0xBF800000

/-- src7(e, F). -/
def srcF (c : Crew) (t : Thread) : Src7 → W32
  | .v n => t.v n.toNat
  | .g n => c.g' n.toNat
  | e => BitVec.ofNat 32 (constFp .fp32 e)

/-- src7(e, H): a constant in both halves. -/
def srcH (f : FpFmt) (c : Crew) (t : Thread) : Src7 → W32
  | .v n => t.v n.toNat
  | .g n => c.g' n.toNat
  | e => BitVec.ofNat 32 (constFp f e * 65537)

/-- src7(e, C): a constant is the real part, the imaginary part +0. -/
def srcC (f : FpFmt) (c : Crew) (t : Thread) : Src7 → W32
  | .v n => t.v n.toNat
  | .g n => c.g' n.toNat
  | e => BitVec.ofNat 32 (constFp f e)

/-- src7(e, L); a float constant does not decode in this kind. -/
def srcL (c : Crew) (t : Thread) : Src7 → W64
  | .v n => t.pair n.toNat
  | .g n => W32.pair (c.g' n.toNat) (c.g' (n.toNat + 1))
  | .int n => BitVec.ofNat 64 n.toNat
  | .minusOne => 0xFFFFFFFFFFFFFFFF
  | .one | .half | .two | .minusOneF => 0

/-- src7(e, Z): a pair, or (c, +0). -/
def srcZ (c : Crew) (t : Thread) : Src7 → W64
  | .v n => t.pair n.toNat
  | .g n => W32.pair (c.g' n.toNat) (c.g' (n.toNat + 1))
  | e => BitVec.ofNat 64 (constFp .fp32 e)

/-- src7(e, A): a pair; no constant decodes in this kind. -/
def srcA (c : Crew) (t : Thread) : Src7 → W64
  | .v n => t.pair n.toNat
  | .g n => W32.pair (c.g' n.toNat) (c.g' (n.toNat + 1))
  | _ => 0

/-- src6(e) (13 R266). -/
def src6 (c : Crew) : Src6 → W32
  | .g n => c.g' n.toNat
  | .int n => BitVec.ofNat 32 n.toNat
  | .minusOne => 0xFFFFFFFF

/-! ## Special registers (04 Table 4.2) -/

/-- The value a MOVS reads, and the thread with its latches (04 R76). -/
def sysRead (s : State) (c : Crew) (tid : Nat) (t : Thread) (r : SysReg) : W32 × Thread :=
  match r with
  | .tid => (BitVec.ofNat 32 tid, t)
  | .crew => (BitVec.ofNat 32 c.place.slot, t)
  | .col => (BitVec.ofNat 32 c.place.col, t)
  | .die => (BitVec.ofNat 32 c.place.die, t)
  | .stage => (BitVec.ofNat 32 c.at_.stage, t)
  | .nthr => (BitVec.ofNat 32 c.threads.length, t)
  | .recAddr => (t.recAddr, t)
  | .clkLo =>
    let k := (s.die c.place.die).clk
    (BitVec.ofNat 32 k, { t with clkHi := BitVec.ofNat 32 (k / 2 ^ 32) })
  | .clkHi => (t.clkHi, t)
  | .nsLo => (BitVec.ofNat 32 s.ns, { t with nsHi := BitVec.ofNat 32 (s.ns / 2 ^ 32) })
  | .nsHi => (t.nsHi, t)
  | .fb => (t.fb, t)
  | .rsd => (t.rsd, t)
  | .fpf => (t.fpf.setWidth 32, t)
  | .fp4x => (c.fp4x.setWidth 32, t)
  | .cause => (t.cause.setWidth 32, t)
  | .epcLo => (W64.lo t.epc, t)
  | .epcHi => (W64.hi t.epc, t)
  | .ebadLo => (W64.lo t.ebad, t)
  | .ebadHi => (W64.hi t.ebad, t)
  | .eword => (t.eword, t)
  | .pose => ((s.die c.place.die).pose.seq, t)
  | .ways => (BitVec.ofNat 32 (s.col c.place.die c.place.col).count, t)

/-! ## Registers read (02 R23) -/

def srcRegs : Src7 → List Nat
  | .v n => [n.toNat]
  | _ => []
def srcPair : Src7 → List Nat
  | .v n => [n.toNat, n.toNat + 1]
  | _ => []
/-- The uniform registers of a source, and of a source pair. -/
def srcG : Src7 → List Nat
  | .g n => [n.toNat]
  | _ => []
def srcGPair : Src7 → List Nat
  | .g n => [n.toNat, n.toNat + 1]
  | _ => []
def pairAt (n : VReg) : List Nat := [n.toNat, n.toNat + 1]
def regsAt (n : VReg) (k : Nat) : List Nat := (List.range k).map (· + n.toNat)

/-- Registers of a value of a complex type. -/
def complexAt (t : CType) (n : VReg) : List Nat := if t = .fp32 then pairAt n else [n.toNat]

/-- The registers of a scale operand (16 R354). -/
def scaleAt (nf : NFmt) (z : VReg) : List Nat := if nf = .q4n then pairAt z else [z.toNat]

def stRegs : StSize → Nat
  | .d => 2
  | .q => 4
  | _ => 1
def tRegs : TSize → Nat
  | .w => 1
  | .d => 2
  | .q => 4

/-- A memory instruction's mask is false in the thread (02 R47). -/
def maskedOff (t : Thread) : Option CBit → Bool
  | none => false
  | some k => !t.c k.toNat
def atomMasked (t : Thread) : AtomMask → Bool
  | .none => false
  | .c0 => !t.c 0
  | .c1 => !t.c 1
  | .c2 => !t.c 2

/-- The thread's mask keeps it out of a memory instruction: it reads no register of it, and takes no cause (02 R47). -/
def skips (t : Thread) : Instr → Bool
  | .ldg _ _ _ m _ | .stg _ _ _ m _ | .ldl _ _ _ m _ | .stl _ _ _ m _ | .pref _ _ m _ => maskedOff t m
  | .ldt _ _ _ _ m _ | .stt _ _ _ _ m _ => maskedOff t m
  | .atom _ m _ _ _ => atomMasked t m
  | .atomn _ m _ _ => atomMasked t m
  | _ => false

/-- The registers of an instruction's seven-bit sources, given those of one source and of a source pair. -/
def srcFields (one pair : Src7 → List Nat) : Instr → List Nat
  | .movt _ a | .neg _ a | .abs _ a | .not _ a | .clz _ a | .ctz _ a | .popc _ a | .brev _ a | .mov _ a
  | .icmpi _ _ a _ | .addi _ a _ | .andi _ a _ | .ori _ a _ | .xori _ a _ | .shli _ a _ | .shri _ a _ | .sari _ a _
  | .fcls _ a | .frnd _ _ a | .frcp _ a | .frsq _ a | .fsqt _ a | .fexp _ a | .flog _ a | .fspi _ a | .fcpi _ a
  | .twid _ _ _ a _ | .nap a _ => one a
  | .add _ a b | .addc _ a b | .sub _ a b | .subb _ a b | .and _ a b | .or _ a b | .xor _ a b | .andn _ a b
  | .shl _ a b | .shr _ a b | .sar _ a b | .rotl _ a b | .min _ a b | .max _ a b | .minu _ a b | .maxu _ a b
  | .mul _ a b | .mulh _ a b | .mulhu _ a b | .divs _ a b | .divu _ a b | .rems _ a b | .remu _ a b
  | .bprm _ a b | .lea _ a b _ | .icmp _ _ _ a b | .sel _ a b _ _ | .fadd _ _ a b | .fsub _ _ a b | .fmul _ _ a b
  | .fdiv _ _ a b | .fmin _ a b | .fmax _ a b | .fcmp _ _ _ a b | .hadd2 _ _ a b | .hsub2 _ _ a b | .hmul2 _ _ a b
  | .hmin2 _ _ a b | .hmax2 _ _ a b | .hcmp2 _ _ _ _ a b | .shufIdx _ a b | .shufXor _ a b | .shufUp _ a b
  | .shufDown _ a b => one a ++ one b
  | .addw _ a b | .subw _ a b => pair a ++ pair b
  | .shlw _ a b | .shrw _ a b => pair a ++ one b
  | .cadd t _ a b | .csub t _ a b | .cmul t _ a b | .crot t _ a b =>
    if t = .fp32 then pair a ++ pair b else one a ++ one b
  | .cmag t _ a | .carg t _ a | .cexi t _ a => if t = .fp32 then pair a else one a
  | .bri a => pair a
  | _ => []

/-- The window registers of an instruction's register fields. -/
def regFields : Instr → List Nat
  | .scway x | .scfl x => [x.toNat]
  | .bfx _ y z _ _ => [y.toNat, z.toNat]
  | .bfi x y z _ => [x.toNat, y.toNat, z.toNat]
  | .mad _ a b c | .ffma _ a b c | .hfma2F16 _ a b c | .hfma2Bf16 _ a b c | .cfmaFp16 _ a b c | .cfmaBf16 _ a b c =>
    [a.toNat, b.toNat, c.toNat]
  | .cfmaFp32 _ a b c => pairAt a ++ pairAt b ++ pairAt c
  | .moviHi d _ => [d.toNat]
  | .bfly t _ y z _ => complexAt t y ++ complexAt t z
  | .xcopy _ _ _ _ x y => [x.toNat, y.toNat]
  | .syscDispose => [0, 1]
  | .xlut x _ z => [x.toNat, z.toNat]
  | .obres _ y _ | .mdrn _ y _ => [y.toNat]
  | .obld _ y z _ => pairAt y ++ [z.toNat]
  | .obgat _ y z _ => [y.toNat, z.toNat]
  | .cvt _ _ _ _ _ y => [y.toNat]
  | .qpack nf wf _ y z => regsAt y (if wf = .fp32 then nf.count else nf.count / 2) ++ scaleAt nf z
  | .qunpk nf _ _ y z => [y.toNat] ++ scaleAt nf z
  | .qscl nf _ _ y z => if nf = .q4n then [y.toNat, z.toNat] else [y.toNat]
  | .rng _ y z _ => [y.toNat, z.toNat]
  | .acld _ _ z => [z.toNat]
  | .acst x _ z => [x.toNat, x.toNat + 1, z.toNat]
  | .cbmvPut x _ | .cbmvPutAll x => [x.toNat]
  | .enq x y | .enqNb x y => [x.toNat, y.toNat]
  | .qstat _ y => [y.toNat]
  | .tex _ y z => [y.toNat] ++ pairAt z
  | .trav _ y => [y.toNat]
  | .rast y => [y.toNat]
  | .convInit _ y => [y.toNat]
  | .ldg _ _ base _ _ | .pref _ base _ _ => pairAt base
  | .stg sz t base _ _ => regsAt t (stRegs sz) ++ pairAt base
  | .ldl _ _ base _ _ => [base.toNat]
  | .stl sz t base _ _ => regsAt t (stRegs sz) ++ [base.toNat]
  | .ldt _ _ _ base _ _ => [base.toNat]
  | .stt _ sz t base _ _ => regsAt t (tRegs sz) ++ [base.toNat]
  | .atom _ _ _ y z | .atomn _ _ y z => pairAt y ++ [z.toNat]
  | .cas _ a b c => pairAt a ++ [b.toNat, c.toNat]
  | .bari x y | .bara x y | .barw x y | .flsetE x y | .flsetF x y => [x.toNat, y.toNat]
  | .bart _ x y => [x.toNat, y.toNat]
  | .cwb x y | .cinv x y | .iinv x y | .ipre x y | .ipin x y | .iunp x y => pairAt x ++ [y.toNat]
  | .calli _ y => pairAt y
  | .peal n => [n.toNat]
  | _ => []

/-- The window registers that an instruction reads; of ACST, those of an I48Q2 tile. -/
def sourceRegs (i : Instr) : List Nat := srcFields srcRegs srcPair i ++ regFields i
/-- The uniform registers that an L-set instruction reads. -/
def uniformRegs (i : Instr) : List Nat := srcFields srcG srcGPair i

/-- The window registers that an instruction reads in a crew: ACST reads pair(X) for an I48Q2 tile alone (14 R285). -/
def Crew.sources (c : Crew) (i : Instr) : List Nat :=
  match i with
  | .acst x acc z =>
    if (c.tiles[acc.toNat]?).any Tile.i48q2 then sourceRegs i else [x.toNat, z.toNat]
  | _ => sourceRegs i

/-- The destinations of the crew's ULDs that have issued and wait for a walk (17 R384). -/
def Crew.loadingG (c : Crew) : List Nat :=
  c.threads.filterMap fun t => match t.wait with
    | .walk _ _ w _ => match decode w with
      | .ok (.uld d _ _) => some d.toNat
      | _ => none
    | _ => none
/-- An instruction comes after a ULD that has not written its register yet: one of the U set, and one of the L set that
reads the register (02 R32, 13 R265). -/
def behindUld (ds : List Nat) (w : W32) (i : Instr) : Bool :=
  !ds.isEmpty && (w.getLsbD 31 || (uniformRegs i).any ds.contains)

/-- A register that the instruction reads still awaits a tagged reply (02 R23); a PEAL waits for all of the thread's (16
R352). -/
def Crew.awaits (c : Crew) (t : Thread) : Instr → Bool
  | .peal _ => !t.awaiting.isEmpty
  | i => (c.sources i).any fun r => t.awaiting.any fun a => a.slot == t.slot r

end Sys2Proof.Machine
end

