-- ==== Sys2Proof/Machine/Issue.lean ====
section
/-! DEFINITION. Instruction fetch (07 R170, R171; 13 R272), the issue groups of a cycle (02 R23 to R30), and what comes
before an instruction of a group runs: its word and its decoding. -/

namespace Sys2Proof.Machine

open Sys2Proof

/-! ## Fetch -/

def Column.iline? (c : Column) (line : Nat) : Option ILine := c.icache.find? fun x => x.line = line

/-- A line filled: pinned lines stay, and the oldest of the others goes when the 512 lines are full (15 R327). -/
def Column.fillLine (c : Column) (l : ILine) : Column :=
  let rest := c.icache.filter fun x => x.line ≠ l.line
  let pins := rest.filter ILine.pinned
  let loose := rest.filter fun x => !x.pinned
  { c with icache := l :: (pins ++ loose.take (Config.icacheLines - 1 - pins.length)) }

/-- Words of a line from its bytes. -/
def wordsOf : Nat → List W8 → List W32
  | 0, _ => []
  | n + 1, l => le32 l :: wordsOf n (l.drop 4)

/-- The word of memory that a refill would give now, if its translation and checks pass. -/
def State.memoryWord (s : State) (p : CrewAt) (pc : W64) : Option W32 :=
  match (s.checkNow (colMaster p) false pc 4 .fetch).1 with
  | .device pa _ _ => if s.poisoned pa 4 then none else some (le32 (s.bytes .dev pa 4))
  | _ => none

/-- One of the words that the fetch buffer, the instruction cache and memory hold: an unpinned line may have been evicted
and filled again at any time (07 R171). -/
def State.pickWord (s : State) (l : List W32) (dflt : W32) : W32 × State :=
  let l := l.eraseDups
  let (i, s) := s.pick l.length
  (l.getD i dflt, s)

/-- Fetch a thread's next word: from its fetch buffer or the column's instruction cache, else from memory, by way of the
home L2 or the remote-data cache (06 R143), into both. -/
def State.fetchWord (s : State) (p : CrewAt) (tid : Nat) : Except Bad W32 × State :=
  match s.thread? p tid with
  | none => (.error (Bad.plain .permission), s)
  | some t =>
    match preCheck t.pc 4 .fetch false with
    | some b => (.error b, s)
    | none =>
      let line := t.pc.toNat / 128
      let i := t.pc.toNat % 128 / 4
      let held := match t.fbuf with
        | some (l, ws) => if l = line then [ws.getD i 0] else []
        | none => []
      match (s.col p.die p.col).iline? line with
      | some x =>
        let w := x.words.getD i 0
        let (w, s) := s.pickWord (held ++ [w] ++ (if x.pinned then [] else (s.memoryWord p t.pc).toList)) w
        (.ok w, if held = [] then s.modThread p tid fun t => { t with fbuf := some (line, x.words) } else s)
      | none =>
        match held with
        | w :: _ =>
          let (w, s) := s.pickWord (w :: (s.memoryWord p t.pc).toList) w
          (.ok w, s)
        | [] =>
          match s.checkNow (s.threadMaster p tid t.pc) false t.pc 4 .fetch with
          | (.device pa _ e, s) =>
            if s.poisoned pa 4 then (.error (Bad.at_ .memoryUncorrectable t.pc), s)
            else
              let (k, s) := s.lineFill p.die (s.ptsOf p tid) (pa / 128) (entryEligible e) (entryStreams e)
              let ws := wordsOf 32 k.data
              let s := s.modCol p.die p.col fun c => c.fillLine ⟨line, ws, false⟩
              (.ok (ws.getD i 0), s.modThread p tid fun t => { t with fbuf := some (line, ws) })
          | (.host pa _, s) =>
            match s.hostLoad pa 4 with
            | (some l, s) => (.ok (le32 l), s)
            | (none, s) => (.error (Bad.at_ .hostDetached t.pc), s)
          | (.bad b, s) => (.error b, s)
          | (.register _ _, s) => (.error (Bad.at_ .permission t.pc), s)
          | (.walk, s) => (.error (Bad.at_ .pageNotPresent t.pc), s)

/-- The word of a thread of a group: fetched before, or now; a fetch that fails is the thread's cause (13 R272). -/
def State.wordFor (s : State) (p : CrewAt) (tid : Nat) : Option W32 × State :=
  match (s.thread? p tid).bind fun t => t.next.bind fun f => if f.pc = t.pc then some f.word else none with
  | some w => (some w, s)
  | none => match s.fetchWord p tid with
    | (.ok w, s) => (some w, s)
    | (.error b, s) => (none, s.take p tid b none)

/-- The words of threads, one after another. -/
def State.wordsFor (s : State) (p : CrewAt) : List Nat → List (Nat × W32) × State
  | [] => ([], s)
  | t :: ts => match s.wordFor p t with
    | (none, s) => s.wordsFor p ts
    | (some w, s) =>
      let (r, s) := s.wordsFor p ts
      ((t, w) :: r, s)

/-! ## Before an instruction runs -/

/-- Threads of a group that still stand at its PC, ready. -/
def Crew.standing (c : Crew) (g : Group) : List Nat :=
  g.tids.filter fun i => c.phase == .running && c.has i && (match c.threads[i]? with
    | some t => t.wait == .ready && t.pc == g.pc
    | none => false)

/-- A register that the thread reads in the instruction has failed its parity check (11 Table 11.6). -/
def Crew.parityBad (c : Crew) (tid : Nat) (i : Instr) : Bool :=
  match c.threads[tid]? with
  | none => false
  | some t => !skips t i && (c.sources i).any fun r => t.bad.contains (t.slot r)

/-- Threads of the group take a cause, one after another. -/
def State.takeAll (s : State) (p : CrewAt) (tids : List Nat) (b : Bad) (w : W32) : State :=
  tids.foldl (fun s t => s.take p t b (some w)) s

/-- Threads issue: counter 0, class 1 (02 R29), and their word is used. -/
def issued (t : Thread) : Thread := { t with age := 0, aged := false, next := none }

/-- Threads of one crew at one PC with different tags: both clear (02 R28). -/
def Crew.meetTags (c : Crew) : Crew :=
  let meets (i : Nat) (t : Thread) : Bool :=
    c.has i && (c.tidsPresent.any fun j => match c.threads[j]? with
      | some u => u.pc == t.pc && u.tag != t.tag
      | none => false)
  { c with threads := mapIdxFrom (fun i t => if meets i t then { t with tag := false } else t) 0 c.threads }

/-- The threads that a step brings to one PC clear their tags with it. -/
def State.meetAll (s : State) : State := { s with crews := s.crews.map Crew.meetTags }

/-- The PEAL that holds a pipe, of the group (02 R46). -/
def State.pealOf (s : State) (g : Group) : Option PealRun :=
  (s.col g.place.die g.place.col).peals.find? fun r => r.pipe = g.pipe ∧ r.place = g.place ∧ r.tids = g.tids ∧ r.pc = g.pc

/-- Threads of the group make the trap entry that waited (04 R82). -/
def State.enterAgain (s : State) (c : Crew) (g : Group) : State :=
  (c.standing g).foldl (fun s i => match (s.thread? g.place i).bind Thread.entry with
    | some (k, w) => s.take g.place i (Bad.plain k) w
    | none => s) s

/-- The words of a group's threads, and the decoded instruction that the first of them gives; threads whose word differs,
by R171, form a group of their own behind it. -/
def State.bringWords (s : State) (g : Group) : Option Instr × State :=
  match s.crew? g.place with
  | none => (none, s)
  | some c =>
    let (ws, s) := s.wordsFor g.place (c.standing g)
    match ws with
    | [] => (none, s)
    | (_, w) :: _ =>
      let mine := (ws.filter fun x => x.2 = w).map Prod.fst
      let others := ws.filter fun x => x.2 ≠ w
      let s := if others = [] then s else
        let keepWord (c : Crew) : Crew :=
          others.foldl (fun c x => c.modThread x.1 fun t => { t with next := some ⟨t.pc, x.2⟩ }) c
        { s.modCrew g.place keepWord with pending := { g with tids := others.map Prod.fst } :: s.pending }
      let s := s.modCrew g.place fun c => mine.foldl (fun c t => c.modThread t issued) c
      match decode w with
      | .error _ => (none, s.takeAll g.place mine (Bad.plain .illegalInsn) w)
      | .ok i =>
        let bad := mine.filter fun t => c.parityBad t i
        let good := mine.filter fun t => !bad.contains t
        let s := s.takeAll g.place bad (Bad.plain .memoryUncorrectable) w
        if good = [] then (none, s)
        else (some i, { s with cur := ⟨g.place, good, g.pc, w, g.pipe, false, []⟩ })

/-- A group comes up: a PEAL that goes on, or threads at one PC, of which those make their trap entry again that waited. -/
def State.bringUp (s : State) (g : Group) : Option Instr × State :=
  match s.pealOf g with
  | some r => ((decode r.word).toOption, { s with cur := ⟨r.place, r.tids, r.pc, r.word, r.pipe, false, []⟩ })
  | none => match s.crew? g.place with
    | none => (none, s)
    | some c => ((s.enterAgain c g).modCrew g.place Crew.meetTags).bringWords g

/-! ## A cycle of issue -/

/-- The next word is fetched, no register it reads awaits a reply (02 R23) or the load of a ULD (02 R32), and no PEAL holds
the thread (02 R46). -/
def Crew.issuable (c : Crew) (t : Thread) : Bool :=
  t.wait == .ready && !t.peal && (match t.next with
    | none => false
    | some f => f.pc == t.pc && (match decode f.word with
      | .error _ => true
      | .ok i => !c.awaits t i && !behindUld c.loadingG f.word i))

/-- An entry of the PC table with its key (02 R24). -/
structure PcEntry where
  class1 : Bool
  tag : Bool
  pc : Nat
  slot : Nat
  tid : Nat
  uset : Bool
  deriving DecidableEq, Repr

def PcEntry.key (e : PcEntry) : List Nat := [e.class1.toNat, e.tag.toNat, e.pc, e.slot, e.tid]
def keyLe : List Nat → List Nat → Bool
  | [], _ => true
  | _ :: _, [] => false
  | a :: as, b :: bs => if a = b then keyLe as bs else decide (a < b)
def insertEntry (e : PcEntry) : List PcEntry → List PcEntry
  | [] => [e]
  | x :: t => if keyLe e.key x.key then e :: x :: t else x :: insertEntry e t

def Crew.running (c : Crew) : Bool := c.phase == .running

/-- The ready entries of a crew; no crew on a fenced column issues (11 R233). -/
def Crew.entries (c : Crew) : List PcEntry :=
  if !c.running then [] else
    c.tidsPresent.filterMap fun i => (c.threads[i]?).bind fun t =>
      if c.issuable t then some ⟨!t.aged, t.tag, t.pc.toNat, c.place.slot, i, ((t.next.map Fetched.word).getD 0).getLsbD 31⟩
      else none

def State.pcTable (s : State) (d c : Nat) : List PcEntry :=
  if (s.col d c).fenced then []
  else ((s.crews.filter fun k => k.place.die = d ∧ k.place.col = c).flatMap Crew.entries).foldr insertEntry []

/-- The head run: the first entries that share one PC and one slot. -/
def headRun : List PcEntry → List PcEntry
  | [] => []
  | e :: t => e :: t.takeWhile fun x => x.pc = e.pc ∧ x.slot = e.slot

def groupOf (d c pipe : Nat) : List PcEntry → List Group
  | [] => []
  | e :: t => [⟨⟨d, c, e.slot⟩, (e :: t).map PcEntry.tid, BitVec.ofNat 64 e.pc, pipe⟩]

/-- The thread waits for the walk of an access (08 R181). -/
def Thread.walking (t : Thread) : Bool :=
  match t.wait with
  | .walk _ _ _ _ => true
  | _ => false

/-- The destinations of ULDs of a crew that have issued and not written yet: those that wait, and those whose walk has
ended and that come next. -/
def State.pendingG (s : State) (p : CrewAt) : List Nat :=
  ((s.crew? p).map Crew.loadingG).getD []
    ++ (s.pending.filter fun g => g.place = p).flatMap fun g => g.tids.filterMap fun t =>
      match ((s.thread? p t).bind Thread.next).map fun f => decode f.word with
      | some (.ok (.uld d _ _)) => some d.toNat
      | _ => none

/-- The PEAL that holds a pipe of a column goes on with its next word (02 R46), once the walks of that word are made, and
the ULD whose register it reads. -/
def State.pealGroup (s : State) (d c pipe : Nat) : List Group :=
  let waits (r : PealRun) (x : PealWord) : Bool :=
    (x.tids.any fun t => (s.thread? r.place t).any Thread.walking)
      || (match decode x.word with
        | .ok i => behindUld (s.pendingG r.place) x.word i
        | .error _ => false)
  ((s.col d c).peals.filter fun r => r.pipe = pipe ∧ !(r.todo.take 1).any (waits r)).map fun r => ⟨r.place, r.tids, r.pc, pipe⟩

/-- The entry's thread is in a group that waits to run already, an access whose miss or line has ended; or its instruction
comes after a ULD that does. -/
def State.grouped (s : State) (d c : Nat) (e : PcEntry) : Bool :=
  (s.pending.any fun g => g.place == ⟨d, c, e.slot⟩ && g.tids.contains e.tid)
    || (match ((s.thread? ⟨d, c, e.slot⟩ e.tid).bind Thread.next).map fun f => (f.word, decode f.word) with
      | some (w, .ok i) => behindUld (s.pendingG ⟨d, c, e.slot⟩) w i
      | _ => false)

/-- The groups of a column: L pipe 0, L pipe 1, U pipe (02 R25); a pipe that a PEAL holds stays with it. -/
def State.groupsOf (s : State) (d c : Nat) : List Group :=
  let table := (s.pcTable d c).filter fun e => !s.grouped d c e
  let l := table.filter fun e => !e.uset
  let held (pipe : Nat) : Bool := (s.col d c).peals.any fun r => r.pipe = pipe
  let r0 := if held 0 then [] else headRun l
  let r1 := if held 1 then [] else headRun (l.drop r0.length)
  let u := headRun (table.filter PcEntry.uset)
  s.pealGroup d c 0 ++ groupOf d c 0 r0 ++ s.pealGroup d c 1 ++ groupOf d c 1 r1 ++ groupOf d c 2 u

/-- A thread that needs its next word takes it from its buffers at once, or waits for the fetch (02 R23). -/
def State.fetchNext (s : State) (p : CrewAt) (tid : Nat) : State :=
  match s.thread? p tid with
  | none => s
  | some t =>
    let have_ := match t.next with
      | some f => f.pc == t.pc
      | none => false
    if have_ || t.wait != .ready then s
    else
      let line := t.pc.toNat / 128
      let held := match t.fbuf with
        | some (l, _) => l == line
        | none => false
      if held || ((s.col p.die p.col).iline? line).isSome || (preCheck t.pc 4 .fetch false).isSome then
        match s.fetchWord p tid with
        | (.ok w, s) => s.modThread p tid fun t => { t with next := some ⟨t.pc, w⟩ }
        | (.error b, s) => s.take p tid b none
      else s.park p tid .fetch

def State.fetchAll (s : State) : State :=
  (s.crews.filter fun c => c.running && !(s.col c.place.die c.place.col).fenced).foldl (fun s c => c.tidsPresent.foldl (fun s t => s.fetchNext c.place t) s) s

/-- Ageing of one cycle (02 R29): a ready thread that does not issue is one older. A thread that is chosen issues its
instruction anew, unless a PEAL holds it. -/
def ageThreads (groups : List Group) (c : Crew) : Crew :=
  if !c.running then c else
    let chosen (i : Nat) : Bool := groups.any fun g => g.place = c.place ∧ g.tids.contains i
    { c with threads := mapIdxFrom (fun i t =>
        if chosen i then (if t.peal then t else { t with missed := none })
        else if c.has i && c.issuable t then { t with age := t.age + 1 } else t) 0 c.threads }

/-- A path reaches the region's ageing threshold: its ready entries move to class 0 (02 R29). -/
def Crew.overdue (c : Crew) (threshold : Nat) : List Nat :=
  if !c.running then [] else
    (c.tidsPresent.filterMap fun i => (c.threads[i]?).bind fun t =>
      if c.issuable t && !t.aged && decide (threshold ≤ t.age) then some t.pc.toNat else none).eraseDups

def promote (pcs : List Nat) (c : Crew) : Crew :=
  { c with threads := mapIdxFrom (fun i t =>
      if c.has i && c.issuable t && pcs.contains t.pc.toNat then { t with aged := true } else t) 0 c.threads }

/-- AGEING_PROMOTION (02 R29). -/
def execAgeingPromotion (die col : Nat) (s : State) : Host.Outcome State Fault Refusal :=
  let one (c : Crew) : Crew :=
    if c.place.die = die ∧ c.place.col = col then promote (c.overdue (s.eff c.at_.rcb).ageing) c else c
  .next { s with crews := s.crews.map one }

/-- The timestamps of a column's accepted commands rise by 1. -/
def Column.tickPts (c : Column) : Column :=
  { c with
    transfers := c.transfers.map fun t => { t with pts := t.pts + 1 }
    ops := c.ops.map fun o => { o with pts := o.pts + 1 }
    ff := c.ff.map fun r => { r with pts := r.pts + 1 } }

/-- PTS_TICK: every resident thread's timestamp, and every waiting command's, rises by 1 (07 R165). -/
def execPtsTick (s : State) : Host.Outcome State Fault Refusal :=
  .next { s with
    crews := s.crews.map fun c => { c with threads := c.threads.map fun t => { t with pts := t.pts + 1 } }
    cols := s.cols.map Column.tickPts }

/-- A fetch from memory whose page no TLB holds (08 R181). -/
def State.fetchMisses (s : State) (p : CrewAt) (t : Thread) : Bool :=
  let held := (t.fbuf.map Prod.fst) == some (t.pc.toNat / 128)
  !held && ((s.col p.die p.col).iline? (t.pc.toNat / 128)).isNone && (preCheck t.pc 4 .fetch false).isNone
    && (match s.lookup p.die p.col t.pc.toNat with
      | .miss => true
      | .hit _ _ => false)

/-- INSTRUCTION_FETCH_RETURN: the thread's fetch ends, with its word or with the cause it takes (13 R272, 15 R313). -/
def execInstructionFetchReturn (t : ThreadAt) (s : State) : Host.Outcome State Fault Refusal :=
  match s.thread? t.crew t.tid with
  | none => .next s
  | some th =>
    if th.wait ≠ .fetch then .next s
    else if s.fetchMisses t.crew th then .next (s.walkWait t.crew t.tid th.pc .fetch 0 .core)
    else
      let s := s.park t.crew t.tid .ready
      match s.fetchWord t.crew t.tid with
      | (.ok w, s) => .next (s.modThread t.crew t.tid fun x => { x with next := some ⟨x.pc, w⟩ })
      | (.error b, s) => .next (s.take t.crew t.tid b none)

end Sys2Proof.Machine
end

