-- ==== Sys2Proof/Machine/Integer.lean ====
section
/-! DEFINITION. The integer family: majors 0x10 to 0x28 (13 Table 13.5). -/

namespace Sys2Proof.Machine

open Sys2Proof

/-! ## Shapes -/

/-- The outcome of an instruction of which every thread of the group writes only its own registers. -/
def State.each (s : State) (f : Crew → Nat → Thread → Thread) : Host.Outcome State Fault Refusal := .next (s.perThread f)

/-- V(D) from two operands of kind I. -/
def binI (f : W32 → W32 → W32) (d : VReg) (a b : Src7) (c : Crew) (_ : Nat) (t : Thread) : Thread :=
  t.setV d.toNat (f (srcI c t a) (srcI c t b))
/-- V(D) from one operand of kind I. -/
def unI (f : W32 → W32) (d : VReg) (a : Src7) (c : Crew) (_ : Nat) (t : Thread) : Thread :=
  t.setV d.toNat (f (srcI c t a))
/-- pair(D) from two operands of kind L. -/
def binL (f : W64 → W64 → W64) (d : VReg) (a b : Src7) (c : Crew) (_ : Nat) (t : Thread) : Thread :=
  t.setPair d.toNat (f (srcL c t a) (srcL c t b))
/-- pair(D) from an operand of kind L and a count of kind I. -/
def shiftL (f : W64 → Nat → W64) (d : VReg) (a b : Src7) (c : Crew) (_ : Nat) (t : Thread) : Thread :=
  t.setPair d.toNat (f (srcL c t a) (srcI c t b).toNat)
/-- V(D) and c7 from two operands of kind I and c7. -/
def carryI (f : W32 → W32 → Bool → W32 × Bool) (d : VReg) (a b : Src7) (c : Crew) (_ : Nat) (t : Thread) : Thread :=
  let r := f (srcI c t a) (srcI c t b) (t.c 7)
  (t.setV d.toNat r.1).setC 7 r.2

/-! ## Functions of values -/

/-- Shifts by 32 or more (17 R366). -/
def shlW (x n : W32) : W32 := if n.toNat < 32 then x <<< n.toNat else 0
def shrW (x n : W32) : W32 := if n.toNat < 32 then x >>> n.toNat else 0
def sarW (x n : W32) : W32 := x.sshiftRight (min n.toNat 31)
def rotlW (x n : W32) : W32 := x.rotateLeft (n.toNat % 32)
def minW (a b : W32) : W32 := if BitVec.slt b a then b else a
def maxW (a b : W32) : W32 := if BitVec.slt a b then b else a
def minuW (a b : W32) : W32 := if b < a then b else a
def maxuW (a b : W32) : W32 := if a < b then b else a
def mulhW (a b : W32) : W32 := W64.hi (a.signExtend 64 * b.signExtend 64)
def mulhuW (a b : W32) : W32 := W64.hi (a.setWidth 64 * b.setWidth 64)
/-- Division (05 R115): by zero, and of the most negative number by −1. -/
def divsW (a b : W32) : W32 := if b = 0 then 0xFFFFFFFF else a.sdiv b
def divuW (a b : W32) : W32 := if b = 0 then 0xFFFFFFFF else a / b
def remsW (a b : W32) : W32 := if b = 0 then a else a.srem b
def remuW (a b : W32) : W32 := if b = 0 then a else a % b
/-- One byte of BPRM (14 R295). -/
def bprmByte (a b : W32) (i : Nat) : W8 :=
  let sel := (b.toNat / 2 ^ (4 * i)) % 16
  let x : W8 := a.extractLsb' (8 * (sel % 4)) 8
  match sel / 4 with
  | 0 => x
  | 1 => 0
  | 2 => if x.getLsbD 7 then 0xFF else 0
  | _ => 0xFF
def bprmW (a b : W32) : W32 := bprmByte a b 3 ++ bprmByte a b 2 ++ bprmByte a b 1 ++ bprmByte a b 0
def leaW (n : Nat) (a b : W32) : W32 := a + (b <<< n)
def absW (x : W32) : W32 := if x.getLsbD 31 then -x else x
/-- Zero bits above the highest, or below the lowest, set bit; 32 of 0 (14 R284). -/
def clzW (x : W32) : W32 := BitVec.ofNat 32 (if x = 0 then 32 else 31 - Nat.log2 x.toNat)
def ctzW (x : W32) : W32 := BitVec.ofNat 32 (((List.range 32).find? fun i => x.getLsbD i).getD 32)
def popcW (x : W32) : W32 := BitVec.ofNat 32 ((List.range 32).filter fun i => x.getLsbD i).length
def brevW (x : W32) : W32 := x.reverse
/-- The comparisons of 15 Table 15.8. -/
def ccHolds : Cc → W32 → W32 → Bool
  | .eq, a, b => a == b
  | .ne, a, b => a != b
  | .lt, a, b => BitVec.slt a b
  | .le, a, b => BitVec.sle a b
  | .gt, a, b => BitVec.slt b a
  | .ge, a, b => BitVec.sle b a
  | .ltu, a, b => BitVec.ult a b
  | .leu, a, b => BitVec.ule a b
  | .gtu, a, b => BitVec.ult b a
  | .geu, a, b => BitVec.ule b a
def ccImmHolds : CcImm → W32 → W32 → Bool
  | .eq, a, b => a == b
  | .ne, a, b => a != b
  | .lt, a, b => BitVec.slt a b
  | .le, a, b => BitVec.sle a b
  | .gt, a, b => BitVec.slt b a
  | .ge, a, b => BitVec.sle b a
  | .ltu, a, b => BitVec.ult a b
  | .geu, a, b => BitVec.ule b a
/-- C(K) from the old bit and a predicate (15 R315). -/
def combine : Comb → Bool → Bool → Bool
  | .set, _, r => r
  | .and, o, r => o && r
  | .or, o, r => o || r
  | .xor, o, r => xor o r
def maskW (n : Nat) : W32 := BitVec.ofNat 32 (2 ^ n - 1)
/-- BFX and BFI (14 R293): a field that would pass bit 31 is cut short. -/
def fieldLen (lenM1 : BitVec 5) (p : Nat) : Nat := min (lenM1.toNat + 1) (32 - p)
def bfxW (y : W32) (p n : Nat) (sgn : Bool) : W32 :=
  let u := (y >>> p) &&& maskW n
  if sgn && u.getLsbD (n - 1) then u ||| ~~~ maskW n else u
def bfiW (x y : W32) (p n : Nat) : W32 := (x &&& ~~~ (maskW n <<< p)) ||| ((y &&& maskW n) <<< p)
def sext11 (i : BitVec 11) : W32 := i.signExtend 32
def zext11 (i : BitVec 11) : W32 := i.setWidth 32
/-- MOVI.hi (16 R340). -/
def hiW (imm : W16) (old : W32) : W32 := imm ++ old.setWidth 16

/-! ## Meanings -/


/-- ADD (14 R286). -/
def execAdd (d : VReg) (a b : Src7) (s : State) : Host.Outcome State Fault Refusal :=
  s.each (binI (· + ·) d a b)

/-- SUB (17 R374). -/
def execSub (d : VReg) (a b : Src7) (s : State) : Host.Outcome State Fault Refusal :=
  s.each (binI (· - ·) d a b)

/-- AND (14 R286). -/
def execAnd (d : VReg) (a b : Src7) (s : State) : Host.Outcome State Fault Refusal :=
  s.each (binI (· &&& ·) d a b)

/-- OR (16 R350). -/
def execOr (d : VReg) (a b : Src7) (s : State) : Host.Outcome State Fault Refusal :=
  s.each (binI (· ||| ·) d a b)

/-- XOR (17 R388). -/
def execXor (d : VReg) (a b : Src7) (s : State) : Host.Outcome State Fault Refusal :=
  s.each (binI (· ^^^ ·) d a b)

/-- ANDN (14 R286). -/
def execAndn (d : VReg) (a b : Src7) (s : State) : Host.Outcome State Fault Refusal :=
  s.each (binI (fun x y => x &&& ~~~ y) d a b)

/-- SHL (17 R366). -/
def execShl (d : VReg) (a b : Src7) (s : State) : Host.Outcome State Fault Refusal :=
  s.each (binI shlW d a b)

/-- SHR (17 R366). -/
def execShr (d : VReg) (a b : Src7) (s : State) : Host.Outcome State Fault Refusal :=
  s.each (binI shrW d a b)

/-- SAR (17 R366). -/
def execSar (d : VReg) (a b : Src7) (s : State) : Host.Outcome State Fault Refusal :=
  s.each (binI sarW d a b)

/-- ROTL (17 R366). -/
def execRotl (d : VReg) (a b : Src7) (s : State) : Host.Outcome State Fault Refusal :=
  s.each (binI rotlW d a b)

/-- MIN (16 R334). -/
def execMin (d : VReg) (a b : Src7) (s : State) : Host.Outcome State Fault Refusal :=
  s.each (binI minW d a b)

/-- MAX (16 R334). -/
def execMax (d : VReg) (a b : Src7) (s : State) : Host.Outcome State Fault Refusal :=
  s.each (binI maxW d a b)

/-- MINU (16 R334). -/
def execMinu (d : VReg) (a b : Src7) (s : State) : Host.Outcome State Fault Refusal :=
  s.each (binI minuW d a b)

/-- MAXU (16 R334). -/
def execMaxu (d : VReg) (a b : Src7) (s : State) : Host.Outcome State Fault Refusal :=
  s.each (binI maxuW d a b)

/-- MUL (16 R343). -/
def execMul (d : VReg) (a b : Src7) (s : State) : Host.Outcome State Fault Refusal :=
  s.each (binI (· * ·) d a b)

/-- MULH (16 R343). -/
def execMulh (d : VReg) (a b : Src7) (s : State) : Host.Outcome State Fault Refusal :=
  s.each (binI mulhW d a b)

/-- MULHU (16 R343). -/
def execMulhu (d : VReg) (a b : Src7) (s : State) : Host.Outcome State Fault Refusal :=
  s.each (binI mulhuW d a b)

/-- DIVS (15 R308). -/
def execDivs (d : VReg) (a b : Src7) (s : State) : Host.Outcome State Fault Refusal :=
  s.each (binI divsW d a b)

/-- DIVU (15 R308). -/
def execDivu (d : VReg) (a b : Src7) (s : State) : Host.Outcome State Fault Refusal :=
  s.each (binI divuW d a b)

/-- REMS (17 R363). -/
def execRems (d : VReg) (a b : Src7) (s : State) : Host.Outcome State Fault Refusal :=
  s.each (binI remsW d a b)

/-- REMU (17 R363). -/
def execRemu (d : VReg) (a b : Src7) (s : State) : Host.Outcome State Fault Refusal :=
  s.each (binI remuW d a b)

/-- BPRM (14 R295). -/
def execBprm (d : VReg) (a b : Src7) (s : State) : Host.Outcome State Fault Refusal :=
  s.each (binI bprmW d a b)

/-- ADDC (14 R286). -/
def execAddc (d : VReg) (a b : Src7) (s : State) : Host.Outcome State Fault Refusal :=
  s.each (carryI addCarry d a b)

/-- SUBB (17 R374). -/
def execSubb (d : VReg) (a b : Src7) (s : State) : Host.Outcome State Fault Refusal :=
  s.each (carryI subBorrow d a b)

/-- ADDW (14 R288). -/
def execAddw (d : VReg) (a b : Src7) (s : State) : Host.Outcome State Fault Refusal :=
  s.each (binL (· + ·) d a b)

/-- SUBW (17 R374). -/
def execSubw (d : VReg) (a b : Src7) (s : State) : Host.Outcome State Fault Refusal :=
  s.each (binL (· - ·) d a b)

/-- SHLW (17 R367): a count of 64 or more gives 0. -/
def execShlw (d : VReg) (a b : Src7) (s : State) : Host.Outcome State Fault Refusal :=
  s.each (shiftL (fun x n => if n < 64 then x <<< n else 0) d a b)

/-- SHRW (17 R367). -/
def execShrw (d : VReg) (a b : Src7) (s : State) : Host.Outcome State Fault Refusal :=
  s.each (shiftL (fun x n => if n < 64 then x >>> n else 0) d a b)

/-- LEA (15 R331). -/
def execLea (d : VReg) (a b : Src7) (n : BitVec 2) (s : State) : Host.Outcome State Fault Refusal :=
  s.each (binI (leaW n.toNat) d a b)

/-- NEG (16 R339). -/
def execNeg (d : VReg) (a : Src7) (s : State) : Host.Outcome State Fault Refusal :=
  s.each (unI (fun x => -x) d a)

/-- ABS (14 R284). -/
def execAbs (d : VReg) (a : Src7) (s : State) : Host.Outcome State Fault Refusal :=
  s.each (unI absW d a)

/-- NOT (16 R339). -/
def execNot (d : VReg) (a : Src7) (s : State) : Host.Outcome State Fault Refusal :=
  s.each (unI (fun x => ~~~ x) d a)

/-- CLZ (14 R284). -/
def execClz (d : VReg) (a : Src7) (s : State) : Host.Outcome State Fault Refusal :=
  s.each (unI clzW d a)

/-- CTZ (14 R284). -/
def execCtz (d : VReg) (a : Src7) (s : State) : Host.Outcome State Fault Refusal :=
  s.each (unI ctzW d a)

/-- POPC (16 R339). -/
def execPopc (d : VReg) (a : Src7) (s : State) : Host.Outcome State Fault Refusal :=
  s.each (unI popcW d a)

/-- BREV (14 R296). -/
def execBrev (d : VReg) (a : Src7) (s : State) : Host.Outcome State Fault Refusal :=
  s.each (unI brevW d a)

/-- MOV (16 R339). -/
def execMov (d : VReg) (a : Src7) (s : State) : Host.Outcome State Fault Refusal :=
  s.each (unI (fun x => x) d a)

/-- ICMP (15 R315). -/
def execIcmp (cc : Cc) (comb : Comb) (k : CBit) (a b : Src7) (s : State) : Host.Outcome State Fault Refusal :=
  s.each fun c _ t => t.setC k.toNat (combine comb (t.c k.toNat) (ccHolds cc (srcI c t a) (srcI c t b)))

/-- SEL (17 R369). -/
def execSel (d : VReg) (a b : Src7) (k : CBit) (inv : Bool) (s : State) : Host.Outcome State Fault Refusal :=
  s.each fun c _ t => t.setV d.toNat (if t.c k.toNat != inv then srcI c t a else srcI c t b)

/-- BFX (14 R293). -/
def execBfx (x y z : VReg) (lenM1 : BitVec 5) (sgn : Bool) (s : State) : Host.Outcome State Fault Refusal :=
  s.each fun _ _ t =>
    let p := (t.v z.toNat).toNat % 32
    t.setV x.toNat (bfxW (t.v y.toNat) p (fieldLen lenM1 p) sgn)

/-- BFI (14 R293). -/
def execBfi (x y z : VReg) (lenM1 : BitVec 5) (s : State) : Host.Outcome State Fault Refusal :=
  s.each fun _ _ t =>
    let p := (t.v z.toNat).toNat % 32
    t.setV x.toNat (bfiW (t.v x.toNat) (t.v y.toNat) p (fieldLen lenM1 p))

/-- MAD (16 R333). -/
def execMad (d a b c : VReg) (s : State) : Host.Outcome State Fault Refusal :=
  s.each fun _ _ t => t.setV d.toNat (t.v a.toNat * t.v b.toNat + t.v c.toNat)

/-- ICMPI (15 R325). -/
def execIcmpi (cc : CcImm) (k : CBit) (a : Src7) (imm : BitVec 11) (s : State) : Host.Outcome State Fault Refusal :=
  s.each fun c _ t => t.setC k.toNat (ccImmHolds cc (srcI c t a) (sext11 imm))

/-- ADDI (14 R287). -/
def execAddi (d : VReg) (a : Src7) (imm : BitVec 11) (s : State) : Host.Outcome State Fault Refusal :=
  s.each (unI (fun x => x + sext11 imm) d a)

/-- ANDI (14 R287). -/
def execAndi (d : VReg) (a : Src7) (imm : BitVec 11) (s : State) : Host.Outcome State Fault Refusal :=
  s.each (unI (fun x => x &&& sext11 imm) d a)

/-- ORI (16 R350). -/
def execOri (d : VReg) (a : Src7) (imm : BitVec 11) (s : State) : Host.Outcome State Fault Refusal :=
  s.each (unI (fun x => x ||| zext11 imm) d a)

/-- XORI (17 R388). -/
def execXori (d : VReg) (a : Src7) (imm : BitVec 11) (s : State) : Host.Outcome State Fault Refusal :=
  s.each (unI (fun x => x ^^^ zext11 imm) d a)

/-- SHLI (17 R366). -/
def execShli (d : VReg) (a : Src7) (n : BitVec 5) (s : State) : Host.Outcome State Fault Refusal :=
  s.each (unI (fun x => x <<< n.toNat) d a)

/-- SHRI (17 R366). -/
def execShri (d : VReg) (a : Src7) (n : BitVec 5) (s : State) : Host.Outcome State Fault Refusal :=
  s.each (unI (fun x => x >>> n.toNat) d a)

/-- SARI (17 R366). -/
def execSari (d : VReg) (a : Src7) (n : BitVec 5) (s : State) : Host.Outcome State Fault Refusal :=
  s.each (unI (fun x => x.sshiftRight n.toNat) d a)

/-- MOVI.lo (16 R340). -/
def execMoviLo (d : VReg) (imm : W16) (s : State) : Host.Outcome State Fault Refusal :=
  s.each fun _ _ t => t.setV d.toNat (imm.setWidth 32)

/-- MOVI.sx (16 R340). -/
def execMoviSx (d : VReg) (imm : W16) (s : State) : Host.Outcome State Fault Refusal :=
  s.each fun _ _ t => t.setV d.toNat (imm.signExtend 32)

/-- MOVI.hi (16 R340). -/
def execMoviHi (d : VReg) (imm : W16) (s : State) : Host.Outcome State Fault Refusal :=
  s.each fun _ _ t => t.setV d.toNat (hiW imm (t.v d.toNat))

end Sys2Proof.Machine
end

