-- ==== Sys2Proof/Machine/Memory.lean ====
section
/-! DEFINITION. The memory instructions of a thread: LDG, STG, LDL, STL, LDT, STT, ATOM, ATOMN, CAS, PREF, FENCE, FLSET
and ULD (02 R47; 06 R119 to R128; 07 R158 to R163; 13 R268), and the tagged replies of loads (01 R9). -/

namespace Sys2Proof.Machine

open Sys2Proof

/-! ## Sizes and addresses -/

def ldBytes : LdSize → Nat
  | .b | .sb => 1
  | .h | .sh => 2
  | .w => 4
  | .d => 8
  | .q => 16
def stBytes : StSize → Nat
  | .b => 1
  | .h => 2
  | .w => 4
  | .d => 8
  | .q => 16
def tBytes (z : TSize) : Nat := 4 * tRegs z

/-- pair(B) + sext(imm5) × s, modulo 2^64 (13 R268). -/
def globalEa (t : Thread) (base : VReg) (imm : BitVec 5) (s : Nat) : W64 :=
  t.pair base.toNat + imm.signExtend 64 * BitVec.ofNat 64 s
/-- V(B) + sext(imm5) × s, modulo 2^32. -/
def localEa (t : Thread) (base : VReg) (imm : BitVec 5) (s : Nat) : W32 :=
  t.v base.toNat + imm.signExtend 32 * BitVec.ofNat 32 s

def wordsOfBytes : Nat → List W8 → List W32
  | 0, _ => []
  | n + 1, l => le32 l :: wordsOfBytes n (l.drop 4)

/-- The registers that a load of a size writes, from its bytes (15 R328). -/
def loadWords (z : LdSize) (l : List W8) : List W32 :=
  match z with
  | .sb => [((l.headD 0) : W8).signExtend 32]
  | .sh => [(le16 l).signExtend 32]
  | .b | .h | .w => [le32 l]
  | .d => wordsOfBytes 2 l
  | .q => wordsOfBytes 4 l

/-- The bytes that a store of a size writes. -/
def storeBytesOf (t : Thread) (z : StSize) (r : VReg) : List W8 :=
  match z with
  | .b => (bytes32 (t.v r.toNat)).take 1
  | .h => (bytes32 (t.v r.toNat)).take 2
  | _ => (List.range (stRegs z)).flatMap fun j => bytes32 (t.v (r.toNat + j))

/-! ## Translation misses (08 R181) -/

/-- The thread waits for the walk of its page. -/
def State.awaitWalk (s : State) (tid : Nat) (va : W64) (k : AccKind) (who : WalkFor := .core) (start : W64 := va) : State :=
  s.walkWait s.cur.place tid va k s.cur.word who start

/-! ## Replies (01 R9) -/

/-- The registers of a load: written at once within a PEAL (16 R352), else when its tagged reply comes. -/
def State.deliverLoad (s : State) (tid : Nat) (r : VReg) (ws : List W32) : State :=
  let p := s.cur.place
  if s.cur.peal then s.modThread p tid fun t => t.setVs r.toNat ws
  else
    s.withThread tid fun c t =>
      let slots := (List.range ws.length).map fun j => t.slot (r.toNat + j)
      let tag := s.serial
      let s := { s with serial := s.serial + 1 }
      let s := s.modCol p.die p.col fun k =>
        { k with loads := k.loads ++ [⟨tag, c.uid, tid, slots.zip ws⟩] }
      s.modThread p tid fun t => { t with
        awaiting := (t.awaiting.filter fun a => !slots.contains a.slot) ++ slots.map fun i => ⟨i, tag⟩ }

/-- Threads of the crew with a serial are changed. -/
def State.modUid (s : State) (uid : Nat) (f : Crew → Crew) : State :=
  { s with crews := s.crews.map fun c => if c.uid = uid then f c else c }

/-- TAGGED_REPLY: a load's reply reaches its registers (01 R9, 15 R328). -/
def execTaggedReply (die col tag : Nat) (s : State) : Host.Outcome State Fault Refusal :=
  match (s.col die col).loads.find? fun l => l.tag = tag with
  | none => .next s
  | some l =>
    let s := s.modCol die col fun c => { c with loads := c.loads.filter fun x => x.tag ≠ tag }
    .next (s.modUid l.uid fun c => c.modThread l.tid (replyThread tag l.writes))

/-! ## Global loads and stores -/

/-- One thread of LDG (15 R328). -/
def State.ldgThread (z : LdSize) (r base : VReg) (mask : Option CBit) (imm : BitVec 5) (s : State) (tid : Nat) : State :=
  s.withThread tid fun _ t =>
    if maskedOff t mask then s.finish tid
    else
      let ea := globalEa t base imm (ldBytes z)
      match s.check s.cur.place tid ea (ldBytes z) .read with
      | (.walk, s) => s.awaitWalk tid ea .read
      | (k, s) => match s.loadOk s.cur.place tid ea (ldBytes z) k with
        | (.error b, s) => s.raiseBad tid b
        | (.ok l, s) => (s.deliverLoad tid r (loadWords z l)).finish tid

/-- LDG (15 R328): the threads' loads take places in any order (02 R26). -/
def execLdg (z : LdSize) (r base : VReg) (mask : Option CBit) (imm : BitVec 5) (s : State) :
    Host.Outcome State Fault Refusal :=
  .next (s.inAnyOrder (State.ldgThread z r base mask imm))

/-- One thread of STG (17 R371). -/
def State.stgThread (z : StSize) (r base : VReg) (mask : Option CBit) (imm : BitVec 5) (s : State) (tid : Nat) : State :=
  s.withThread tid fun _ t =>
    if maskedOff t mask then s.finish tid
    else
      let ea := globalEa t base imm (stBytes z)
      match s.check s.cur.place tid ea (stBytes z) .write with
      | (.walk, s) => s.awaitWalk tid ea .write
      | (k, s) => match s.storeOk s.cur.place tid ea (storeBytesOf t z r) k with
        | (.error b, s) => s.raiseBad tid b
        | (.ok _, s) => s.finish tid

/-- STG (17 R371). -/
def execStg (z : StSize) (r base : VReg) (mask : Option CBit) (imm : BitVec 5) (s : State) :
    Host.Outcome State Fault Refusal :=
  .next (s.inAnyOrder (State.stgThread z r base mask imm))

/-! ## Atomics -/

/-- BF16 values ordered with −0 below +0: the code as an ordered number. -/
def bf16Order (x : Nat) : Int := if x / 32768 % 2 = 1 then -((x % 32768 : Nat) : Int) - 1 else (x % 32768 : Nat)
def bf16IsNan (x : Nat) : Bool := decide (x % 32768 > 0x7F80)

/-- The new memory value of an atomic (14 Table 14.5). -/
def atomicNew (op : Aop) (m v : W32) : W32 :=
  match op with
  | .add => m + v
  | .sub => m - v
  | .and => m &&& v
  | .or => m ||| v
  | .xor => m ^^^ v
  | .min => minW m v
  | .max => maxW m v
  | .minu => minuW m v
  | .maxu => maxuW m v
  | .exch => v
  | .fadd => BitVec.ofNat 32 (FpFmt.fp32.add .rne m.toNat v.toNat).1
  | .bfmax16 =>
    let x := v.toNat % 65536
    let y := m.toNat % 65536
    BitVec.ofNat 32 (if bf16IsNan x then y else if bf16IsNan y then x else if bf16Order x > bf16Order y then x else y)

def aopBytes (op : Aop) : Nat := if op = .bfmax16 then 2 else 4
/-- Host memory carries FetchAdd, Swap and CAS (07 R160). -/
def hostAop (op : Aop) : Bool := op == .add || op == .exch

/-- One read-modify-write after its checks: the old value, and the state with the new one; f gives what is stored, or
nothing. -/
def State.atomicOk (s : State) (p : CrewAt) (tid : Nat) (va : W64) (n : Nat) (onHost : Bool) (f : W32 → Option W32)
    (k : Checked) : Except Bad W32 × State :=
  match k with
  | .device pa _ e =>
    if s.poisoned pa n then (.error (Bad.at_ .memoryUncorrectable va), s)
    else
      let old := le32 (s.bytes .dev pa n)
      let l := match f old with
        | some x => (bytes32 x).take n
        | none => s.bytes .dev pa n
      let (t, s) := s.devStore (s.ptsOf p tid) pa l (some e)
      (.ok old, s.setPts p tid t)
  | .host pa e =>
    let bad (c : Cause) : Bad := ⟨c, some va, syndrome e.level .atomic false c, e.leafAt va.toNat⟩
    if !onHost then (.error (bad .permission), s)
    else if !s.attached then (.error (Bad.at_ .hostDetached va), s.countDetread)
    else if !Config.hostAtomics then (.error (bad .accessTableDenied), s)
    else
      let s := s.drainOut
      let old := le32 (s.bytes .host pa n)
      let s := match f old with
        | some x => s.storeBytes .host pa ((bytes32 x).take n)
        | none => s
      (.ok old, s.markLines p tid .host pa n)
  | .register _ _ => (.error (Bad.at_ .permission va), s)
  | .bad b => (.error b, s)
  | .walk => (.error (Bad.at_ .pageNotPresent va), s)

/-- One thread of an atomic at pair(Y) whose result, if any, goes to a register. -/
def State.atomicThread (y : VReg) (n : Nat) (onHost : Bool) (f : Thread → W32 → Option W32) (r : Option VReg) (s : State)
    (tid : Nat) : State :=
  s.withThread tid fun _ t =>
    let ea := t.pair y.toNat
    match s.check s.cur.place tid ea n .atomic with
    | (.walk, s) => s.awaitWalk tid ea .atomic
    | (k, s) => match s.atomicOk s.cur.place tid ea n onHost (f t) k with
      | (.error b, s) => s.raiseBad tid b
      | (.ok old, s) => (match r with
        | some x => s.deliverLoad tid x [old]
        | none => s).finish tid

def State.atomThread (op : Aop) (mask : AtomMask) (r : Option VReg) (y z : VReg) (s : State) (tid : Nat) : State :=
  s.withThread tid fun _ t =>
    if atomMasked t mask then s.finish tid
    else s.atomicThread y (aopBytes op) (hostAop op) (fun t m => some (atomicNew op m (t.v z.toNat))) r tid

/-- ATOM (14 R289, R290). -/
def execAtom (op : Aop) (mask : AtomMask) (x y z : VReg) (s : State) : Host.Outcome State Fault Refusal :=
  .next (s.inAnyOrder (State.atomThread op mask (some x) y z))
/-- ATOMN (14 R289): the same with no result. -/
def execAtomn (op : Aop) (mask : AtomMask) (y z : VReg) (s : State) : Host.Outcome State Fault Refusal :=
  .next (s.inAnyOrder (State.atomThread op mask none y z))
/-- CAS (14 R302). -/
def execCas (d a b c : VReg) (s : State) : Host.Outcome State Fault Refusal :=
  .next (s.inAnyOrder
    (State.atomicThread a 4 true (fun t m => if m = t.v b.toNat then some (t.v c.toNat) else none) (some d)))

/-! ## Local loads and stores (06 R119 to R126) -/

/-- The first check that stops a local access of one piece: its cause, empty lines, or an uncorrectable error. -/
inductive LocalGo where
  | go
  | bad (b : Bad)
  | wait (addr len : Nat)
  deriving DecidableEq, Repr

def State.localReady (s : State) (c : Crew) (a n align : Nat) (waits : Bool) : LocalGo :=
  match s.checkLocal c a n align with
  | some b => .bad b
  | none =>
    if waits && !s.linesFull c a n then .wait a n
    else if s.localDamaged c a n waits then .bad (Bad.local_ .memoryUncorrectable a)
    else .go

def State.localStop (s : State) (tid : Nat) : LocalGo → State
  | .go => s
  | .bad b => s.raiseBad tid b
  | .wait a n => s.park s.cur.place tid (.line (BitVec.ofNat 32 a) n (if s.cur.peal then 0 else s.cur.word))

def State.storeLocal (s : State) (c : Crew) (a : Nat) (l : List W8) : State :=
  let x := localSpace c a
  s.storeBytes x.1 x.2 l

/-- One thread of LDL (15 R329): a tagged load, as LDG is (01 R9). -/
def State.ldlThread (z : LdSize) (r base : VReg) (mask : Option CBit) (imm : BitVec 5) (s : State) (tid : Nat) : State :=
  s.withThread tid fun c t =>
    if maskedOff t mask then s.finish tid
    else
      let n := ldBytes z
      let ea := (localEa t base imm n).toNat
      match s.localReady c ea n n true with
      | .go => ((s.seeLocal c tid ea n).deliverLoad tid r (loadWords z (s.localBytes c ea n))).finish tid
      | x => s.localStop tid x

/-- LDL (15 R329). -/
def execLdl (z : LdSize) (r base : VReg) (mask : Option CBit) (imm : BitVec 5) (s : State) :
    Host.Outcome State Fault Refusal :=
  .next (s.inAnyOrder (State.ldlThread z r base mask imm))

/-- One thread of STL (17 R372). -/
def State.stlThread (z : StSize) (r base : VReg) (mask : Option CBit) (imm : BitVec 5) (s : State) (tid : Nat) : State :=
  s.withThread tid fun c t =>
    if maskedOff t mask then s.finish tid
    else
      let n := stBytes z
      let ea := (localEa t base imm n).toNat
      match s.localReady c ea n n false with
      | .go => ((s.storeLocal c ea (storeBytesOf t z r)).markLocal c tid ea n).finish tid
      | x => s.localStop tid x

/-- STL (17 R372). -/
def execStl (z : StSize) (r base : VReg) (mask : Option CBit) (imm : BitVec 5) (s : State) :
    Host.Outcome State Fault Refusal :=
  .next (s.inAnyOrder (State.stlThread z r base mask imm))

/-- p(j) of LDT and STT (15 R330): in column view the row and column fields change places. -/
def viewAddr (v : View) (a : Nat) : Nat :=
  match v with
  | .row => a
  | .col => a / 16384 * 16384 + a / 4 % 64 * 256 + a / 256 % 64 * 4
def viewAddrs (v : View) (z : TSize) (a : Nat) : List Nat :=
  (List.range (tRegs z)).map fun j => viewAddr v ((a + 4 * j) % 2 ^ 32)

/-- The view addresses checked as one access: ALIGNMENT is judged on a; the highest-addressed p(j) that fails names the
cause. -/
def State.viewReady (s : State) (c : Crew) (v : View) (z : TSize) (a : Nat) (waits : Bool) : LocalGo :=
  if a % tBytes z ≠ 0 then .bad (Bad.local_ .alignment a)
  else
    let ps := viewAddrs v z a
    let fails := ps.filter fun p => (s.checkLocal c p 4 1).isSome
    match fails with
    | f :: fs =>
      let h := fs.foldl max f
      match s.checkLocal c h 4 1 with
      | some b => .bad b
      | none => .go
    | [] =>
      match ps.find? fun p => waits && !s.linesFull c p 4 with
      | some p => .wait p 4
      | none => match ps.find? fun p => s.localDamaged c p 4 waits with
        | some p => .bad (Bad.local_ .memoryUncorrectable p)
        | none => .go

/-- One thread of LDT (15 R330). -/
def State.ldtThread (v : View) (z : TSize) (r base : VReg) (mask : Option CBit) (imm : BitVec 5) (s : State) (tid : Nat) :
    State :=
  s.withThread tid fun c t =>
    if maskedOff t mask then s.finish tid
    else
      let a := (localEa t base imm (tBytes z)).toNat
      match s.viewReady c v z a true with
      | .go => (((viewAddrs v z a).foldl (fun s p => s.seeLocal c tid p 4) s).deliverLoad tid r
          ((viewAddrs v z a).map fun p => le32 (s.localBytes c p 4))).finish tid
      | x => s.localStop tid x

/-- LDT (15 R330). -/
def execLdt (v : View) (z : TSize) (r base : VReg) (mask : Option CBit) (imm : BitVec 5) (s : State) :
    Host.Outcome State Fault Refusal :=
  .next (s.inAnyOrder (State.ldtThread v z r base mask imm))

/-- The elements of a view stored at one place of the order. -/
def State.storeView (s : State) (c : Crew) : List Nat → List W32 → State
  | p :: ps, x :: xs => ({ (s.storeLocal c p (bytes32 x)) with store := s.store }).storeView c ps xs
  | _, _ => { s with store := s.store + 1 }

/-- One thread of STT (17 R373). -/
def State.sttThread (v : View) (z : TSize) (r base : VReg) (mask : Option CBit) (imm : BitVec 5) (s : State) (tid : Nat) :
    State :=
  s.withThread tid fun c t =>
    if maskedOff t mask then s.finish tid
    else
      let a := (localEa t base imm (tBytes z)).toNat
      match s.viewReady c v z a false with
      | .go =>
        let s := s.storeView c (viewAddrs v z a) ((List.range (tRegs z)).map fun j => t.v (r.toNat + j))
        ((viewAddrs v z a).foldl (fun s p => s.markLocal c tid p 4) s).finish tid
      | x => s.localStop tid x

/-- STT (17 R373). -/
def execStt (v : View) (z : TSize) (r base : VReg) (mask : Option CBit) (imm : BitVec 5) (s : State) :
    Host.Outcome State Fault Refusal :=
  .next (s.inAnyOrder (State.sttThread v z r base mask imm))

/-! ## FLSET (06 R127, R128) -/

/-- A thread that waited for lines which are now full: a load is performed at once, on the bytes as they stand (15 R319);
an ENQ runs before anything else does; a PEAL runs again. -/
def State.performLine (s : State) (c : Crew) (tid : Nat) (t : Thread) (word : W32) : State :=
  let p := c.place
  let s := s.modThread p tid retry
  let alone : State := { s with cur := ⟨p, [tid], t.pc, word, 0, false, []⟩ }
  match decode word with
  | .ok (.ldl z r base mask imm) => { (alone.ldlThread z r base mask imm tid) with cur := s.cur }
  | .ok (.ldt v z r base mask imm) => { (alone.ldtThread v z r base mask imm tid) with cur := s.cur }
  | .ok (.enq _ _) | .ok (.enqNb _ _) =>
    { s.modThread p tid (fun t => { t with next := some ⟨t.pc, word⟩ }) with pending := ⟨p, [tid], t.pc, 0⟩ :: s.pending }
  | _ => s

/-- The crews' threads that wait for lines which are now full. -/
def State.wakeLines (s : State) : State :=
  let full (c : Crew) (x : Thread × Nat) : Option (Crew × Nat × Thread × W32) := match x.1.wait with
    | .line a n w => if s.linesFull c a.toNat n then some (c, x.2, x.1, w) else none
    | _ => none
  ((s.crews.filter fun c => c.phase == .running).flatMap fun c => c.threads.zipIdx.filterMap (full c)).foldl
    (fun s x => s.performLine x.1 x.2.1 x.2.2.1 x.2.2.2) s

/-- What a change of lines at one place of the store order leaves of those that it changes (06 R126, log 4). -/
def State.changedLines (s : State) (c : Crew) (ls : List Nat) (full : Bool) : List LinePast :=
  (ls.filter fun l => s.linesFull c (128 * l) 1 != full).map fun l =>
    let x := localSpace c (128 * l)
    ⟨s.store, x.1, x.2 / 128, full⟩

/-- Set lines of a local range empty or full. -/
def State.setLines (s : State) (c : Crew) (ls : List Nat) (full : Bool) : State :=
  let changed := s.changedLines c ls full
  let own := ls.filter fun l => l < 0x1000000 / 128
  let scr := (ls.filter fun l => 0x1000000 / 128 ≤ l).map fun l => l - 0x1000000 / 128
  let upd (old : List Nat) (ks : List Nat) : List Nat :=
    if full then old.filter fun l => !ks.contains l else ks.foldl (fun acc l => insertN l acc) old
  let s := s.modCrew c.place fun k => { k with empty := upd k.empty own }
  let s := s.modCol c.place.die c.place.col fun k => { k with empty := upd k.empty scr }
  { s with store := s.store + 1, linePast := changed ++ s.linePast }

/-- One thread of FLSET (06 R128, 15 R319). -/
def State.flsetThread (x y : VReg) (full : Bool) (s : State) (tid : Nat) : State :=
  s.withThread tid fun c t =>
    let a := (t.v x.toNat).toNat
    let n := (t.v y.toNat).toNat
    if a % 128 ≠ 0 ∨ n % 128 ≠ 0 then s.raiseBad tid (Bad.local_ .alignment a)
    else if n = 0 then s.finish tid
    else match s.checkLocal c a n 128 with
      | some b => s.raiseBad tid b
      | none =>
        let s := (s.setLines c (linesOf a n) full).markLocal c tid a n
        (if full then s.wakeLines else s).finish tid

/-- FLSET.e (15 R319): in ascending tid. -/
def execFlsetE (x y : VReg) (s : State) : Host.Outcome State Fault Refusal := .next (s.inOrder (State.flsetThread x y false))
/-- FLSET.f (15 R319). -/
def execFlsetF (x y : VReg) (s : State) : Host.Outcome State Fault Refusal := .next (s.inOrder (State.flsetThread x y true))

/-! ## FENCE (07 R158) -/

/-- A host store of any agent before this place has not been transmitted. -/
def State.untransmitted (s : State) (place : Nat) : Bool :=
  s.hostOut.any (Posted.before place)

/-- One thread of FENCE: its fence point; with host scope it waits for the stores not transmitted yet, and takes
HOST_DETACHED when a store that precedes it has been dropped, which no link transmits any more (12 Table 12.3). -/
def State.fenceThread (scope : Scope) (s : State) (tid : Nat) : State :=
  if scope = .host ∧ s.hostLost then s.raise tid .hostDetached else
  let s := s.modThread s.cur.place tid fun t => { t with fence := s.store }
  if scope = .host ∧ s.untransmitted s.store then s.park s.cur.place tid (.hostTx s.store) else s.finish tid

/-- FENCE (15 R317). -/
def execFence (scope : Scope) (s : State) : Host.Outcome State Fault Refusal := .next (s.inOrder (State.fenceThread scope))

/-- FENCE_HOST_TRANSMITTED: the stores that a FENCE.host waits for are transmitted (07 R158, 15 R317). -/
def execFenceHostTransmitted (t : ThreadAt) (s : State) : Host.Outcome State Fault Refusal :=
  match (s.thread? t.crew t.tid).map Thread.wait with
  | some (.hostTx place) =>
    let gone := s.hostOut.filter (Posted.before place)
    let s := gone.foldl State.transmit { s with hostOut := s.hostOut.filter fun x => !x.before place }
    .next (s.modThread t.crew t.tid fun th => { th with wait := .ready, pc := th.pc + 4 })
  | _ => .next s

/-! ## PREF (16 R353) -/

/-- The translation of a prefetch, for its checks, or that a walk is to be made. -/
def State.hintCheck (s : State) (p : CrewAt) (va : W64) (k : AccKind) : Checked × State :=
  match preCheck va 1 k false with
  | some b => (.bad b, s)
  | none => match s.lookup p.die p.col va.toNat with
    | .miss => (.walk, s)
    | .hit e s => s.postCheck (colMaster p) false va 1 k e
/-- A prefetch waits for the walk of its page, as no thread does. -/
def State.hintWalk (s : State) (p : CrewAt) (k : AccKind) (h : Hint) : State :=
  let s := s.queueWalkFor p.die p.col (((s.crew? p).map fun c => c.at_.rcb).getD 0) (BitVec.ofNat 64 h.va) k false 0
  s.modCol p.die p.col fun c => { c with hints := c.hints ++ [h] }

/-- Bring the line of an address into a level: no access, no cause, no request, no log entry. -/
def State.prefetch (s : State) (level : PrefLevel) (p : CrewAt) (pts : Nat) (va : W64) : State :=
  match s.hintCheck p va .read with
  | (.walk, s) => s.hintWalk p .read ⟨va.toNat, 1, some level, pts⟩
  | (.device pa h e, s') =>
    let line := pa / 128
    if s.poisoned pa 1 then s
    else match level with
      | .columnCache => (s'.devLoad p.die p.col pts pa 1 e).2.2
      | .l2 =>
        if h = p.die then s'.touch h line false (entryEligible e) (entryStreams e)
        else (s'.lineFill p.die pts line (entryEligible e) (entryStreams e)).2
      | .stacked =>
        if h ≠ p.die ∨ entryStreams e ∨ (s'.die h).stack.any (fun x => x.line = line) then s
        else s'.fillStack h line (entryEligible e) false
  | _ => s

/-- One thread of PREF. -/
def State.prefThread (level : PrefLevel) (base : VReg) (mask : Option CBit) (imm : BitVec 5) (s : State) (tid : Nat) :
    State :=
  s.withThread tid fun _ t =>
    (if maskedOff t mask then s
      else s.prefetch level s.cur.place (s.ptsOf s.cur.place tid) (globalEa t base imm 128)).finish tid

/-- PREF (16 R353). -/
def execPref (level : PrefLevel) (base : VReg) (mask : Option CBit) (imm : BitVec 5) (s : State) :
    Host.Outcome State Fault Refusal :=
  .next (s.inOrder (State.prefThread level base mask imm))

/-! ## ULD (17 R384) -/

/-- ULD: one load for the group, of which one walk is waited for; a failed check is taken by every thread of it. -/
def execUld (d base : GReg) (imm : BitVec 14) (s : State) : Host.Outcome State Fault Refusal :=
  match s.crew? s.cur.place, s.cur.tids with
  | some c, tid :: _ =>
    let ea := W32.pair (c.g' base.toNat) (c.g' (base.toNat + 1)) + imm.signExtend 64
    -- the group's load follows every earlier access of each of its threads: their latest timestamp
    let pts := s.cur.tids.foldl (fun n t => max n (s.ptsOf s.cur.place t)) 0
    match s.check s.cur.place tid ea 4 .read with
    | (.walk, s) => .next (s.walkGroup s.cur.place s.cur.tids ea .read s.cur.word .core)
    | (k, s) =>
      match (s.setPts s.cur.place tid pts).loadOk s.cur.place tid ea 4 k with
      | (.error b, s) => .next (s.cur.tids.foldl (fun s t => s.raiseBad t b) s)
      | (.ok l, s) =>
        let now := s.ptsOf s.cur.place tid
        let s := s.modCrew s.cur.place fun c => { c with g := c.g.set d.toNat (le32 l) }
        .next (s.cur.tids.foldl (fun s t => (s.setPts s.cur.place t now).finish t) s)
  | _, _ => .next s

end Sys2Proof.Machine
end

