-- ==== Sys2Proof/Machine/Cache.lean ====
section
/-! DEFINITION. The cache instructions of major 0x7D: CWB, CINV, IINV, FBAR, IPRE, IPIN, IUNP (14 R305, 15 R313, R326,
R327), and the ends of their waits. -/

namespace Sys2Proof.Machine

open Sys2Proof

/-- A piece of a range within one page: its first address and its length. -/
def pagePieces (a n : Nat) : List (Nat × Nat) :=
  (pagesOf a n).map fun p => (max a (4096 * p), min (a + n) (4096 * p + 4096) - max a (4096 * p))

/-- The checks of a page for a range instruction: those of an access of its first byte (08 R179). Where `pass`, pages of
host memory and of registers pass once their walk is made, and need no action (14 R305). -/
def State.checkPage (s : State) (p : CrewAt) (tid : Nat) (pass : Bool) (va : W64) (k : AccKind) : Checked × State :=
  match preCheck va 1 k false with
  | some b => (.bad b, s)
  | none => match s.lookup p.die p.col va.toNat with
    | .miss => (.walk, s)
    | .hit e s =>
      if pass && decide (2 ≤ leafType e.leaf) then (.register 0 0, s) else s.postCheck (s.threadMaster p tid va) false va 1 k e

/-- How the pages of a range end: all done, a failing check, a walk to be made. -/
inductive RangeEnd where
  | done
  | bad (b : Bad)
  | walk (va : W64)
  deriving DecidableEq, Repr

/-- Check each page of a range in ascending order, and act on it; the first failing check stops the range, with the
earlier pages done, and so does a translation miss, after which the range goes on at its page (08 R181). -/
def State.overPages (s : State) (p : CrewAt) (tid : Nat) (pass : Bool) (k : AccKind) (f : State → Nat → Nat → Checked → State) :
    List (Nat × Nat) → RangeEnd × State
  | [] => (.done, s)
  | (a, n) :: t =>
    match s.checkPage p tid pass (BitVec.ofNat 64 a) k with
    | (.bad b, s) => (.bad b, s)
    | (.walk, s) => (.walk (BitVec.ofNat 64 a), s)
    | (c, s) => (f s a n c).overPages p tid pass k f t

/-- The lines of device memory that a page's piece holds. -/
def deviceLines (n : Nat) : Checked → List (Nat × Nat)
  | .device pa h _ => (linesOf pa n).map fun l => (h, l)
  | _ => []

/-- One line leaves every cache of both dies; its home has its value already (14 R305). -/
def State.dropLine (s : State) (x : Nat × Nat) : State :=
  let line := x.2
  let clean (d : Die) : Die := { d with rdc := d.rdc.filter fun c => c.line ≠ line }
  let s : State := { s with
    cols := s.cols.map fun c => { c with copies := c.copies.filter fun k => k.line ≠ line }
    die0 := clean s.die0, die1 := clean s.die1 }
  s.modDie x.1 fun d => { d.evict line with l2 := d.l2.filter fun y => y.1 ≠ line }

/-- One thread of a range instruction: its range, what each page does, and how the thread goes on. -/
def State.rangeThread (x y : VReg) (pass : Bool) (k : AccKind) (f : State → Nat → Nat → Checked → State)
    (after : State → Nat → State) (s : State) (tid : Nat) : State :=
  s.withThread tid fun _ t =>
    let a := t.pair x.toNat
    let n := (t.v y.toNat).toNat
    if n = 0 then s.finish tid
    else match s.overPages s.cur.place tid pass k f (piecesFrom (s.goesOnAt s.cur.place tid a.toNat) (pagePieces a.toNat n)) with
      | (.bad b, s) => s.raiseBad tid b
      | (.walk va, s) => s.awaitWalk tid va k .core a
      | (.done, s) => after s tid

def waitOp (op : CacheOp) (s : State) (tid : Nat) : State := s.park s.cur.place tid (.cacheOp op [])

/-- CWB (14 R305): each store of the thread is performed at its home already; the wait ends with CWB_COMPLETE. -/
def execCwb (x y : VReg) (s : State) : Host.Outcome State Fault Refusal :=
  .next (s.inOrder (State.rangeThread x y true .read (fun s _ _ _ => s) (waitOp .cwb)))

/-- CINV (14 R305). -/
def execCinv (x y : VReg) (s : State) : Host.Outcome State Fault Refusal :=
  .next (s.inOrder (State.rangeThread x y true .read (fun s _ n c => (deviceLines n c).foldl State.dropLine s) (waitOp .cinv)))

/-- Lines leave every instruction cache of both dies, pinned or not (15 R326). -/
def State.dropCode (s : State) (ls : List Nat) : State :=
  { s with cols := s.cols.map fun c => { c with icache := c.icache.filter fun i => !ls.contains i.line } }

/-- IINV (15 R326). -/
def execIinv (x y : VReg) (s : State) : Host.Outcome State Fault Refusal :=
  .next (s.inOrder (State.rangeThread x y false .read (fun s a n _ => s.dropCode (linesOf a n)) (waitOp .iinv)))

/-- The words that a fetch of a whole line gives, where it gives them. -/
def State.codeLine (s : State) (line base pa : Nat) : List W32 :=
  wordsOf 32 (s.bytes .dev ((pa + 128 * line - base) / 128 * 128) 128)

/-- Fill one line, if memory gives it, by way of the home L2 or the remote-data cache (06 R143). -/
def State.fillOne (s : State) (p : CrewAt) (l a pa : Nat) (e : TlbEntry) : State :=
  let at_ := pa + 128 * l - a
  if s.poisoned at_ 1 then s
  else
    let (k, s) := s.lineFill p.die (s.floorPts p.die 0) (at_ / 128) (entryEligible e) (entryStreams e)
    s.modCol p.die p.col fun c => c.fillLine ⟨l, wordsOf 32 k.data, false⟩

/-- Fill a line of a page into the column's instruction cache. A pinned line keeps its words; an unpinned one may have
been evicted just before, and be filled again (07 R171). -/
def State.fillCodeLine (s : State) (p : CrewAt) (a : Nat) (c : Checked) (l : Nat) : State :=
  match c with
  | .device pa _ e => match (s.col p.die p.col).iline? l with
    | some i =>
      if i.pinned || i.words = s.codeLine l a pa then s
      else
        let (k, s) := s.pick 2
        if k = 0 then s else s.fillOne p l a pa e
    | none => s.fillOne p l a pa e
  | _ => s
def State.fillCode (s : State) (p : CrewAt) (a n : Nat) (c : Checked) : State :=
  (linesOf a n).foldl (fun s l => s.fillCodeLine p a c l) s

/-- One page of IPRE: a page that fails a check is skipped, and one that no TLB holds is filled after its walk (15
R326). -/
def State.prefetchCode (s : State) (p : CrewAt) (a n : Nat) : State :=
  match s.hintCheck p (BitVec.ofNat 64 a) .fetch with
  | (.walk, s) => s.hintWalk p .fetch ⟨a, n, none, 0⟩
  | (.device pa h e, s') => s'.fillCode p a n (.device pa h e)
  | _ => s
/-- IPRE in a thread. -/
def State.ipreThread (x y : VReg) (s : State) (tid : Nat) : State :=
  s.withThread tid fun _ t =>
    ((pagePieces (t.pair x.toNat).toNat (t.v y.toNat).toNat).foldl (fun s q => s.prefetchCode s.cur.place q.1 q.2) s).finish tid

/-- IPRE (15 R326). -/
def execIpre (x y : VReg) (s : State) : Host.Outcome State Fault Refusal := .next (s.inOrder (State.ipreThread x y))

def pins (c : Column) : Nat := (c.icache.filter ILine.pinned).length
def pinOne (c : Column) (l : Nat) : Column :=
  if pins c < Config.pinLimit then { c with icache := c.icache.map fun i => if i.line = l then { i with pinned := true } else i }
  else c

/-- A line can lie in an instruction cache: host memory is never cached (08 Table 8.3). -/
def State.cachable (s : State) (p : CrewAt) (line : Nat) : Bool :=
  match s.lookup p.die p.col (128 * line) with
  | .hit e _ => decide (leafType e.leaf < 2)
  | .miss => true

/-- The thread waits until the lines of its range are present and pinned at once (15 R326): all of them that a cache can
hold, and with no pin left those that have one (15 R327). A line that is poisoned is not filled, and the thread waits on
(DESIGN CHOICE, log 86). -/
def State.pinWait (x y : VReg) (s : State) (tid : Nat) : State :=
  s.withThread tid fun _ t =>
    let p := s.cur.place
    let k := s.col p.die p.col
    let pinned := (k.icache.filter ILine.pinned).map ILine.line
    let lines := linesOf (t.pair x.toNat).toNat (t.v y.toNat).toNat
    s.park p tid (.cacheOp .ipin (lines.filter fun l => pinned.contains l || (decide (pins k < Config.pinLimit) && s.cachable p l)))

/-- IPIN (15 R326, R327): the lines of a page, each filled and then pinned, in ascending address up to the limit. -/
def execIpin (x y : VReg) (s : State) : Host.Outcome State Fault Refusal :=
  .next (s.inOrder (State.rangeThread x y false .fetch
    (fun s a n c =>
      let p := s.cur.place
      (linesOf a n).foldl (fun s l => (s.fillCodeLine p a c l).modCol p.die p.col fun k => pinOne k l) s)
    (State.pinWait x y)))

/-- IUNP (15 R326): the pins go; the lines stay. -/
def execIunp (x y : VReg) (s : State) : Host.Outcome State Fault Refusal :=
  .next (s.inOrder (State.rangeThread x y false .read
    (fun s a n _ =>
      let p := s.cur.place
      let unpin (i : ILine) : ILine := if (linesOf a n).contains i.line then { i with pinned := false } else i
      s.modCol p.die p.col fun k => { k with icache := k.icache.map unpin })
    State.finish))

/-- FBAR (15 R313): the thread's fetched words go, and the next word is fetched through the instruction cache. -/
def State.fbarThread (s : State) (tid : Nat) : State :=
  (s.finish tid).modThread s.cur.place tid fun t => { t with next := none, fbuf := none, wait := .fetch }

/-- FBAR (15 R313). -/
def execFbar (s : State) : Host.Outcome State Fault Refusal := .next (s.inOrder State.fbarThread)

/-- A cache operation of a thread is complete: it goes on. -/
def State.opComplete (s : State) (t : ThreadAt) (op : CacheOp) : State :=
  match (s.thread? t.crew t.tid).map Thread.wait with
  | some (.cacheOp o _) =>
    if o = op then s.modThread t.crew t.tid fun th => { th with wait := .ready, pc := th.pc + 4 } else s
  | _ => s

/-- CWB_COMPLETE (14 R305). -/
def execCwbComplete (t : ThreadAt) (s : State) : Host.Outcome State Fault Refusal := .next (s.opComplete t .cwb)
/-- CINV_COMPLETE (14 R305). -/
def execCinvComplete (t : ThreadAt) (s : State) : Host.Outcome State Fault Refusal := .next (s.opComplete t .cinv)
/-- IINV_COMPLETE (15 R326). -/
def execIinvComplete (t : ThreadAt) (s : State) : Host.Outcome State Fault Refusal := .next (s.opComplete t .iinv)
/-- IPIN_COMPLETE (15 R326): every line that the thread waits for is present and pinned; one that was not filled, or that an
IINV has taken since, is filled and pinned again by the instruction. -/
def execIpinComplete (t : ThreadAt) (s : State) : Host.Outcome State Fault Refusal :=
  match (s.thread? t.crew t.tid).map Thread.wait with
  | some (.cacheOp .ipin lines) =>
    let held (l : Nat) : Bool := ((s.col t.crew.die t.crew.col).iline? l).any ILine.pinned
    .next (if lines.all held then s.opComplete t .ipin else s.modThread t.crew t.tid retry)
  | _ => .next s

end Sys2Proof.Machine
end

