-- ==== Sys2Proof/Machine/Formats.lean ====
section
/-! DEFINITION. Elements of the formats of 05 Table 5.2 and their conversions (05 R92, R99 to R108), packing and
unpacking with scales (16 R354 to R358), FA48 and I48Q2 elements (05 R112), and the counter-based generator
(05 R116). -/

namespace Sys2Proof

open Sys2Proof.Machine

/-- Bits of an element (05 Table 5.2). -/
def Fmt.width : Fmt → Nat
  | .i32 | .n32 | .fp32 => 32
  | .i16 | .n16 | .fp16 | .bf16 => 16
  | .i8 | .n8 | .e4m3 | .e5m2 | .h8 => 8
  | .e2m1 | .h4 => 4

def Fmt.fp? : Fmt → Option FpFmt
  | .fp32 => some .fp32
  | .fp16 => some .fp16
  | .bf16 => some .bf16
  | .e4m3 => some .e4m3
  | .e5m2 => some .e5m2
  | .e2m1 => some .e2m1
  | _ => none

/-- The bounds of an integer format. -/
def Fmt.bounds : Fmt → Int × Int
  | .i32 => (-2147483648, 2147483647)
  | .n32 => (0, 4294967295)
  | .i16 => (-32768, 32767)
  | .n16 => (0, 65535)
  | .i8 => (-128, 127)
  | .n8 => (0, 255)
  | _ => (0, 0)
def Fmt.signed : Fmt → Bool
  | .i32 | .i16 | .i8 => true
  | _ => false

/-- A decoded element: an integer or a floating-point value. -/
inductive Elem where
  | int (i : Int)
  | fp (x : Fp)
  deriving DecidableEq, Repr

/-- The value n + 0.5 of a half-step code of w bits (05 R105). -/
def halfStep (w code : Nat) : Fp :=
  let n := signedNat w code
  let twice := 2 * n + 1
  .fin (decide (twice < 0)) twice.natAbs (-1)

/-- E2M1 code 0b1000 stands for X, a BF16 pattern; a non-finite X decodes to the canonical NaN and raises invalid
(04 R77, 05 R103). -/
def extraValue (x : W16) : Fp × Fl :=
  match FpFmt.bf16.decode x.toNat with
  | .fin s m e => (.fin s m e, 0)
  | _ => (.nan false (2 ^ 51) true, Fl.invalid)

def Fmt.decode (f : Fmt) (x : W16) (code : Nat) : Elem × Fl :=
  match f with
  | .i32 | .i16 | .i8 => (.int (signedNat f.width code), 0)
  | .n32 | .n16 | .n8 => (.int (code % 2 ^ f.width : Nat), 0)
  | .h4 => (.fp (halfStep 4 code), 0)
  | .h8 => (.fp (halfStep 8 code), 0)
  | .e2m1 =>
    if code % 16 = 8 then
      let (v, fl) := extraValue x
      (.fp v, fl)
    else (.fp (FpFmt.e2m1.decode code), 0)
  | .fp32 => (.fp (FpFmt.fp32.decode code), 0)
  | .fp16 => (.fp (FpFmt.fp16.decode code), 0)
  | .bf16 => (.fp (FpFmt.bf16.decode code), 0)
  | .e4m3 => (.fp (FpFmt.e4m3.decode code), 0)
  | .e5m2 => (.fp (FpFmt.e5m2.decode code), 0)

/-- Into a floating-point format, from m × 2^e and what lies below (05 R99, R100, Table 5.4). -/
def FpFmt.encode (f : FpFmt) (rm : Rm) (sat : Bool) (x : Fp) (sticky : Bool) : Nat × Fl :=
  match x with
  | .nan s p q =>
    match f.top with
    | .finite => (0, Fl.invalid)
    | _ => (f.ofNan s p, if q then 0 else Fl.invalid)
  | .inf s =>
    let sgn := if s then f.signBit else 0
    match f.top with
    | .ieee => (sgn + f.infMag, 0)
    | .nanOnly => (if sat then sgn + f.maxMag else sgn + (2 ^ (f.eb + f.mb) - 1), Fl.invalid)
    | .finite => (sgn + f.maxMag, Fl.invalid)
  | .fin s m e => f.round rm sat s m e sticky

/-- Into a half-step format of w bits (05 R105): the nearest k + 0.5, an integer going away from zero. -/
def encodeHalf (w : Nat) (x : Fp) (sticky : Bool) : Nat × Fl :=
  let top := 2 ^ (w - 1)
  let code (neg : Bool) (k : Nat) : Nat := if neg then 2 ^ w - 1 - k else k
  match x with
  | .nan .. => (0, Fl.invalid)
  | .inf s => (code s (top - 1), Fl.invalid)
  | .fin s m e =>
    let k := if 0 ≤ e then m * 2 ^ e.toNat else m / 2 ^ (-e).toNat
    if k ≥ top then (code s (top - 1), Fl.overflow ||| Fl.inexact)
    else
      -- exactly k + 0.5 when twice the value is 2k + 1
      let exact := !sticky && decide (e < 0) && decide (2 * m = (2 * k + 1) * 2 ^ (-e).toNat)
      (code s k, if exact then 0 else Fl.inexact)

/-- Into an integer format: rounded in the mode, always saturating (05 R101). -/
def Fmt.ofFp (f : Fmt) (rm : Rm) (x : Fp) : Int × Fl :=
  let (lo, hi) := f.bounds
  match x with
  | .nan .. => (0, Fl.invalid)
  | .inf s => (if s then lo else hi, Fl.invalid)
  | .fin s m e =>
    let (i, ix) := toIntegral rm s m e
    if i < lo then (lo, Fl.invalid) else if hi < i then (hi, Fl.invalid) else (i, if ix then Fl.inexact else 0)

def intCode (w : Nat) (i : Int) : Nat := (i % (2 ^ w : Nat)).toNat

/-- Into any format of codes 0 to 13 (05 R99 to R105). -/
def Fmt.encode (f : Fmt) (rm : Rm) (sat : Bool) (x : Elem) : Nat × Fl :=
  match f, x with
  | .h4, .fp v => encodeHalf 4 v false
  | .h8, .fp v => encodeHalf 8 v false
  | .h4, .int i => encodeHalf 4 (.fin (decide (i < 0)) i.natAbs 0) false
  | .h8, .int i => encodeHalf 8 (.fin (decide (i < 0)) i.natAbs 0) false
  | f, .int i => match f.fp? with
    | some p => p.round rm sat (decide (i < 0)) i.natAbs 0 false
    | none =>
      let (lo, hi) := f.bounds
      (intCode f.width (if sat then max lo (min hi i) else i), 0)
  | f, .fp v => match f.fp? with
    | some p => p.encode rm sat v false
    | none =>
      let (i, fl) := f.ofFp rm v
      (intCode f.width i, fl)

/-- Whether the saturate bit acts: between integer formats only where the conversion narrows (05 R101). -/
def saturates (dst src : Fmt) (sat : Bool) : Bool :=
  let integer (f : Fmt) : Bool := [Fmt.i32, .n32, .i16, .n16, .i8, .n8].contains f
  sat && !(integer src && integer dst && decide (src.width ≤ dst.width))

/-- One element converted (15 R307; 10 Table 10.3). -/
def convertElem (dst src : Fmt) (rm : Rm) (sat : Bool) (x : W16) (code : Nat) : Nat × Fl :=
  let (v, f1) := src.decode x code
  let (c, f2) := dst.encode rm (saturates dst src sat) v
  (c, f1 ||| f2)

/-- Element i of w bits of a register (05 R92). -/
def elemOf (w : Nat) (r i : Nat) : Nat := r / 2 ^ (w * i) % 2 ^ w
/-- Codes of w bits packed from the least significant end (05 R92). -/
def packBits (w : Nat) : List Nat → Nat
  | [] => 0
  | c :: cs => c % 2 ^ w + 2 ^ w * packBits w cs

/-- CVT (15 R307): n elements of the source register, the rest of the result zero. -/
def cvtWord (dst src : Fmt) (rm : Rm) (sat : Bool) (x : W16) (v : W32) : W32 × Fl :=
  let n := 32 / max src.width dst.width
  let rs := (List.range n).map fun i => convertElem dst src rm sat x (elemOf src.width v.toNat i)
  (BitVec.ofNat 32 (packBits dst.width (rs.map Prod.fst)), rs.foldl (fun a r => a ||| r.2) 0)

/-! ## Scales (05 R106 to R108) -/

/-- Levels of the Q4N codebook in units of 2^-11 (05 Table 5.5). -/
def q4nLevels : List Int :=
  [-2048, -1424, -1072, -808, -588, -388, -191, 0, 162, 328, 504, 692, 904, 1152, 1480, 2048]
def q4nLevel (code : Nat) : Int := q4nLevels.getD (code % 16) 0

/-- A positive normal value: significand and exponent (05 R106, R108). -/
def positiveNormal (f : FpFmt) (code : Nat) : Option (Nat × Int) :=
  let mag := code % f.signBit
  if code / f.signBit % 2 = 1 ∨ mag < 2 ^ f.mb ∨ f.infMag ≤ mag then none
  else match f.decode code with
    | .fin _ m e => some (m, e)
    | _ => none

/-- A finite value over a positive one: exact, with what is left over. -/
def divPos (x : Fp) (d : Nat × Int) : Fp × Bool :=
  match x with
  | .fin s m e =>
    if m = 0 then (.fin s 0 0, false)
    else
      let (q, e, st) := quotient m d.1 (e - d.2)
      (.fin s q e, st)
  | y => (y, false)

def mulPos (x : Fp) (d : Nat × Int) : Fp :=
  match x with
  | .fin s m e => .fin s (m * d.1) (e + d.2)
  | y => y

/-- Encode a value into a narrow format by a BS16 scale (16 R355). -/
def packScaled (nf : NFmt) (scale : Nat × Int) (x : Fp) : Nat × Fl :=
  let (q, st) := divPos x scale
  match nf with
  | .e4m3 => FpFmt.e4m3.encode .rne true q st
  | .e5m2 => FpFmt.e5m2.encode .rne true q st
  | .e2m1 => FpFmt.e2m1.encode .rne false q st
  | .h4 => encodeHalf 4 q st
  | .h8 => encodeHalf 8 q st
  | .q4n => (7, 0)

/-- A signed integer times a positive number, as an exact value. -/
def exOf (i : Int) (m : Nat) (e : Int) : Ex := ⟨decide (i < 0), i.natAbs * m, e⟩
def Ex.eqv (a b : Ex) : Bool := !a.lt b && !b.lt a

/-- Encode into Q4N with q_b and S (05 R107); with q_b = 0 an infinity is a non-zero x and raises inexact, a NaN invalid
(DEDUCED, log 83). -/
def packQ4n (qb : Nat) (s : Nat × Int) (x : Fp) : Nat × Fl :=
  match x with
  | .nan .. => (7, Fl.invalid)
  | .inf n => if qb = 0 then (7, Fl.inexact) else (if n then 0 else 15, Fl.invalid)
  | .fin n m e =>
    let v : Ex := ⟨n, m, e⟩
    if m = 0 then (7, 0)
    else if qb = 0 then (7, Fl.inexact)
    else
      -- the midpoint of levels k and k + 1, times q_b × S
      let mid (k : Nat) : Ex := exOf (q4nLevel k + q4nLevel (k + 1)) (qb * s.1) (s.2 - 12)
      let code := ((List.range 15).filter fun k => (mid k).lt v).length
      let at_ (k : Int) : Ex := exOf k (qb * s.1) (s.2 - 11)
      let past := (at_ 2048).lt v || v.lt (at_ (-2048))
      (code, if past then Fl.overflow ||| Fl.inexact else if v.eqv (at_ (q4nLevel code)) then 0 else Fl.inexact)

/-- Decode of Q4N before its rounding (05 R106). -/
def unpackQ4n (qb : Nat) (s : Nat × Int) (code : Nat) : Fp :=
  let l := q4nLevel code
  .fin (decide (l < 0) && qb != 0) (l.natAbs * qb * s.1) (s.2 - 11)

def NFmt.fmt : NFmt → Fmt
  | .e4m3 => .e4m3
  | .e5m2 => .e5m2
  | .e2m1 => .e2m1
  | .h4 => .h4
  | .h8 => .h8
  | .q4n => .h4

/-- The encoding of a quiet NaN in a narrow format (05 Table 5.4). -/
def NFmt.nanCode : NFmt → Nat
  | .e4m3 => 0x7F
  | .e5m2 => 0x7E
  | .e2m1 => 0
  | .h4 => 0
  | .h8 => 0
  | .q4n => 7

def NFmt.bits (nf : NFmt) : Nat := if nf.fourBit then 4 else 8

/-- QPACK of the wide elements (16 R355): scale operand registers V(Z) and V(Z + 1). -/
def qpackWord (nf : NFmt) (wf : CType) (z z1 : W32) (xs : List Nat) : W32 × Fl :=
  let vs := xs.map wf.fp.decode
  let rs : Option (List (Nat × Fl)) := match nf with
    | .q4n => (positiveNormal .fp32 z1.toNat).map fun s => vs.map (packQ4n (z.toNat % 256) s)
    | _ => (positiveNormal .bf16 (z.toNat % 65536)).map fun s => vs.map (packScaled nf s)
  match rs with
  | none => (BitVec.ofNat 32 (packBits nf.bits (xs.map fun _ => nf.nanCode)), Fl.invalid)
  | some rs => (BitVec.ofNat 32 (packBits nf.bits (rs.map Prod.fst)), rs.foldl (fun a r => a ||| r.2) 0)

/-- QUNPK of a packed register (16 R358): the wide elements. -/
def qunpkElems (nf : NFmt) (wf : CType) (x : W16) (y z z1 : W32) : List Nat × Fl :=
  let codes := (List.range nf.count).map fun i => elemOf nf.bits y.toNat i
  let f := wf.fp
  match nf with
  | .q4n => match positiveNormal .fp32 z1.toNat with
    | none => (codes.map fun _ => f.canonical, Fl.invalid)
    | some s =>
      let rs := codes.map fun c => f.encode .rne false (unpackQ4n (z.toNat % 256) s c) false
      (rs.map Prod.fst, rs.foldl (fun a r => a ||| r.2) 0)
  | _ => match positiveNormal .bf16 (z.toNat % 65536) with
    | none => (codes.map fun _ => f.canonical, Fl.invalid)
    | some s =>
      let rs := codes.map fun c =>
        let (v, f1) := nf.fmt.decode x c
        match v with
        | .int _ => (f.canonical, Fl.invalid)
        | .fp v =>
          let (r, f2) := f.encode .rne false (mulPos v s) false
          -- an E4M3 NaN decodes to a quiet NaN and raises no flag (05 R99)
          (r, f1 ||| f2)
      (rs.map Prod.fst, rs.foldl (fun a r => a ||| r.2) 0)

/-- Twice the largest finite magnitude of a narrow format (16 R356). -/
def NFmt.twiceMax : NFmt → Nat
  | .e4m3 => 896
  | .e5m2 => 114688
  | .e2m1 => 12
  | .h4 => 15
  | .h8 => 255
  | .q4n => 2

/-- QSCL (16 R356): a is the code of the absolute maximum in the wide format, s the register of S. -/
def qscl (nf : NFmt) (wf : CType) (a : Nat) (s : W32) : W32 × Fl :=
  let v := wf.fp.decode (a % wf.fp.signBit)
  match nf with
  | .q4n => match positiveNormal .fp32 s.toNat with
    | none => (0, Fl.invalid)
    | some s => match v with
      | .fin _ m e =>
        -- ceil(m·2^e / (s.1·2^s.2))
        let d := e - s.2
        let q := if 0 ≤ d then ceilDiv (m * 2 ^ d.toNat) s.1 else ceilDiv m (s.1 * 2 ^ (-d).toNat)
        (BitVec.ofNat 32 (min 255 q), 0)
      | _ => (255, Fl.invalid)
  | _ => match v with
    | .fin _ m e =>
      if m = 0 then (0x0080, 0)
      else
        let (q, e, st) := quotient (2 * m) nf.twiceMax e
        let (c, _) := FpFmt.bf16.round .rup false false q e st
        (BitVec.ofNat 32 (if c < 0x80 then 0x80 else if c ≥ 0x7F80 then 0x7F7F else c), 0)
    | _ => (0x7F7F, Fl.invalid)

/-! ## Accumulator elements (05 R112) -/

/-- fa48(x) of an exact result; no numeric result gives the canonical NaN (05 R113). -/
def fa48Of (r : Res) : W48 :=
  match r with
  | .invalid => BitVec.ofNat 48 FpFmt.fa48.canonical
  | .inf s => BitVec.ofNat 48 ((if s then FpFmt.fa48.signBit else 0) + FpFmt.fa48.infMag)
  | .val x => BitVec.ofNat 48 (FpFmt.fa48.round .rne false x.neg x.m x.e false).1

/-- A floating-point value in FA48: exact for every narrower format. -/
def fa48OfFp (x : Fp) : W48 :=
  match x with
  | .nan s p _ => BitVec.ofNat 48 (FpFmt.fa48.ofNan s p)
  | y => fa48Of y.res

def sat48 (i : Int) : W48 := BitVec.ofInt 48 (max (-140737488355328) (min 140737488355327 i))

/-- acc + s in FA48 (05 R113): a group without a numeric result gives the canonical NaN; else a NaN accumulator stays, with
its payload, and opposite infinities give the canonical NaN (05 R96), also where the group's sum is infinite and R113's prose
names an infinite result (DESIGN CHOICE, log 86). -/
def fa48Add (acc : W48) (r : Res) : W48 :=
  match r, FpFmt.fa48.decode acc.toNat with
  | .invalid, _ => BitVec.ofNat 48 FpFmt.fa48.canonical
  | _, .nan s p _ => BitVec.ofNat 48 (FpFmt.fa48.ofNan s p)
  | r, a => fa48Of (a.res.add .rne r)

/-! ## CG64 (05 R116) -/

def cg64Round (s : W64) (i : Nat) (h : W64) : W64 :=
  let h := h ^^^ (h >>> 31)
  let h := h * 0xB5297A4D3C6E8F03#64
  let h := h ^^^ (h >>> 29)
  h + (s + BitVec.ofNat 64 i)

def cg64 (key : W64) (x y stream : W32) : W32 :=
  let s : W64 := stream.setWidth 64
  let h := key ^^^ ((x.setWidth 64 <<< 32) ||| y.setWidth 64)
  let h := h + s * 0x9C4D2E17A58B3F61#64
  W64.hi (cg64Round s 3 (cg64Round s 2 (cg64Round s 1 (cg64Round s 0 h))))

end Sys2Proof
end

