-- ==== Sys2Proof/Machine/Special.lean ====
section
/-! DEFINITION. The special functions and twiddles (05 R110, R111, Table 5.7): each is the exact value rounded once.
A value that is not representable is enclosed between two fixed-point bounds, with more bits until both bounds round
alike; the bounds' error is counted generously. -/

namespace Sys2Proof

open Sys2Proof.Machine

/-! ## Fixed point with P bits below the point -/

/-- The alternating series of atan at 1/n: P bits. -/
def atanInvLoop (n2 : Nat) : Nat → Nat → Nat → Bool → Int → Int
  | 0, _, _, _, acc => acc
  | k + 1, pw, d, neg, acc =>
    atanInvLoop n2 k (pw / n2) (d + 2) (!neg) (if neg then acc - (pw / d : Nat) else acc + (pw / d : Nat))
def atanInv (p n : Nat) : Int := atanInvLoop (n * n) (p / 2 + 2) (2 ^ p / n) 1 false 0

/-- π by Machin's formula. -/
def piFix (p : Nat) : Int := 16 * atanInv p 5 - 4 * atanInv p 239

/-- Σ z^(2k+1)/(2k+1), signed when alternating: atan or artanh of z / 2^P. -/
def oddSeries (p : Nat) (alt : Bool) (z2 : Nat) : Nat → Nat → Nat → Bool → Int → Int
  | 0, _, _, _, acc => acc
  | k + 1, pw, d, neg, acc =>
    oddSeries p alt z2 k (pw * z2 / 2 ^ p) (d + 2) (alt && !neg)
      (if neg then acc - (pw / d : Nat) else acc + (pw / d : Nat))
def atanFix (p z : Nat) : Int := oddSeries p true (z * z / 2 ^ p) (p + 2) z 1 false 0
def artanhFix (p z : Nat) : Int := oddSeries p false (z * z / 2 ^ p) (p + 2) z 1 false 0
/-- ln 2 = 2 artanh(1/3). -/
def ln2Fix (p : Nat) : Int := 2 * artanhFix p (2 ^ p / 3)

/-- Σ y^k/k!. -/
def expLoop (p y : Nat) : Nat → Nat → Nat → Nat → Nat
  | 0, _, _, acc => acc
  | n + 1, k, term, acc => expLoop p y n (k + 1) (term * y / 2 ^ p / k) (acc + term)
def expFix (p y : Nat) : Nat := expLoop p y (p + 2) 1 (2 ^ p) 0

/-- Σ ±y^(2k+i)/(2k+i)!, from the term given. -/
def trigLoop (p y2 : Nat) : Nat → Nat → Nat → Bool → Int → Int
  | 0, _, _, _, acc => acc
  | n + 1, k, term, neg, acc =>
    trigLoop p y2 n (k + 2) (term * y2 / 2 ^ p / (k * (k + 1))) (!neg) (if neg then acc - term else acc + term)
def sinFix (p y : Nat) : Int := trigLoop p (y * y / 2 ^ p) (p / 2 + 2) 2 y false 0
def cosFix (p y : Nat) : Int := trigLoop p (y * y / 2 ^ p) (p / 2 + 2) 1 (2 ^ p) false 0

/-! ## From bounds to a rounded result -/

/-- The errors of the sums above stay far below this many units. -/
def slack (p : Nat) : Int := 64 * p + 64

/-- A value known to be strictly positive and not representable, as v units of 2^e up to the slack: the code and flags
when both ends round alike. -/
def settle (f : FpFmt) (neg : Bool) (v : Int) (e : Int) (p : Nat) : Option (Nat × Fl) :=
  let lo := v - slack p
  let hi := v + slack p
  if lo ≤ 0 then none
  else
    let a := f.round .rne false neg lo.toNat e true
    let b := f.round .rne false neg hi.toNat e true
    if a = b then some a else none

/-- Try with more and more bits. -/
def ladder (try_ : Nat → Option (Nat × Fl)) : List Nat → Nat × Fl
  | [] => (0, 0)
  | p :: ps => match try_ p with
    | some r => r
    | none => ladder try_ ps
def precisions : List Nat := [96, 128, 192, 256, 384, 512, 768, 1024]

/-! ## The functions -/

/-- 2^x for x = m·2^e, not an integer: 2^n times exp(f ln 2) with 0 ≤ f < 1. -/
def exp2Try (f : FpFmt) (neg : Bool) (m : Nat) (e : Int) (p : Nat) : Option (Nat × Fl) :=
  -- x in units of 2^-p, rounded down; e is at least -149, so the bits below are within the slack
  let x : Int := if 0 ≤ e + p then m * 2 ^ (e + p).toNat else m / 2 ^ (-(e + p)).toNat
  let x := if neg then -x else x
  let n := x / (2 ^ p : Nat)
  let fr := (x % (2 ^ p : Nat)).toNat
  let y := fr * (ln2Fix p).toNat / 2 ^ p
  settle f false (expFix p y) (n - p) p

def fexp (a : Nat) : Nat × Fl :=
  let f := FpFmt.fp32
  match f.decode a with
  | .nan s q k => (f.ofNan s q, if k then 0 else Fl.invalid)
  | .inf s => (if s then 0 else f.infMag, 0)
  | .fin s m e =>
    let big := decide (2000 ≤ (if 0 ≤ e then m * 2 ^ e.toNat else m / 2 ^ (-e).toNat))
    if big then (if s then (0, Fl.underflow ||| Fl.inexact) else (f.infMag, Fl.overflow ||| Fl.inexact))
    else
      let (i, ix) := toIntegral .rz s m e
      if ix then ladder (exp2Try f s m e) precisions else f.round .rne false false 1 i false

/-- log₂ of m·2^e with m·2^e not a power of two: k + ln(u)/ln 2 with 1 < u < 2. -/
def log2Try (f : FpFmt) (m : Nat) (e : Int) (p : Nat) : Option (Nat × Fl) :=
  let b := bitLen m
  let k : Int := e + b - 1
  -- u = m / 2^(b-1); z = (u - 1)/(u + 1)
  let h := 2 ^ (b - 1)
  let z := (m - h) * 2 ^ p / (m + h)
  let ln := 2 * artanhFix p z
  let v := k * (2 ^ p : Nat) + ln * (2 ^ p : Nat) / ln2Fix p
  settle f (decide (v < 0)) v.natAbs (-p) p

def flog (a : Nat) : Nat × Fl :=
  let f := FpFmt.fp32
  match f.decode a with
  | .nan s q k => (f.ofNan s q, if k then 0 else Fl.invalid)
  | .inf s => if s then (f.canonical, Fl.invalid) else (f.infMag, 0)
  | .fin s m e =>
    if m = 0 then (f.signBit + f.infMag, Fl.divZero)
    else if s then (f.canonical, Fl.invalid)
    else if m = 2 ^ Nat.log2 m then
      let k : Int := e + Nat.log2 m
      f.round .rne false (decide (k < 0)) k.natAbs 0 false
    else ladder (log2Try f m e) precisions

/-- sin(πt) for 0 < t < 1/2, t = m·2^e: near 0 with as many more bits as t is small. -/
def sinpiTry (f : FpFmt) (neg : Bool) (m : Nat) (e : Int) (p : Nat) : Option (Nat × Fl) :=
  let small : Nat := (-(e + bitLen m)).toNat
  let w := p + small
  -- t in units of 2^-w
  let t : Nat := if 0 ≤ e + w then m * 2 ^ (e + w).toNat else m / 2 ^ (-(e + w)).toNat
  let y := t * (piFix w).toNat / 2 ^ w
  if 4 * t ≤ 2 ^ w then settle f neg (sinFix w y) (-(w : Int)) w
  else
    let c := (piFix w).toNat / 2 - y
    settle f neg (cosFix w c) (-(w : Int)) w

/-- sin(πr) for 0 ≤ r < 2, r = m·2^e exactly, with the sign of the result: zeros take the sign given. -/
def sinpiExact (f : FpFmt) (neg zeroNeg : Bool) (m : Nat) (e : Int) : Nat × Fl :=
  let sgn (n : Bool) := if n then f.signBit else 0
  -- in units of 2^e (e < 0 after scaling), one = 2^-e
  let e' : Int := min e (-1)
  let m := m * 2 ^ (e - e').toNat
  let one := 2 ^ (-e').toNat
  let (neg, m) := if m ≥ one then (!neg, m - one) else (neg, m)
  if m = 0 then (sgn zeroNeg, 0)
  else if 2 * m = one then f.round .rne false neg 1 0 false
  else
    let m := if 2 * m > one then one - m else m
    ladder (sinpiTry f neg m e') precisions

/-- x mod 2 of |x| = m·2^e. -/
def modTwo (m : Nat) (e : Int) : Nat × Int :=
  if 1 ≤ e then (0, 0) else (m % 2 ^ (1 - e).toNat, e)

/-- sin(πx) and cos(πx) of a finite x (05 Table 5.7): zeros of cosine are +0, of sine by the sign of x. -/
def sinpi (f : FpFmt) (s : Bool) (m : Nat) (e : Int) : Nat × Fl :=
  let (r, e) := modTwo m e
  sinpiExact f s s r e
def cospi (f : FpFmt) (m : Nat) (e : Int) : Nat × Fl :=
  -- cos(πx) = sin(π(x + 1/2))
  let (r, e) := modTwo m e
  let e' : Int := min e (-1)
  let (r, e) := modTwo (r * 2 ^ (e - e').toNat + 2 ^ (-1 - e').toNat) e'
  sinpiExact f false false r e

def trigOf (f : FpFmt) (cosine : Bool) (x : Fp) : Nat × Fl :=
  match x with
  | .nan s q k => (f.ofNan s q, if k then 0 else Fl.invalid)
  | .inf _ => (f.canonical, Fl.invalid)
  | .fin s m e => if cosine then cospi f m e else sinpi f s m e

/-- atan(y/x)/π for 0 < y < x (naturals): bits as the quotient is small. -/
def atanTurn (p y x : Nat) : Int × Nat :=
  let w := p + (bitLen x - bitLen y)
  let t :=
    if 5 * y ≤ 2 * x then atanFix w (y * 2 ^ w / x)
    else piFix w / 4 - atanFix w ((x - y) * 2 ^ w / (x + y))
  (t * (2 ^ w : Nat) / piFix w, w)

/-- |atan2(y, x)|/π for y > 0, x ≠ 0 and |x| ≠ y. -/
def atan2Try (f : FpFmt) (neg : Bool) (y x : Nat) (xneg : Bool) (p : Nat) : Option (Nat × Fl) :=
  if y < x then
    let (t, w) := atanTurn p y x
    settle f neg (if xneg then (2 ^ w : Nat) - t else t) (-(w : Int)) w
  else
    let (t, w) := atanTurn p x y
    settle f neg (if xneg then (2 ^ w : Nat) / 2 + t else (2 ^ w : Nat) / 2 - t) (-(w : Int)) w

/-- atan2(im, re)/π in (−1, 1] (05 R110, Table 5.7). -/
def argTurn (f : FpFmt) (re im : Fp) : Nat × Fl :=
  match nanOf f [re, im] with
  | some r => r
  | none =>
    let sgn := if im.sign then f.signBit else 0
    let one := f.round .rne false false 1 0 false
    let at_ (m : Nat) (e : Int) : Nat × Fl := f.round .rne false im.sign m e false
    match re, im with
    | .inf false, .inf _ => at_ 1 (-2)
    | .inf true, .inf _ => at_ 3 (-2)
    | .inf false, _ => (sgn, 0)
    | .inf true, _ => one
    | _, .inf _ => at_ 1 (-1)
    | .fin s m e, .fin _ n g =>
      if n = 0 then (if s then one else (sgn, 0))
      else if m = 0 then at_ 1 (-1)
      else
        let b := min e g
        let x := m * 2 ^ (e - b).toNat
        let y := n * 2 ^ (g - b).toNat
        if x = y then (if s then at_ 3 (-2) else at_ 1 (-2))
        else ladder (atan2Try f im.sign y x s) precisions
    | _, _ => (f.canonical, Fl.invalid)

/-! ## Roots and reciprocals -/

/-- 1/x (05 Table 5.7). -/
def frcp (a : Nat) : Nat × Fl :=
  let f := FpFmt.fp32
  match f.decode a with
  | .nan s q k => (f.ofNan s q, if k then 0 else Fl.invalid)
  | .inf s => (if s then f.signBit else 0, 0)
  | .fin s m e =>
    if m = 0 then ((if s then f.signBit else 0) + f.infMag, Fl.divZero)
    else
      let (q, e, st) := quotient 1 m (-e)
      f.round .rne false s q e st

/-- √x. -/
def fsqt (a : Nat) : Nat × Fl :=
  let f := FpFmt.fp32
  match f.decode a with
  | .nan s q k => (f.ofNan s q, if k then 0 else Fl.invalid)
  | .inf s => if s then (f.canonical, Fl.invalid) else (a, 0)
  | .fin s m e =>
    if m = 0 then (a, 0)
    else if s then (f.canonical, Fl.invalid)
    else
      let (r, e, st) := sqrtParts m e
      f.round .rne false false r e st

/-- 1/√x: the root of the reciprocal's quotient, with enough bits that what is left over decides. -/
def frsq (a : Nat) : Nat × Fl :=
  let f := FpFmt.fp32
  match f.decode a with
  | .nan s q k => (f.ofNan s q, if k then 0 else Fl.invalid)
  | .inf s => if s then (f.canonical, Fl.invalid) else (0, 0)
  | .fin s m e =>
    if m = 0 then ((if s then f.signBit else 0) + f.infMag, Fl.divZero)
    else if s then (f.canonical, Fl.invalid)
    else
      -- 1/√(m·2^e) = √(2^256/m)·2^((-e-256)/2), with e made even
      let (m, e) := if e % 2 = 0 then (m, e) else (2 * m, e - 1)
      let q := 2 ^ 256 / m
      let r := isqrt q
      f.round .rne false false r ((-e - 256) / 2) (r * r * m != 2 ^ 256)

/-! ## Twiddles (05 R111) -/

/-- cos(2πk/N) and σ·sin(2πk/N), each rounded once; zeros are +0. k and log₂ N. -/
def twiddle (f : FpFmt) (inv : Bool) (k lg : Nat) : (Nat × Fl) × (Nat × Fl) :=
  let t := k % 2 ^ lg
  -- 2πk/N = π·t·2^(1 - lg)
  let e : Int := 1 - (lg : Int)
  let c := cospi f t e
  let (r, e) := modTwo t e
  (c, sinpiExact f (!inv) false r e)

end Sys2Proof
end

