-- ==== Sys2Proof/Machine/Float.lean ====
section
/-! DEFINITION. The floating-point family: majors 0x30 to 0x3B (13 Table 13.5). -/

namespace Sys2Proof.Machine

open Sys2Proof

/-! ## Shapes -/

/-- Write a result and raise its flags (05 R95). -/
def Thread.deliver (t : Thread) (d : VReg) (r : Nat × Fl) : Thread := (t.setV d.toNat (BitVec.ofNat 32 r.1)).raise r.2

def binF (f : Nat → Nat → Nat × Fl) (d : VReg) (a b : Src7) (c : Crew) (_ : Nat) (t : Thread) : Thread :=
  t.deliver d (f (srcF c t a).toNat (srcF c t b).toNat)
def unF (f : Nat → Nat × Fl) (d : VReg) (a : Src7) (c : Crew) (_ : Nat) (t : Thread) : Thread :=
  t.deliver d (f (srcF c t a).toNat)

/-- Two elements, each formed by itself, the flags of both (15 R322). -/
def both (r0 r1 : Nat × Fl) : Nat × Fl := (r0.1 % 65536 + 65536 * (r1.1 % 65536), r0.2 ||| r1.2)
def lo16 (x : W32) : Nat := x.toNat % 65536
def hi16 (x : W32) : Nat := x.toNat / 65536
def binH (h : Half) (f : FpFmt → Nat → Nat → Nat × Fl) (d : VReg) (a b : Src7) (c : Crew) (_ : Nat) (t : Thread) : Thread :=
  let x := srcH h.fp c t a
  let y := srcH h.fp c t b
  t.deliver d (both (f h.fp (lo16 x) (lo16 y)) (f h.fp (hi16 x) (hi16 y)))
def fmaH (f : FpFmt) (d a b e : VReg) (_ : Crew) (_ : Nat) (t : Thread) : Thread :=
  let x := t.v a.toNat
  let y := t.v b.toNat
  let z := t.v e.toNat
  t.deliver d (both (f.fma (lo16 x) (lo16 y) (lo16 z)) (f.fma (hi16 x) (hi16 y) (hi16 z)))

/-! ## Classes (15 Table 15.6) -/

def fclass (x : Nat) : Nat :=
  match FpFmt.fp32.decode x with
  | .nan _ _ q => if q then 1 else 0
  | .inf s => if s then 2 else 9
  | .fin s m _ =>
    let sub := x % 0x80000000 < 0x800000
    if m = 0 then (if s then 5 else 6) else if s then (if sub then 4 else 3) else if sub then 7 else 8

/-! ## Meanings -/


/-- FADD (15 R312). -/
def execFadd (rm : Rm) (d : VReg) (a b : Src7) (s : State) : Host.Outcome State Fault Refusal :=
  s.each (binF (FpFmt.fp32.add rm) d a b)

/-- FSUB (15 R312). -/
def execFsub (rm : Rm) (d : VReg) (a b : Src7) (s : State) : Host.Outcome State Fault Refusal :=
  s.each (binF (FpFmt.fp32.sub rm) d a b)

/-- FMUL (15 R312). -/
def execFmul (rm : Rm) (d : VReg) (a b : Src7) (s : State) : Host.Outcome State Fault Refusal :=
  s.each (binF (FpFmt.fp32.mul rm) d a b)

/-- FDIV (15 R312). -/
def execFdiv (rm : Rm) (d : VReg) (a b : Src7) (s : State) : Host.Outcome State Fault Refusal :=
  s.each (binF (FpFmt.fp32.div rm) d a b)

/-- FMIN (15 R320). -/
def execFmin (d : VReg) (a b : Src7) (s : State) : Host.Outcome State Fault Refusal :=
  s.each (binF (FpFmt.fp32.minMax false) d a b)

/-- FMAX (15 R320). -/
def execFmax (d : VReg) (a b : Src7) (s : State) : Host.Outcome State Fault Refusal :=
  s.each (binF (FpFmt.fp32.minMax true) d a b)

/-- FCLS (15 R314). -/
def execFcls (d : VReg) (a : Src7) (s : State) : Host.Outcome State Fault Refusal :=
  s.each (unF (fun x => (2 ^ fclass x, 0)) d a)

/-- FRND (15 R321). -/
def execFrnd (rm : Rm) (d : VReg) (a : Src7) (s : State) : Host.Outcome State Fault Refusal :=
  s.each (unF (roundIntegral rm) d a)

/-- FCMP (15 R315). -/
def execFcmp (p : FPred) (comb : Comb) (k : CBit) (a b : Src7) (s : State) : Host.Outcome State Fault Refusal :=
  s.each fun c _ t =>
    let r := FpFmt.fp32.compare p (srcF c t a).toNat (srcF c t b).toNat
    (t.setC k.toNat (combine comb (t.c k.toNat) r.1)).raise r.2

/-- FRCP (15 R316). -/
def execFrcp (d : VReg) (a : Src7) (s : State) : Host.Outcome State Fault Refusal :=
  s.each (unF frcp d a)

/-- FRSQ (15 R316). -/
def execFrsq (d : VReg) (a : Src7) (s : State) : Host.Outcome State Fault Refusal :=
  s.each (unF frsq d a)

/-- FSQT (15 R316). -/
def execFsqt (d : VReg) (a : Src7) (s : State) : Host.Outcome State Fault Refusal :=
  s.each (unF fsqt d a)

/-- FEXP (15 R316). -/
def execFexp (d : VReg) (a : Src7) (s : State) : Host.Outcome State Fault Refusal :=
  s.each (unF fexp d a)

/-- FLOG (15 R316). -/
def execFlog (d : VReg) (a : Src7) (s : State) : Host.Outcome State Fault Refusal :=
  s.each (unF flog d a)

/-- FSPI (15 R316). -/
def execFspi (d : VReg) (a : Src7) (s : State) : Host.Outcome State Fault Refusal :=
  s.each (unF (fun x => trigOf FpFmt.fp32 false (FpFmt.fp32.decode x)) d a)

/-- FCPI (15 R316). -/
def execFcpi (d : VReg) (a : Src7) (s : State) : Host.Outcome State Fault Refusal :=
  s.each (unF (fun x => trigOf FpFmt.fp32 true (FpFmt.fp32.decode x)) d a)

/-- FFMA (15 R318). -/
def execFfma (d a b c : VReg) (s : State) : Host.Outcome State Fault Refusal :=
  s.each fun _ _ t =>
    t.deliver d (FpFmt.fp32.fma (t.v a.toNat).toNat (t.v b.toNat).toNat (t.v c.toNat).toNat)

/-- HADD2 (15 R322). -/
def execHadd2 (fmt : Half) (d : VReg) (a b : Src7) (s : State) : Host.Outcome State Fault Refusal :=
  s.each (binH fmt (fun f => f.add .rne) d a b)

/-- HSUB2 (15 R322). -/
def execHsub2 (fmt : Half) (d : VReg) (a b : Src7) (s : State) : Host.Outcome State Fault Refusal :=
  s.each (binH fmt (fun f => f.sub .rne) d a b)

/-- HMUL2 (15 R322). -/
def execHmul2 (fmt : Half) (d : VReg) (a b : Src7) (s : State) : Host.Outcome State Fault Refusal :=
  s.each (binH fmt (fun f => f.mul .rne) d a b)

/-- HMIN2 (15 R322). -/
def execHmin2 (fmt : Half) (d : VReg) (a b : Src7) (s : State) : Host.Outcome State Fault Refusal :=
  s.each (binH fmt (fun f => f.minMax false) d a b)

/-- HMAX2 (15 R322). -/
def execHmax2 (fmt : Half) (d : VReg) (a b : Src7) (s : State) : Host.Outcome State Fault Refusal :=
  s.each (binH fmt (fun f => f.minMax true) d a b)

/-- HFMA2.f16 (15 R324). -/
def execHfma2F16 (d a b c : VReg) (s : State) : Host.Outcome State Fault Refusal :=
  s.each (fmaH .fp16 d a b c)

/-- HFMA2.bf16 (15 R324). -/
def execHfma2Bf16 (d a b c : VReg) (s : State) : Host.Outcome State Fault Refusal :=
  s.each (fmaH .bf16 d a b c)

/-- HCMP2 (15 R323): element 0 to c(2k), then element 1 to c(2k + 1). -/
def execHcmp2 (p : FPred) (fmt : Half) (comb : Comb) (k : BitVec 2) (a b : Src7) (s : State) : Host.Outcome State Fault Refusal :=
  s.each fun c _ t =>
    let x := srcH fmt.fp c t a
    let y := srcH fmt.fp c t b
    let r0 := fmt.fp.compare p (lo16 x) (lo16 y)
    let r1 := fmt.fp.compare p (hi16 x) (hi16 y)
    let j := 2 * k.toNat
    ((t.setC j (combine comb (t.c j) r0.1)).setC (j + 1) (combine comb (t.c (j + 1)) r1.1)).raise (r0.2 ||| r1.2)

end Sys2Proof.Machine
end

