-- ==== Sys2Proof/Machine/Complex.lean ====
section
/-! DEFINITION. The complex and twiddle family: majors 0x40 to 0x46 (13 Table 13.5; 05 R109, R111). -/

namespace Sys2Proof.Machine

open Sys2Proof

/-! ## Complex values (05 R109) -/

/-- The codes of the real and the imaginary part. -/
structure Cx where
  re : Nat
  im : Nat
  deriving DecidableEq, Repr

def cxOfWord (w : W32) : Cx := ⟨lo16 w, hi16 w⟩
def cxOfPair (w : W64) : Cx := ⟨(W64.lo w).toNat, (W64.hi w).toNat⟩

/-- src7(e, C) or src7(e, Z), by the type. -/
def srcCx (ty : CType) (c : Crew) (t : Thread) (e : Src7) : Cx :=
  if ty = .fp32 then cxOfPair (srcZ c t e) else cxOfWord (srcC ty.fp c t e)
/-- The complex value at a window register. -/
def Thread.cx (t : Thread) (ty : CType) (n : VReg) : Cx :=
  if ty = .fp32 then cxOfPair (t.pair n.toNat) else cxOfWord (t.v n.toNat)
/-- Write a complex result: to V(D), or to pair(D) for fp32. -/
def Thread.setCx (t : Thread) (ty : CType) (n : VReg) (x : Cx) : Thread :=
  if ty = .fp32 then t.setPair n.toNat (W32.pair (BitVec.ofNat 32 x.re) (BitVec.ofNat 32 x.im))
  else t.setV n.toNat (BitVec.ofNat 32 (x.re % 65536 + 65536 * (x.im % 65536)))
/-- Write both parts and raise the flags of both. -/
def Thread.deliverCx (t : Thread) (ty : CType) (d : VReg) (re im : Nat × Fl) : Thread :=
  (t.setCx ty d ⟨re.1, im.1⟩).raise (re.2 ||| im.2)

/-! ## Operations -/

/-- A sum of two products and a third term, each component rounded once; the NaN order is that of the inputs given. -/
def cxComponent (f : FpFmt) (inputs : List Fp) (p q r : Res) : Nat × Fl :=
  f.deliver .rne false inputs ((p.add .rne q).add .rne r)

/-- a × b + c (05 R109). -/
def cxFma (f : FpFmt) (a b c : Cx) : (Nat × Fl) × (Nat × Fl) :=
  let ar := f.decode a.re
  let ai := f.decode a.im
  let br := f.decode b.re
  let bi := f.decode b.im
  let cr := f.decode c.re
  let ci := f.decode c.im
  (cxComponent f [ar, ai, br, bi, cr] (ar.mulRes br) (ai.mulRes bi).neg cr.res,
   cxComponent f [ar, ai, br, bi, ci] (ar.mulRes bi) (ai.mulRes br) ci.res)

/-- CMUL: c is +0 (05 R109). -/
def cxMul (f : FpFmt) (a b : Cx) : (Nat × Fl) × (Nat × Fl) := cxFma f a b ⟨0, 0⟩

def cxAdd (f : FpFmt) (a b : Cx) : (Nat × Fl) × (Nat × Fl) := (f.add .rne a.re b.re, f.add .rne a.im b.im)
def cxSub (f : FpFmt) (a b : Cx) : (Nat × Fl) × (Nat × Fl) := (f.sub .rne a.re b.re, f.sub .rne a.im b.im)

/-- A NaN code quieted; any other code as it is. -/
def quieted (f : FpFmt) (x : Nat) : Nat :=
  match f.decode x with
  | .nan s p _ => f.ofNan s p
  | _ => x
/-- A negation; a NaN keeps its sign (05 R96). -/
def flipSign (f : FpFmt) (x : Nat) : Nat :=
  match f.decode x with
  | .nan .. => x
  | _ => (x + f.signBit) % (2 * f.signBit)
def signalling (f : FpFmt) (x : Nat) : Bool := (f.decode x).isSignalling

/-- CROT (14 R299). -/
def cxRot (f : FpFmt) (a b : Cx) : (Nat × Fl) × (Nat × Fl) :=
  let inv : Fl := if signalling f a.re || signalling f a.im || signalling f b.re then Fl.invalid else 0
  match f.decode b.re with
  | .nan s p _ => ((f.ofNan s p, inv), (f.ofNan s p, inv))
  | .inf _ => ((f.canonical, Fl.invalid), (f.canonical, Fl.invalid))
  | .fin s m e =>
    let n := (toIntegral .rne s m e).1 % 4
    let z : Cx := if n = 0 then a else if n = 1 then ⟨flipSign f a.im, a.re⟩
      else if n = 2 then ⟨flipSign f a.re, flipSign f a.im⟩ else ⟨a.im, flipSign f a.re⟩
    ((quieted f z.re, inv), (quieted f z.im, inv))

/-- CMAG (14 R301). -/
def cxMag (f : FpFmt) (a : Cx) : Nat × Fl :=
  let x := f.decode a.re
  let y := f.decode a.im
  match x, y with
  | .inf _, _ | _, .inf _ => (f.infMag, if x.isSignalling || y.isSignalling then Fl.invalid else 0)
  | .fin _ m e, .fin _ n k =>
    let q := (Ex.add .rne ⟨false, m * m, 2 * e⟩ ⟨false, n * n, 2 * k⟩)
    if q.m = 0 then (0, 0)
    else
      let (r, e, st) := sqrtParts q.m q.e
      f.round .rne false false r e st
  | _, _ => (nanOf f [x, y]).getD (f.canonical, 0)

/-- CARG (14 R301). -/
def cxArg (f : FpFmt) (a : Cx) : Nat × Fl :=
  let x := f.decode a.re
  let y := f.decode a.im
  match nanOf f [x, y] with
  | some r => r
  | none => argTurn f x y

/-- CEXI (14 R301): the cosine and the sine of π·ar; a NaN goes to both parts. -/
def cxExi (f : FpFmt) (a : Cx) : (Nat × Fl) × (Nat × Fl) :=
  let x := f.decode a.re
  (trigOf f true x, trigOf f false x)

/-! ## Shapes -/

def binCx (op : FpFmt → Cx → Cx → (Nat × Fl) × (Nat × Fl)) (ty : CType) (d : VReg) (a b : Src7) (c : Crew) (_ : Nat)
    (t : Thread) : Thread :=
  let r := op ty.fp (srcCx ty c t a) (srcCx ty c t b)
  t.deliverCx ty d r.1 r.2
def unCx (op : FpFmt → Cx → (Nat × Fl) × (Nat × Fl)) (ty : CType) (d : VReg) (a : Src7) (c : Crew) (_ : Nat)
    (t : Thread) : Thread :=
  let r := op ty.fp (srcCx ty c t a)
  t.deliverCx ty d r.1 r.2
def fmaCx (ty : CType) (d a b e : VReg) (_ : Crew) (_ : Nat) (t : Thread) : Thread :=
  let r := cxFma ty.fp (t.cx ty a) (t.cx ty b) (t.cx ty e)
  t.deliverCx ty d r.1 r.2

/-! ## Meanings -/

/-- CADD (14 R299). -/
def execCadd (ty : CType) (d : VReg) (a b : Src7) (s : State) : Host.Outcome State Fault Refusal :=
  s.each (binCx cxAdd ty d a b)
/-- CSUB (14 R299). -/
def execCsub (ty : CType) (d : VReg) (a b : Src7) (s : State) : Host.Outcome State Fault Refusal :=
  s.each (binCx cxSub ty d a b)
/-- CMUL (14 R299). -/
def execCmul (ty : CType) (d : VReg) (a b : Src7) (s : State) : Host.Outcome State Fault Refusal :=
  s.each (binCx cxMul ty d a b)
/-- CMAG (14 R301). -/
def execCmag (ty : CType) (d : VReg) (a : Src7) (s : State) : Host.Outcome State Fault Refusal :=
  s.each (unCx (fun f x => (cxMag f x, (0, 0))) ty d a)
/-- CARG (14 R301). -/
def execCarg (ty : CType) (d : VReg) (a : Src7) (s : State) : Host.Outcome State Fault Refusal :=
  s.each (unCx (fun f x => (cxArg f x, (0, 0))) ty d a)
/-- CEXI (14 R301). -/
def execCexi (ty : CType) (d : VReg) (a : Src7) (s : State) : Host.Outcome State Fault Refusal :=
  s.each (unCx cxExi ty d a)
/-- CROT (14 R299). -/
def execCrot (ty : CType) (d : VReg) (a b : Src7) (s : State) : Host.Outcome State Fault Refusal :=
  s.each (binCx cxRot ty d a b)
/-- CFMA.fp16 (14 R304). -/
def execCfmaFp16 (d a b c : VReg) (s : State) : Host.Outcome State Fault Refusal := s.each (fmaCx .fp16 d a b c)
/-- CFMA.bf16 (14 R304). -/
def execCfmaBf16 (d a b c : VReg) (s : State) : Host.Outcome State Fault Refusal := s.each (fmaCx .bf16 d a b c)
/-- CFMA.fp32 (14 R304). -/
def execCfmaFp32 (d a b c : VReg) (s : State) : Host.Outcome State Fault Refusal := s.each (fmaCx .fp32 d a b c)

/-- TWID (17 R381): raises inexact and no other flag. -/
def execTwid (ty : CType) (inv : Bool) (d : VReg) (a : Src7) (log2n : BitVec 5) (s : State) :
    Host.Outcome State Fault Refusal :=
  s.each fun c _ t =>
    let r := twiddle ty.fp inv (srcI c t a).toNat log2n.toNat
    t.deliverCx ty d (r.1.1, r.1.2 &&& Fl.inexact) (r.2.1, r.2.2 &&& Fl.inexact)

end Sys2Proof.Machine
end

