-- ==== Sys2Proof/Machine/Control.lean ====
section
/-! DEFINITION. Branches, calls and returns (04 R78 to R84; 14 R292, R297, R300; 17 R364), MOVS and MOVT (04 R76, R77;
16 R341), and the other system and control instructions of a thread: NOP, TRAP, BRK, ERET, YIELD, NAP, with the ends of
the waits of the last two. -/

namespace Sys2Proof.Machine

open Sys2Proof

/-- The condition of BC, CALLC and RETC is met (04 R78). -/
def condMet (t : Thread) (k : CBit) (inv : Bool) : Bool := t.c k.toNat != inv

/-- PC + 4 × off, modulo 2^64. -/
def Thread.target (t : Thread) (off : BitVec n) : W64 := t.pc + 4 * off.signExtend 64

/-! ## Branches -/

/-- BRA: a backward branch clears the tag (02 R28). -/
def braThread (off : BitVec 19) (t : Thread) : Thread :=
  { t with pc := t.target off, tag := t.tag && !off.msb }
/-- BRA (14 R292). -/
def execBra (off : BitVec 19) (s : State) : Host.Outcome State Fault Refusal :=
  .next (s.inOrder fun s tid => s.modThread s.cur.place tid (braThread off))

/-- BC in one thread, of a group that resolved apart or alike: tags by the hint (02 R27), or cleared by a backward branch
that is taken (02 R28). -/
def bcThread (k : CBit) (inv hint : Bool) (off : BitVec 19) (apart : Bool) (t : Thread) : Thread :=
  let taken := condMet t k inv
  { t with
    pc := if taken then t.target off else t.pc + 4
    tag := if apart then taken != hint else t.tag && !(taken && off.msb) }

/-- The threads of the group resolve to different targets. -/
def State.apart (s : State) (k : CBit) (inv : Bool) (off : BitVec 19) : Bool :=
  match s.crew? s.cur.place with
  | none => false
  | some c =>
    let ts := s.cur.tids.filterMap fun i => (c.threads[i]?).map fun t => condMet t k inv
    ts.contains true && ts.contains false && off != 1

/-- BC (14 R292). -/
def execBc (k : CBit) (inv hint : Bool) (off : BitVec 19) (s : State) : Host.Outcome State Fault Refusal :=
  let apart := s.apart k inv off
  .next (s.inOrder fun s tid => s.modThread s.cur.place tid (bcThread k inv hint off apart))

/-- BRI (14 R297). -/
def execBri (a : Src7) (s : State) : Host.Outcome State Fault Refusal :=
  .next (s.inOrder fun s tid => s.withThread tid fun c _ => s.modThread s.cur.place tid fun t => { t with pc := srcA c t a })

/-! ## Calls and returns -/

/-- A call of one thread: room for the entry, the slide, then the push and the branch (04 R83, 14 R300). -/
def State.callTo (s : State) (tid w : Nat) (target : W64) : State :=
  s.withThread tid fun c t =>
    let p := s.cur.place
    let bs := s.backing c tid
    match s.makeRoom p tid bs with
    | (some x, s) => s.stopped p tid x (some s.cur.word)
    | (none, s) => match s.slide p tid bs (t.fb.toNat + w) with
      | (some x, s) => s.stopped p tid x (some s.cur.word)
      | (none, s) => s.modThread p tid fun u =>
          { u with rstack := ⟨t.pc + 4, t.fb, .call⟩ :: u.rstack, rsd := u.rsd + 1, pc := target }

/-- CALL (14 R300). The backing-store accesses of the threads of one group come in ascending tid, each thread's together,
of the orders that 02 R26 leaves open, for CALLC, RET, ERET and trap entries too (DESIGN CHOICE, log 81). -/
def execCall (w : BitVec 6) (off : BitVec 18) (s : State) : Host.Outcome State Fault Refusal :=
  .next (s.inOrder fun s tid => s.withThread tid fun _ t => s.callTo tid w.toNat (t.target off))
/-- CALLC (14 R300). -/
def execCallc (w : BitVec 6) (k : CBit) (inv : Bool) (off : BitVec 14) (s : State) : Host.Outcome State Fault Refusal :=
  .next (s.inOrder fun s tid => s.withThread tid fun _ t =>
    if condMet t k inv then s.callTo tid w.toNat (t.target off) else s.finish tid)
/-- CALLI (14 R300). -/
def execCalli (w : BitVec 6) (y : VReg) (s : State) : Host.Outcome State Fault Refusal :=
  .next (s.inOrder fun s tid => s.withThread tid fun _ t => s.callTo tid w.toNat (t.pair y.toNat))

/-- A return of one thread (17 R364). -/
def State.returnFrom (s : State) (tid : Nat) : State :=
  s.withThread tid fun c _ =>
    let p := s.cur.place
    let bs := s.backing c tid
    match s.topEntry p tid bs with
    | (.error x, s) => s.stopped p tid x (some s.cur.word)
    | (.ok (some ⟨pc, fb, .call⟩), s) => match s.slide p tid bs fb.toNat with
      | (some x, s) => s.stopped p tid x (some s.cur.word)
      | (none, s) => s.modThread p tid fun u => { popEntry u with pc }
    | (.ok _, s) => s.raise tid .returnUnderflow

/-- RET (17 R364). -/
def execRet (s : State) : Host.Outcome State Fault Refusal := .next (s.inOrder State.returnFrom)
/-- RETC (17 R364). -/
def execRetc (k : CBit) (inv : Bool) (s : State) : Host.Outcome State Fault Refusal :=
  .next (s.inOrder fun s tid => s.withThread tid fun _ t => if condMet t k inv then s.returnFrom tid else s.finish tid)

/-- ERET (04 R88, 15 R310): at the base of the return PC, or at the word after it. -/
def execEret (next : Bool) (s : State) : Host.Outcome State Fault Refusal := .next (s.inOrder fun s tid => s.leave tid next)

/-! ## Special registers -/

/-- MOVS (04 R77). -/
def execMovs (d : VReg) (r : SysReg) (s : State) : Host.Outcome State Fault Refusal :=
  s.each fun c i t => let x := sysRead s c i t r
    x.2.setV d.toNat x.1

/-- One thread of MOVT: sys.fpf is the thread's, sys.fp4x the crew's (04 Table 4.2). -/
def State.movtThread (r : SysRegRW) (a : Src7) (s : State) (tid : Nat) : State :=
  s.withThread tid fun c t =>
    let x := srcI c t a
    (match r with
      | .fpf => s.modThread s.cur.place tid fun t => { t with fpf := x.setWidth 5 }
      | .fp4x => s.modCrew s.cur.place fun c => { c with fp4x := x.setWidth 16 }).finish tid
/-- MOVT (04 R77): in ascending tid, so that the highest writer of sys.fp4x stays. -/
def execMovt (r : SysRegRW) (a : Src7) (s : State) : Host.Outcome State Fault Refusal := .next (s.inOrder (State.movtThread r a))

/-! ## Traps, breakpoints and waits -/

/-- NOP. -/
def execNop (s : State) : Host.Outcome State Fault Refusal := s.each fun _ _ t => t
/-- TRAP (17 R379): its code stands in the word, which sys.eword holds. -/
def execTrap (_code : W16) (s : State) : Host.Outcome State Fault Refusal :=
  .next (s.inOrder fun s tid => s.raise tid .softwareTrap)
/-- BRK (14 R298). -/
def execBrk (_code : W16) (s : State) : Host.Outcome State Fault Refusal :=
  .next (s.inOrder fun s tid => s.raise tid .breakpoint)

/-- YIELD (17 R389): not ready for 256 cycles; the PC advances now. -/
def execYield (s : State) : Host.Outcome State Fault Refusal :=
  .next (s.inOrder fun s tid =>
    (s.finish tid).park s.cur.place tid (.yield ((s.die s.cur.place.die).clk + 256)))
/-- YIELD_EXPIRY. -/
def execYieldExpiry (t : ThreadAt) (s : State) : Host.Outcome State Fault Refusal :=
  match (s.thread? t.crew t.tid).map Thread.wait with
  | some (.yield n) => .next (if n ≤ (s.die t.crew.die).clk then s.modThread t.crew t.tid retry else s)
  | _ => .next s

/-- One thread of NAP (16 R345). -/
def State.napThread (a : Src7) (mask : BitVec 3) (s : State) (tid : Nat) : State :=
  s.withThread tid fun c t =>
    let n := (srcI c t a).toNat
    if n = 0 then s.finish tid else s.park s.cur.place tid (.nap (s.ns + n) mask)
/-- NAP (16 R345). -/
def execNap (a : Src7) (mask : BitVec 3) (s : State) : Host.Outcome State Fault Refusal := .next (s.inOrder (State.napThread a mask))
/-- NAP_TIMEOUT (16 R345): the deadline has come. -/
def execNapTimeout (t : ThreadAt) (s : State) : Host.Outcome State Fault Refusal :=
  match (s.thread? t.crew t.tid).map Thread.wait with
  | some (.nap deadline _) => .next (if deadline ≤ s.ns then s.modThread t.crew t.tid napEnd else s)
  | _ => .next s

end Sys2Proof.Machine
end

