-- ==== Sys2Proof/Machine/Drain.lean ====
section
/-! DEFINITION. The drain of a tile: the descriptor of 09 Table 9.5, and the steps of 09 R202 on one element. -/

namespace Sys2Proof.Machine

open Sys2Proof

/-- dfmt's format. -/
def DrainDesc.fmt (d : DrainDesc) : Fmt := (Fmt.ofCode d.dfmt).getD .i32
def DrainDesc.rfp (d : DrainDesc) : FpFmt := match d.rfmt with
  | 6 => .fp32
  | 7 => .fp16
  | _ => .bf16
def DrainDesc.rsize (d : DrainDesc) : Nat := if d.rfmt = 6 then 4 else 2
/-- Bytes of an output row. -/
def DrainDesc.rowBytes (d : DrainDesc) : Nat := 64 * d.fmt.width / 8

/-- An element of a tile as FA48: an I48Q2 element stands for a quarter of it (09 R202). -/
def tileFa48 (i48q2 : Bool) (x : W48) : W48 :=
  if i48q2 then fa48Of (.val ⟨decide (x.toInt < 0), x.toInt.natAbs, -2⟩) else x

def fa48Add2 (a b : W48) : W48 := BitVec.ofNat 48 (FpFmt.fa48.add .rne a.toNat b.toNat).1
def fa48Sub2 (a b : W48) : W48 := BitVec.ofNat 48 (FpFmt.fa48.sub .rne a.toNat b.toNat).1
def fa48Mul2 (a b : W48) : W48 := BitVec.ofNat 48 (FpFmt.fa48.mul .rne a.toNat b.toNat).1
/-- An FP32 value in FA48, exact. -/
def fa48OfFp32 (x : W32) : W48 := fa48OfFp (FpFmt.fp32.decode x.toNat)

/-- Step 1. -/
def guide (g : W32) (u c : W48) : W48 := fa48Add2 u (fa48Mul2 (fa48OfFp32 g) (fa48Sub2 c u))

/-- Steps 2 to 4 on element e, with its residual code. -/
def DrainDesc.value (d : DrainDesc) (e r : Nat) (v : W48) : W48 :=
  let v := if d.residual then fa48Add2 v (fa48OfFp (d.rfp.decode r)) else v
  let v := if d.dropout then
      (if cg64 d.key (d.row0 + BitVec.ofNat 32 (e / 64)) (d.col0 + BitVec.ofNat 32 (e % 64)) d.stream ≥ d.thresh then
        fa48Mul2 v (fa48OfFp32 d.keep) else 0)
    else v
  if d.scaled then fa48Mul2 v (fa48OfFp32 d.scale) else v

/-- Step 5: the code of an output element. -/
def DrainDesc.code (d : DrainDesc) (v : W48) : Nat :=
  (d.fmt.encode d.rnd d.sat (.fp (FpFmt.fa48.decode v.toNat))).1

/-- Step 6 on one more element: the BF16 code of the greatest magnitude, NaNs left out, rounded up. -/
def amaxStep (m : Nat) (v : W48) : Nat :=
  match FpFmt.fa48.decode v.toNat with
  | .nan .. => m
  | .inf _ => 0x7F80
  | .fin _ x e => max m (FpFmt.bf16.round .rup false false x e false).1

/-- The fields of the descriptor's 64 bytes. -/
def DrainDesc.ofBytes (l : List W8) : DrainDesc :=
  let dmode := fieldAt l 7 1
  let flags := fieldAt l 8 2
  let bit (k : Nat) : Bool := flags / 2 ^ k % 2 = 1
  { dst := fieldAt l 0 4, pitch := fieldAt l 4 2, dfmt := fieldAt l 6 1, rnd := (Rm.ofCode (dmode % 4)).getD .rne
    sat := dmode / 4 % 2 = 1, guided := bit 0, residual := bit 1, dropout := bit 2, scaled := bit 3, amaxOn := bit 4
    release := bit 5, scope := (Scope.ofCode (flags / 64 % 8)).getD .crew, rfmt := fieldAt l 0xA 1
    resid := fieldAt l 0xC 4, barrier := BitVec.ofNat 32 (fieldAt l 0x10 4), scale := BitVec.ofNat 32 (fieldAt l 0x14 4)
    key := BitVec.ofNat 64 (fieldAt l 0x18 8), row0 := BitVec.ofNat 32 (fieldAt l 0x20 4)
    col0 := BitVec.ofNat 32 (fieldAt l 0x24 4), stream := BitVec.ofNat 32 (fieldAt l 0x28 4)
    thresh := BitVec.ofNat 32 (fieldAt l 0x2C 4), g := BitVec.ofNat 32 (fieldAt l 0x30 4)
    keep := BitVec.ofNat 32 (fieldAt l 0x34 4), amax := fieldAt l 0x38 8 }

/-- The malformed descriptors of 09 R201, for a crew of a paired stage or not. -/
def drainMalformed (l : List W8) (paired : Bool) : Bool :=
  let d := DrainDesc.ofBytes l
  let dmode := fieldAt l 7 1
  let flags := fieldAt l 8 2
  let halfStep := d.dfmt = 12 ∨ d.dfmt = 13
  let size := max 1 (d.fmt.width / 8)
  decide (fieldAt l 0xB 1 ≠ 0 ∨ dmode ≥ 8 ∨ flags ≥ 512 ∨ flags / 64 % 8 > 4 ∨ d.dfmt > 13 ∨ (halfStep ∧ dmode % 4 ≠ 0)
    ∨ (d.guided ∧ !paired) ∨ d.barrier.toNat % 16 ≠ 0 ∨ d.dst % size ≠ 0 ∨ d.pitch % 4 ≠ 0 ∨ d.pitch < d.rowBytes
    ∨ (d.residual ∧ (d.rfmt < 6 ∨ d.rfmt > 8 ∨ d.resid % d.rsize ≠ 0)) ∨ (d.amaxOn ∧ d.amax % 2 ≠ 0))

end Sys2Proof.Machine
end

