-- ==== Sys2Proof/Machine/Codec.lean ====
section
/-! DEFINITION. Compressed buffers: the header, index and block map (06 R144, Table 6.7), the block streams (06 R146 to
R148), and a buffer built from its source (10 R209). -/

namespace Sys2Proof.Machine

open Sys2Proof

/-! ## Streams -/

/-- Extension bytes: each adds its value, and one of 255 is followed by another (06 R146). -/
def extension : List W8 → Nat → Option (Nat × List W8)
  | [], _ => none
  | b :: t, n => if b = 255 then extension t (n + 255) else some (n + b.toNat, t)
/-- A length field with its extension bytes when it is at its top. -/
def lengthField (field top : Nat) (l : List W8) : Option (Nat × List W8) :=
  if field = top then extension l top else some (field, l)

/-- n bytes from `off` back, one at a time, onto a reversed output. -/
def copyBack (off : Nat) : Nat → List W8 → List W8
  | 0, out => out
  | n + 1, out => copyBack off n (out.getD (off - 1) 0 :: out)

/-- A backref stream (06 R146); the output is kept reversed. -/
def backref (len : Nat) : Nat → List W8 → List W8 → Option (List W8)
  | 0, _, _ => none
  | _ + 1, [], _ => none
  | fuel + 1, tok :: l, out =>
    match lengthField (tok.toNat / 32) 7 l with
    | none => none
    | some (lit, l) =>
      if l.length < lit ∨ len < out.length + lit then none
      else
        let out := (l.take lit).reverse ++ out
        let l := l.drop lit
        if out.length = len then (if tok.toNat % 32 = 0 ∧ l = [] then some out.reverse else none)
        else
          let off := (le16 l).toNat
          if l.length < 2 ∨ off = 0 ∨ out.length < off then none
          else match lengthField (tok.toNat % 32) 31 (l.drop 2) with
            | none => none
            | some (m, l) => if len < out.length + m + 3 then none else backref len fuel l (copyBack off (m + 3) out)

/-- A zerorun stream (06 R147). -/
def zerorun (len : Nat) : Nat → List W8 → List W8 → Option (List W8)
  | 0, _, _ => none
  | _ + 1, [], out => if out.length = len then some out.reverse else none
  | fuel + 1, k :: l, out =>
    let n := k.toNat % 128 + 1
    if len < out.length + n then none
    else if k.toNat < 128 then
      if l.length < n then none else zerorun len fuel (l.drop n) ((l.take n).reverse ++ out)
    else zerorun len fuel l (zeros n ++ out)

/-- An unsigned LEB128 value of at most n bytes. -/
def leb128 : Nat → List W8 → Option (Nat × List W8)
  | 0, _ => none
  | _ + 1, [] => none
  | n + 1, b :: l =>
    if b.toNat < 128 then some (b.toNat, l)
    else match leb128 n l with
      | none => none
      | some (v, l) => some (b.toNat - 128 + 128 * v, l)
def unzigzag (v : Nat) : Int := if v % 2 = 0 then (v / 2 : Nat) else -((v / 2 : Nat) : Int) - 1
def zigzag (d : Int) : Nat := if 0 ≤ d then 2 * d.toNat else 2 * (-d).toNat - 1

/-- The words after the first of a fielddelta stream (06 R148). -/
def deltaWords : Nat → W32 → List W8 → List W8 → Option (List W8 × List W8)
  | 0, _, l, out => some (out, l)
  | n + 1, prev, l, out => match leb128 5 l with
    | none => none
    | some (v, l) =>
      let w := prev + BitVec.ofInt 32 (unzigzag v)
      deltaWords n w l ((bytes32 w).reverse ++ out)
def fielddelta (len : Nat) (l : List W8) : Option (List W8) :=
  let words := len / 4
  let start : Option (List W8 × List W8) :=
    if words = 0 then some ([], l)
    else if l.length < 4 then none
    else deltaWords (words - 1) (le32 l) (l.drop 4) (l.take 4).reverse
  match start with
  | none => none
  | some (out, l) => if l.length = len % 4 then some (out.reverse ++ l) else none

/-- The block of a length that a stream expands to, for an algorithm code of Table 6.7. -/
def expandBlock (algo len : Nat) (l : List W8) : Option (List W8) :=
  match algo with
  | 0 => if l.length = len then some l else none
  | 1 => backref len (l.length + 1) l []
  | 2 => zerorun len (l.length + 1) l []
  | _ => fielddelta len l

/-! ## The header and the index (06 R144) -/

structure CHeader where
  algo : Nat
  ulen : Nat
  nblocks : Nat
  /-- offset of the block map; 0 for none -/
  mapoff : Nat
  idxoff : Nat
  deriving DecidableEq, Repr

/-- The header in its 64 bytes; none when it is malformed. -/
def cHeader (l : List W8) : Option CHeader :=
  let algo := fieldAt l 5 1
  let point := fieldAt l 7 1
  let ulen := fieldAt l 8 8
  let nblocks := fieldAt l 0x10 4
  let mapoff := fieldAt l 0x14 4
  let idxoff := fieldAt l 0x18 4
  let hasMap := point / 4 % 2 = 1
  if fieldAt l 0 4 = 0x4342564F ∧ fieldAt l 4 1 = 1 ∧ algo ≤ 3 ∧ fieldAt l 6 1 = 0 ∧ point < 8 ∧ 1 ≤ ulen
      ∧ ulen ≤ 2 ^ 40 ∧ nblocks = ceilDiv ulen 4096 ∧ idxoff % 8 = 0 ∧ (l.drop 0x1C).all (fun b => b = 0)
      ∧ (if hasMap then 64 ≤ mapoff else mapoff = 0) then
    some ⟨algo, ulen, nblocks, mapoff, idxoff⟩
  else none

/-- The entries of the index rise, and none is above 2^56 − 1. -/
def risingIndex : List Nat → Bool
  | [] => true
  | [a] => decide (a < 2 ^ 56)
  | a :: b :: t => decide (a < 2 ^ 56) && decide (a < b) && risingIndex (b :: t)

/-- The expanded length of block i. -/
def blockLen (ulen i : Nat) : Nat := min 4096 (ulen - 4096 * i)

/-! ## A buffer built from its source (10 R209) -/

/-- Runs of at most 128 literal bytes. -/
def zerorunOf : Nat → List W8 → List W8
  | 0, _ => []
  | fuel + 1, l => if l = [] then [] else
    BitVec.ofNat 8 (min l.length 128 - 1) :: l.take 128 ++ zerorunOf fuel (l.drop 128)
def extensionOf : Nat → Nat → List W8
  | 0, _ => []
  | fuel + 1, n => if n < 255 then [BitVec.ofNat 8 n] else 255 :: extensionOf fuel (n - 255)
def lebOf : Nat → Nat → List W8
  | 0, _ => []
  | fuel + 1, n => if n < 128 then [BitVec.ofNat 8 n] else BitVec.ofNat 8 (n % 128 + 128) :: lebOf fuel (n / 128)
def deltasOf : Nat → W32 → List W8 → List W8
  | 0, _, l => l
  | n + 1, prev, l => lebOf 5 (zigzag ((le32 l) - prev).toInt) ++ deltasOf n (le32 l) (l.drop 4)

/-- A stream of literals alone, or of plain deltas, that expands to the block. -/
def plainStream (algo : Nat) (l : List W8) : List W8 :=
  match algo with
  | 0 => l
  | 1 => if l.length < 7 then BitVec.ofNat 8 (32 * l.length) :: l
         else 0xE0 :: extensionOf (l.length / 255 + 1) (l.length - 7) ++ l
  | 2 => zerorunOf l.length l
  | _ => if l.length < 4 then l else l.take 4 ++ deltasOf (l.length / 4 - 1) (le32 l) (l.drop 4)

/-- A fielddelta stream of free bytes that is well formed: a first word, deltas of one byte, and the bytes after the last
word. -/
def freeDeltas (draw len : Nat) : List W8 :=
  let b := Config.freeByte draw
  (List.range 4).map b ++ ((List.range (len / 4 - 1)).map fun i => b (4 + i) &&& 0x7F)
    ++ (List.range (len % 4)).map fun i => b (len + i)

/-- The stream of a block: any that expands exactly to it, of at most 4,128 bytes (10 R209): the one drawn where it is
one, else a plain one. A block of large deltas has no fielddelta stream so short: the spec states no result, but that the
stream is well formed (06 R149), and a free stream that is so stands for it (DESIGN CHOICE, log 84). -/
def streamFor (draw algo : Nat) (block : List W8) : List W8 :=
  let x := Config.stream draw algo block
  let y := plainStream algo block
  if x.length ≤ 4128 ∧ expandBlock algo block.length x = some block then x
  else if y.length ≤ 4128 then y
  else if x.length ≤ 4128 ∧ (expandBlock algo block.length x).isSome then x
  else freeDeltas draw block.length

def blocksOf : Nat → List W8 → List (List W8)
  | 0, _ => []
  | n + 1, l => l.take 4096 :: blocksOf n (l.drop 4096)

/-- Running sums of lengths from an offset: the index. -/
def indexOf : Nat → List (List W8) → List Nat
  | a, [] => [a]
  | a, x :: t => a :: indexOf (a + x.length) t

/-- The bytes that compress writes, by offset from dst: header with map, index with streams (10 R209). The bytes between the
map and the index are left unwritten, and the map's bits past the last block are 0 (DESIGN CHOICE, log 86). -/
def compressed (draw : Nat) (xarg : W32) (src : List W8) : List (Nat × List W8) :=
  let algo := xarg.toNat % 16
  let point := xarg.toNat / 16 % 4
  let nb := ceilDiv src.length 4096
  let mapLen := ceilDiv nb 4
  let idxoff := ceilDiv (64 + mapLen) 8 * 8
  let ss := ((blocksOf nb src).zipIdx draw).map fun x => streamFor x.2 algo x.1
  let start := idxoff + 8 * (nb + 1)
  let head := bytes32 0x4342564F ++ [1, BitVec.ofNat 8 algo, 0, BitVec.ofNat 8 (point + 4)] ++ leBytes 8 src.length
    ++ leBytes 4 nb ++ leBytes 4 64 ++ leBytes 4 idxoff ++ zeros 36
  let mark (i : Nat) : Nat := (List.range 4).foldl (fun a k => if 4 * i + k < nb then a + point * 4 ^ k else a) 0
  let map := (List.range mapLen).map fun i => BitVec.ofNat 8 (mark i)
  [(0, head ++ map), (idxoff, (indexOf start ss).flatMap (leBytes 8) ++ ss.flatten)]

end Sys2Proof.Machine
end

