-- ==== Sys2Proof/Machine/Engine.lean ====
section
/-! DEFINITION. Engine transfers: barrier objects (10 R215, R216), fill-tracking (06 R125), the checks of a sector
(07 R154, 08 R179, 10 R213), the places of reads and writes in the store order (07 R156, R157), guards (10 R220), and
the end of a transfer (10 R213, R214). -/

namespace Sys2Proof.Machine

open Sys2Proof

/-! ## Barrier objects -/

/-- 10 Table 10.5. -/
structure Barrier where
  pending : Nat
  phase : Bool
  error : Bool
  expected : Nat
  arrived : Nat
  deriving DecidableEq, Repr

def Barrier.ofBytes (l : List W8) : Barrier :=
  ⟨fieldAt l 0 7, (l.getD 7 0).getLsbD 0, (l.getD 7 0).getLsbD 1, fieldAt l 8 4, fieldAt l 12 4⟩
def Barrier.toBytes (o : Barrier) : List W8 :=
  leBytes 7 o.pending ++ [BitVec.ofNat 8 (o.phase.toNat + 2 * o.error.toNat)] ++ leBytes 4 o.expected ++ leBytes 4 o.arrived

/-! 10 R216. -/
def Barrier.complete (o : Barrier) : Barrier :=
  if o.pending = 0 ∧ o.arrived = o.expected ∧ o.expected ≠ 0 then { o with phase := !o.phase, arrived := 0 } else o
def Barrier.arrive (n : Nat) (o : Barrier) : Barrier :=
  let o := if o.arrived ≥ o.expected then { o with error := true } else { o with arrived := o.arrived + 1 }
  let o := if o.pending + n > 2 ^ 56 - 1 then { o with error := true, pending := 0 } else { o with pending := o.pending + n }
  o.complete
def Barrier.land (tag : Bool) (k : Nat) (o : Barrier) : Barrier :=
  if tag = o.phase then { o with pending := o.pending - k }.complete else o
/-- 10 R214. -/
def Barrier.abort (tag : Bool) (o : Barrier) : Barrier :=
  let o := if tag = o.phase then { o with pending := 0, arrived := 0, phase := !o.phase } else o
  { o with error := true }

def State.barrier (s : State) (c : Crew) (b : Nat) : Barrier := Barrier.ofBytes (s.localBytes c b 16)

/-- Why an object at a local address cannot be read and written: its range's check, or an uncorrectable error in it (06
R120, 11 R236). -/
def State.barrierBad (s : State) (c : Crew) (b : Nat) : Option Bad :=
  match s.checkLocal c b 16 16 with
  | some x => some x
  | none => if s.localDamaged c b 16 then some (Bad.local_ .memoryUncorrectable b) else none

/-- A waiting BARW of a thread sees its object: a changed phase ends the wait (10 R217); an object that is no longer
there is the thread's cause. -/
def State.wakeBarrier (s : State) (c : Crew) (tid : Nat) : State :=
  match (c.threads[tid]?).map Thread.wait with
  | some (.barrier b ph w) =>
    match s.barrierBad c b.toNat with
    | some x => s.take c.place tid x (some w)
    | none =>
      let o := s.barrier c b.toNat
      if o.phase = ph then s
      else (s.seeLocal c tid b.toNat 16).modThread c.place tid fun t =>
        { t.setC 6 o.error with wait := .ready, pc := t.pc + 4 }
  | _ => s

/-- Every waiting BARW looks at its object. -/
def State.wakeBarriers (s : State) : State :=
  s.crews.foldl (fun s c => (List.range c.threads.length).foldl (fun s t => s.wakeBarrier c t) s) s

/-- One read-modify-write of an object (10 R215). -/
def State.putBarrier (s : State) (c : Crew) (b : Nat) (f : Barrier → Barrier) : State :=
  s.storeLocal c b (f (s.barrier c b)).toBytes

/-- An engine's read-modify-write of an object, at a timestamp; every waiting BARW sees it. -/
def State.updBarrier (s : State) (c : Crew) (b pts : Nat) (f : Barrier → Barrier) : State :=
  let x := localSpace c b
  ((s.putBarrier c b f).passStore x.1 x.2 16 pts).2.wakeBarriers

/-! ## Fill-tracking (06 R125) -/

def lineFirstScratch : Nat := 0x1000000 / 128

/-- A tracked transfer's lines: one more copy is outstanding into each, and each is empty. -/
def State.trackLines (s : State) (c : Crew) (ls : List Nat) : State :=
  let own := ls.filter fun l => l < lineFirstScratch
  let scr := (ls.filter fun l => lineFirstScratch ≤ l).map fun l => l - lineFirstScratch
  let up (t : List (Nat × Nat)) (ks : List Nat) := ks.foldl (fun t k => put 0 k (look 0 t k + 1) t) t
  let s := s.modCrew c.place fun k => { k with tracked := up k.tracked own }
  let s := s.modCol c.place.die c.place.col fun k => { k with tracked := up k.tracked scr }
  s.setLines c ls false

/-- One tracked copy fewer into a line; with none left the line is full. -/
def State.untrackLine (s : State) (c : Crew) (pts l : Nat) : State :=
  let x := localSpace c (128 * l)
  let k := x.2 / 128
  let n := if l < lineFirstScratch then ((s.crewByUid? c.uid).map fun c => look 0 c.tracked k).getD 0
    else look 0 (s.col c.place.die c.place.col).tracked k
  let s := if l < lineFirstScratch then s.modUid c.uid fun c => { c with tracked := put 0 k (n - 1) c.tracked }
    else s.modCol c.place.die c.place.col fun q => { q with tracked := put 0 k (n - 1) q.tracked }
  if n = 1 then ((s.setLines c [l] true).passStore x.1 x.2 128 pts).2.wakeLines else s

/-! ## Reach and places (07 R155 to R157) -/

/-- The address lies in the reach of the scope, for a crew (07 Table 7.1). -/
def State.inReach (s : State) (c : Crew) (scope : Scope) (sp : Space) (a : Nat) : Bool :=
  match sp with
  | .loc u => u = c.uid || (scope != .crew && (s.crews.any fun k =>
      k.uid = u && k.place.die = c.place.die && k.place.col = c.place.col))
  | .scr d k => scope != .crew && d = c.place.die && k = c.place.col
  | .dev => match scope with
    | .crew | .col => false
    | .die => homeOf a == some c.place.die
    | .mod | .host => true
  | .host => scope == .host

/-- The place after the latest store in the reach: where an acquire's first read may stand (07 R156). -/
def State.acquirePlace (s : State) (c : Crew) (scope : Scope) (fence : Nat) : Nat :=
  s.past.foldl (fun n p => if s.inReach c scope p.space p.addr then max n (p.place + 1) else n) fence
/-- An acquire raises the command's timestamp above the stores in its reach (07 R164). -/
def State.acquirePts (s : State) (c : Crew) (scope : Scope) (pts : Nat) : Nat :=
  let pts := s.stamps.foldl (fun n x => if s.inReach c scope .dev (128 * x.1) then max n (x.2.1 + 1) else n) pts
  s.others.foldl (fun n x =>
    let l := lineOfKey x.1
    if s.inReach c scope l.1 (128 * l.2) then max n (x.2.1 + 1) else n) pts

/-- The places, from one on, of stores to any of the bytes, rising. -/
def placesOf (sp : Space) (a n start : Nat) (past : List Past) : List Nat :=
  past.foldl (fun l p => if p.space = sp ∧ a ≤ p.addr ∧ p.addr < a + n ∧ start ≤ p.place then insertN p.place l else l) []

/-- The places, from one on, at which a line was made empty or full, added to a list of places. -/
def changesOf (sp : Space) (line start : Nat) (l : List Nat) (past : List LinePast) : List Nat :=
  past.foldl (fun l p => if p.space = sp ∧ p.line = line ∧ start ≤ p.place then insertN p.place l else l) l

/-- A version of a sector that a read may take: its bytes, how far the reads have come with it in the store order, and,
of one that a later store has replaced, the write timestamp of its line. -/
structure Version where
  bytes : List W8
  place : Nat
  old : Option Nat
  deriving DecidableEq, Repr

/-- The bytes of a read sector: as they stand now, or before any store since the place its reads have reached (07 R156). The
line was full at the place taken (06 R126); and the access lies before the store that has replaced the version also by
their timestamps (07 R163, R164). -/
def State.readAt (s : State) (sp : Space) (a n place pts : Nat) : Version × State :=
  let stores := placesOf sp a n place s.past
  let next (p : Nat) : Option Nat := stores.find? fun q => decide (p ≤ q)
  let open_ (p : Nat) : Bool := !emptyAt sp (a / 128) p false s.linePast
    && (next p).all fun q => decide (pts < s.wtsAt (q + 1) sp (a / 128))
  let all := changesOf sp (a / 128) place stores s.linePast
  let reached (l : List Nat) : Nat := (l.getLast?.map (· + 1)).getD place
  let places := all.filter open_
  let (i, s) := s.pick (places.length + 1)
  match places[places.length - i]? with
  | none => (⟨s.bytes sp a n, reached all, none⟩, s)
  | some p => (⟨s.bytesAt p sp a n, reached (all.filter (· < p)), (next p).map fun q => s.wtsAt q sp (a / 128)⟩, s)

/-- An engine's load of a version: its timestamp is raised to the version's; the latest is a load of its home, or of its
line (07 R163, R164). -/
def State.engineLoad (s : State) (sp : Space) (a n pts : Nat) (old : Option Nat) : Nat × State :=
  match old with
  | some w => (max pts w, s)
  | none => match sp with
    | .dev => let (k, s) := s.grantLease (a / 128) pts
      (max pts k.wts, s)
    | sp => s.passLoad sp a n pts

/-! ## Sectors -/

def engineOf (c : Crew) (t : Transfer) : Master := ⟨c.place.die, c.place.col, t.sub, some t.tag⟩

/-- How the checks of a sector end. -/
inductive Sector where
  | local_ (sp : Space) (a : Nat)
  | device (pa : Nat) (e : TlbEntry)
  | host (pa : Nat)
  | register (die off : Nat)
  | lines
  | wait (w : EnginePage)
  | bad (b : Bad)
  deriving DecidableEq, Repr

/-- The checks of n bytes at a local address for an engine (06 R120, R126). -/
def State.localSector (s : State) (c : Crew) (a n : Nat) (reads : Bool) : Sector :=
  if a + n > 2 ^ 32 then .bad (Bad.local_ .permission a)
  else match s.localReady c a n 1 reads with
    | .go => let x := localSpace c a
      .local_ x.1 x.2
    | .bad b => .bad b
    | .wait _ _ => .lines

/-- The checks after translation, for an engine (08 R178, R179). -/
def State.engineCheck (s : State) (c : Crew) (t : Transfer) (a n : Nat) (k : AccKind) (e : TlbEntry) : Sector × State :=
  let va := BitVec.ofNat 64 a
  if leafType e.leaf = 3 ∧ a % n ≠ 0 then (.bad ⟨.permission, some va, syndrome e.level k true .permission, e.leafAt a⟩, s)
  else match s.postCheck (engineOf c t) true va n k e with
    | (.device pa _ e, s) => (.device pa e, s)
    | (.host pa _, s) => (.host pa, s)
    | (.register d o, s) => (.register d o, s)
    | (.bad b, s) => (.bad b, s)
    | (.walk, s) => (.bad (Bad.plain .permission), s)

/-- An engine's access that waits for the walk of its page. -/
def EnginePage.missed (a : Nat) (k : AccKind) : EnginePage := ⟨a, k.code, true, 0, 0, false⟩

/-- The checks of n bytes at a global address (08 R179); a translation miss waits for a walk (08 R181). -/
def State.globalSector (s : State) (c : Crew) (t : Transfer) (a n : Nat) (k : AccKind) : Sector × State :=
  let va := BitVec.ofNat 64 a
  match preCheck va 1 k true with
  | some b => (.bad b, s)
  | none => match s.lookup c.place.die c.place.col a with
    | .hit e s => s.engineCheck c t a n k e
    | .miss => (.wait (EnginePage.missed a k), s.queueWalkFor c.place.die c.place.col t.region va k true)

def State.sector (s : State) (c : Crew) (t : Transfer) (global : Bool) (a n : Nat) (k : AccKind) : Sector × State :=
  if global then s.globalSector c t a n k else (s.localSector c a n (k == .read), s)

/-- The transfer is replaced, or taken out, in its column. -/
def State.modTransfer (s : State) (c : Crew) (tag : Nat) (f : Transfer → Transfer) : State :=
  s.modCol c.place.die c.place.col fun k =>
    { k with transfers := k.transfers.map fun t => if t.tag = tag then f t else t }
def State.dropTransfer (s : State) (c : Crew) (tag : Nat) : State :=
  s.modCol c.place.die c.place.col fun k => { k with transfers := k.transfers.filter fun t => t.tag ≠ tag }

/-- What a read sector gives: its bytes and the transfer's new place and timestamp; or a cause; or the state alone. -/
inductive ReadOf where
  | bytes (l : List W8) (place pts : Nat)
  | stop (b : Bad)
  | wait
  deriving DecidableEq, Repr

def State.readSector (s : State) (c : Crew) (t : Transfer) (global : Bool) (a n : Nat) : ReadOf × State :=
  let pts := s.floorPts c.place.die t.pts
  match s.sector c t global a n .read with
  | (.bad b, s) => (.stop b, s)
  | (.lines, s) => (.wait, s.modTransfer c t.tag fun t => { t with behindFill := true })
  | (.wait w, s) => (.wait, s.modTransfer c t.tag fun t => { t with waiting := some w })
  | (.local_ sp x, s) =>
    -- an access that waited on a line comes after the fill, which is its acquire (06 R126, 07 R157)
    let (v, s) := s.readAt sp x n (if t.behindFill then s.store else t.place) pts
    let (p, s) := s.engineLoad sp x n pts v.old
    (.bytes v.bytes v.place p, s)
  | (.device pa e, s) =>
    if s.poisoned pa n then (.stop (Bad.at_ .memoryUncorrectable (BitVec.ofNat 64 a)), s)
    else
      let (v, s) := s.readAt .dev pa n t.place pts
      let (p, s) := s.engineLoad .dev pa n pts v.old
      (.bytes v.bytes v.place p, s.touch ((homeOf pa).getD 0) (pa / 128) false (entryEligible e) (entryStreams e))
  | (.host pa, s) => match s.hostLoad pa n with
    | (some l, s) =>
      let (p, s) := s.passLoad .host pa n pts
      (.bytes l (max t.place s.store) p, s)
    | (none, s) => (.stop (Bad.at_ .hostDetached (BitVec.ofNat 64 a)), s)
  | (.register d o, s) => (.bytes (s.regRead d o n) t.place pts, s)

/-- Runs of consecutive bytes. -/
def runsOf : List (Nat × W8) → List (Nat × List W8)
  | [] => []
  | (a, b) :: t => match runsOf t with
    | (x, l) :: r => if x = a + 1 then (a, b :: l) :: r else (a, [b]) :: (x, l) :: r
    | [] => [(a, [b])]

/-- Write the bytes of a sector, checked; the new timestamp. -/
inductive WriteOf where
  | done (pts : Nat)
  | stop (b : Bad)
  | wait
  deriving DecidableEq, Repr

/-- The bytes of a sector from its first address: its extent. -/
def extentOf (cells : List (Nat × W8)) : Nat :=
  match cells.head?, cells.getLast? with
  | some lo, some hi => hi.1 - lo.1 + 1
  | _, _ => 0

/-- The checks of a write sector, and where it goes. -/
def State.writeCheck (s : State) (c : Crew) (t : Transfer) (global : Bool) (cells : List (Nat × W8)) : Sector × State :=
  s.sector c t global ((cells.head?.map Prod.fst).getD 0) (extentOf cells) .write
def Sector.landing? : Sector → Option Landing
  | .local_ sp a => some (.local_ sp a)
  | .device pa e => some (.device pa e)
  | .host pa => some (.host pa)
  | .register d o => some (.register d o)
  | _ => none

/-- A checked sector is written: the new timestamp, or that the host is gone. -/
def State.writeAt (s : State) (c : Crew) (t : Transfer) (cells : List (Nat × W8)) (goal : Landing) : WriteOf × State :=
  let a := (cells.head?.map Prod.fst).getD 0
  let n := extentOf cells
  let pts := s.floorPts c.place.die t.pts
  let shift (base : Nat) := (runsOf cells).map fun r => (base + (r.1 - a), r.2)
  match goal with
  | .local_ sp x =>
    let (p, s) := (s.storeRuns sp (shift x)).passStore sp x n pts
    (.done p, s)
  | .device pa e =>
    let (p, s) := s.devStoreBy pts (pa / 128) (fun s => s.storeRuns .dev (shift pa)) (some e)
    (.done p, (shift pa).foldl (fun s r => s.writeParts r.1 r.2.length) s)
  | .host pa =>
    if !s.attached then (.stop (Bad.at_ .hostDetached (BitVec.ofNat 64 a)), s.countDetread)
    else
      let (p, s) := (s.hostSector (shift pa) (2 ^ 64 + t.tag)).passStore .host pa n pts
      (.done p, s)
  | .register d o => (.done pts, s.regWrite (engineOf c t) d o (cells.map Prod.snd))

def State.writeSector (s : State) (c : Crew) (t : Transfer) (global : Bool) (cells : List (Nat × W8)) : WriteOf × State :=
  if cells = [] then (.done t.pts, s)
  else match s.writeCheck c t global cells with
    | (.bad b, s) => (.stop b, s)
    | (.wait w, s) => (.wait, s.modTransfer c t.tag fun t => { t with waiting := some w })
    | (x, s) => match x.landing? with
      | some goal => s.writeAt c t cells goal
      | none => (.wait, s)

/-! ## Fills of operand ranges (09 R194, 16 R349) -/

def Transfer.byte? (t : Transfer) (a : Nat) : Option W8 := (t.buf.find? fun x => x.1 = a).map Prod.snd

/-- What a fill writes. -/
def Transfer.into (t : Transfer) : List FillInto :=
  match t.kind with
  | .fill l => l
  | _ => []
def FillInto.range (x : FillInto) : Nat × Nat := (x.uid, x.ob)
def Transfer.fills (t : Transfer) : List (Nat × Nat) := t.into.map FillInto.range
/-- A transfer of the matrix engine: a fill, or a drain's stores. -/
def Transfer.isMatrix (t : Transfer) : Bool :=
  match t.kind with
  | .fill _ | .drain _ _ => true
  | _ => false
/-- An operation of the column's matrix engine, queued or begun, has been without progress for 2^20 cycles (11 R231). -/
def Column.hung (k : Column) : Bool :=
  (k.ops != [] && decide (Config.hangCycles ≤ k.hang)) || k.transfers.any fun t => t.isMatrix && decide (Config.hangCycles ≤ t.idle)
def Transfer.isFill (t : Transfer) : Bool :=
  match t.kind with
  | .fill _ => true
  | _ => false
/-- A range that is released: a fill still under way writes it no more (09 R193, 16 R349). -/
def Transfer.spare (x : Nat × Nat) (t : Transfer) : Transfer :=
  match t.kind with
  | .fill l => { t with kind := .fill (l.filter fun y => y.range ≠ x) }
  | _ => t

/-- The bytes that a fill has read, and its constants, by offset in the range. -/
def Transfer.filled (t : Transfer) (x : FillInto) : List (Nat × W8) :=
  x.cells.filterMap fun x => match x.2 with
    | .mem a => (t.byte? a).map fun b => (x.1, b)
    | .low a n => (t.byte? a).map fun b => (x.1, BitVec.ofNat 8 (b.toNat % 2 ^ n))
    | .const b => some (x.1, b)
    | _ => none
/-- A range takes what a fill has; one that it has written whole is good again (DEDUCED, log 80). -/
def Reservation.fill (t : Transfer) (x : FillInto) (r : Reservation) : Reservation :=
  let l := t.filled x
  { r with
    data := l.foldl (fun m x => m.write x.1 x.2) r.data, zrows := x.zrows, vcols := x.vcols
    bad := r.bad && decide (l.length ≠ x.cells.length) }
def Crew.fillRange (t : Transfer) (x : FillInto) (c : Crew) : Crew :=
  { c with ob := c.ob.modify x.ob (Option.map (Reservation.fill t x)) }

/-- Fills that have read everything take effect, in the order they were performed (16 R349), and end. -/
def State.settleFills : Nat → CrewAt → State → State
  | 0, _, s => s
  | n + 1, p, s =>
    let ts := (s.col p.die p.col).transfers
    let ready (t : Transfer) : Bool := t.isFill && t.reads = [] && !(ts.any fun u =>
      decide (u.tag < t.tag) && u.fills.any fun x => t.fills.contains x)
    match ts.find? ready with
    | none => s
    | some t =>
      let s := t.into.foldl (fun s x => s.modUid x.uid (Crew.fillRange t x)) s
      State.settleFills n p
        (s.modCol p.die p.col fun k => { k with transfers := k.transfers.filter fun u => u.tag ≠ t.tag })
def State.settleAllFills (s : State) (c : Crew) : State :=
  State.settleFills (s.col c.place.die c.place.col).transfers.length c.place s

/-! ## The end of a transfer -/

/-- A binding's copy fails: the record names the lowest index and, of that binding, the lowest tid (03 R62). -/
def Crew.bindFails (e : BindError) (c : Crew) : Crew :=
  match c.bindErr with
  | some o => if e.index < o.index ∨ (e.index = o.index ∧ e.tid < o.tid) then { c with bindErr := some e } else c
  | none => { c with bindErr := some e }

/-- A transfer that ends leaves the sectors that were counted off before they were written: they are still written, in
order (07 R157). -/
def State.endTransfer (s : State) (c : Crew) (t : Transfer) : State :=
  if t.late = [] then s.dropTransfer c t.tag
  else s.modTransfer c t.tag fun _ => { t with
    reads := [], writes := [], barrier := none, lines := [], fold := none, abortAtEnd := false, waiting := none }

/-- A migration is abandoned when a transfer of the crew aborts (11 R232): the crew, and its twin with it, runs on. -/
def Crew.stay (c : Crew) : Crew :=
  match c.phase with
  | .moving _ => { c with phase := .running }
  | _ => c
def State.abandonMove (s : State) (c : Crew) : State :=
  let s := s.modCrew c.place Crew.stay
  match c.twin with
  | some q => s.modCrew q Crew.stay
  | none => s

/-- Abort a transfer (10 R214): its object is marked, after every access of the transfer (DESIGN CHOICE, log 86), the lines
it held are released, and it ends. A prologue copy's cause is its binding's (03 R62). A fill that stops early leaves what it
has read (log 19). -/
def State.abortTransfer (s : State) (c : Crew) (t : Transfer) (b : Bad) : State :=
  let s := s.abandonMove c
  if t.isFill then (s.modTransfer c t.tag fun u => { u with buf := t.buf, reads := [] }).settleAllFills c else
  let s := s.endTransfer c t
  let s := match t.barrier with
    | some o =>
      if (s.barrierBad c o.toNat).isSome then s
      else s.updBarrier c o.toNat (t.pts + 1) (Barrier.abort t.phase)
    | none => s
  let s := match t.bind with
    | some (i, tid) => s.modUid c.uid (Crew.bindFails ⟨i, tid, b.cause, b.ebad.getD 0, b.syn, b.entry⟩)
    | none => s
  t.lines.foldl (fun s l => s.untrackLine c t.pts l) s

/-- A check stops a transfer at a sector. Of a fill, the last signer of each crew that it fills for takes the cause at the
OBLD (08 R187); but one that the host's absence stops is aborted alone (12 R245). -/
def State.stopTransfer (s : State) (c : Crew) (t : Transfer) (b : Bad) : State :=
  let s := s.abortTransfer c t b
  if b.cause = .hostDetached then s
  else t.signers.foldl (fun s x => s.faultBehind x.1 x.2.1 b x.2.2.1 (some x.2.2.2)) s

/-- The timestamp of a completion: with release one more than the largest of the ordered write sectors' (07 R164). -/
def Transfer.completion (t : Transfer) : Nat := if t.release then (t.wrote.map (· + 1)).getD t.pts else t.pts

/-- The stores of a transfer with release of host scope are transmitted before its completion (07 R160). -/
def State.sendStores (s : State) (t : Transfer) : State :=
  if t.release ∧ t.scope = .host then s.drainOut else s

/-- k bytes of a write sector are counted off (10 R213, R216); an object that cannot be read any more ends the transfer as
an aborted one. False when it ended so. -/
def State.countOff (s : State) (c : Crew) (t : Transfer) (k : Nat) : Bool × State :=
  match t.barrier with
  | none => (true, s)
  | some o =>
    if (s.barrierBad c o.toNat).isSome then
      (false, t.lines.foldl (fun s l => s.untrackLine c t.pts l) (s.endTransfer c t))
    else (true, s.updBarrier c o.toNat (s.floorPts c.place.die t.completion) (Barrier.land t.phase k))

/-- A write sector whose place is ordered before the completion (07 R157); one whose page no TLB holds is written
before it is counted off. -/
def State.orderedSector (s : State) (c : Crew) (t : Transfer) (a : Nat) : Bool :=
  t.release && (if t.gdst then
      match s.lookup c.place.die c.place.col a with
      | .hit e _ => if leafType e.leaf = 2 then t.scope == .host else s.inReach c t.scope .dev (e.phys a)
      | .miss => true
    else let x := localSpace c a
      s.inReach c t.scope x.1 x.2)

/-- The lines into which the transfer writes no more are released (06 R125); of a transfer with release, once every sector
in its reach is written (07 R157). Lines of a compress that no byte reaches are released with the first ones (DESIGN
CHOICE, log 85). -/
def State.releaseLines (s : State) (c : Crew) (t : Transfer) : Transfer × State :=
  let held := t.writes.any fun w => s.orderedSector c t w.addr
  let open_ (l : Nat) : Bool := held || (t.writes.any fun w => w.addr / 128 = l) || (t.late.any fun x => x.addr / 128 = l)
  let gone := t.lines.filter fun l => !open_ l
  let t := { t with lines := t.lines.filter open_ }
  if gone = [] then (t, s)
  else (t, gone.foldl (fun s l => s.untrackLine c (s.floorPts c.place.die t.completion) l) s)

/-! ## Bytes to write -/

def Transfer.bytesAt? (t : Transfer) (a : Nat) : Nat → Option (List W8)
  | 0 => some []
  | n + 1 => match t.byte? a, t.bytesAt? (a + 1) n with
    | some b, some l => some (b :: l)
    | _, _ => none

end Sys2Proof.Machine
end

