-- ==== Sys2Proof/Machine/CopyEngine.lean ====
section
/-! DEFINITION. The copy engine: descriptors (10 R208 to R210), acceptance (10 R212), sectors (10 R213), guards
(10 R220), XCOPY and XLUT; the barrier instructions (10 R217); the amax fold (09 R202). -/

namespace Sys2Proof.Machine

open Sys2Proof

/-! ## The copy descriptor -/

/-- A dimension: extent and strides (10 Table 10.2). -/
structure Dim where
  extent : Nat
  sstride : Int
  dstride : Int
  deriving DecidableEq, Repr

/-- 10 Table 10.1. -/
structure CopyDesc where
  src : Nat
  dst : Nat
  sspace : Nat
  dspace : Nat
  esize : Nat
  ndim : Nat
  xform : Nat
  bflags : Nat
  guard : Nat
  gexp : W32
  xarg : W32
  dcap : Nat
  dims : List Dim
  /-- the reserved bytes, and the dimension entries at or beyond ndim, are zero -/
  clean : Bool
  deriving DecidableEq, Repr

def dimAt (l : List W8) (d : Nat) : Dim :=
  ⟨fieldAt l (0x30 + 16 * d) 4, signedNat 48 (fieldAt l (0x34 + 16 * d) 6), signedNat 48 (fieldAt l (0x3A + 16 * d) 6)⟩

def CopyDesc.ofBytes (l : List W8) : CopyDesc :=
  let n := fieldAt l 0x13 1
  { src := fieldAt l 0 8, dst := fieldAt l 8 8, sspace := fieldAt l 0x10 1, dspace := fieldAt l 0x11 1
    esize := fieldAt l 0x12 1, ndim := n, xform := fieldAt l 0x14 1, bflags := fieldAt l 0x15 1
    guard := fieldAt l 0x18 8, gexp := BitVec.ofNat 32 (fieldAt l 0x20 4), xarg := BitVec.ofNat 32 (fieldAt l 0x24 4)
    dcap := fieldAt l 0x28 8, dims := (List.range (min n 9)).map (dimAt l)
    clean := decide (fieldAt l 0x16 2 = 0) && (l.drop (0x30 + 16 * n)).all fun b => b = 0 }

def CopyDesc.elements (d : CopyDesc) : Nat := d.dims.foldl (fun n x => n * x.extent) 1
def CopyDesc.ext (d : CopyDesc) (k : Nat) : Nat := ((d.dims[k]?).map Dim.extent).getD 1
def CopyDesc.sfmt (d : CopyDesc) : Fmt := (Fmt.ofCode (d.xarg.toNat % 16)).getD .i32
def CopyDesc.dfmt (d : CopyDesc) : Fmt := (Fmt.ofCode (d.xarg.toNat / 16 % 16)).getD .i32
def xargX (x : W32) : W16 := (x >>> 16).setWidth 16

/-- Bytes of a source element, and of a destination element; of a packed 4-bit operand, one for a pair. -/
def CopyDesc.srcSize (d : CopyDesc) : Nat :=
  if d.xform = 2 then 1 else if d.xform = 5 then max 1 (d.sfmt.width / 8) else 2 ^ d.esize
def CopyDesc.dstSize (d : CopyDesc) : Nat := if d.xform = 5 then max 1 (d.dfmt.width / 8) else 2 ^ d.esize

/-- n, the destination bytes of 10 Table 10.3. -/
def CopyDesc.size (d : CopyDesc) : Nat :=
  match d.xform with
  | 1 => d.elements * 4
  | 3 => d.ext 0
  | 4 => d.dcap
  | 5 => d.elements * d.dfmt.width / 8
  | _ => d.elements * 2 ^ d.esize

/-- The span of strides from a base: the lowest and the highest byte. -/
def spanOf (base : Nat) (size : Nat) (ds : List (Nat × Int)) : Int × Int :=
  ds.foldl (fun x d =>
    let r := ((d.1 : Int) - 1) * d.2
    if r < 0 then (x.1 + r, x.2) else (x.1, x.2 + r)) ((base : Int), (base : Int) + size - 1)

/-- Strides of the source, or of the destination, a packed 4-bit operand's dimension 0 as bytes of pairs. -/
def CopyDesc.srcDims (d : CopyDesc) : List (Nat × Int) :=
  d.dims.zipIdx.map fun x =>
    if x.2 = 0 ∧ d.xform = 5 ∧ d.sfmt.width = 4 then (ceilDiv x.1.extent 2, 1) else (x.1.extent, x.1.sstride)
def CopyDesc.dstDims (d : CopyDesc) : List (Nat × Int) :=
  d.dims.zipIdx.map fun x =>
    if d.xform = 1 ∧ x.2 = 0 then (x.1.extent, 256)
    else if d.xform = 1 ∧ x.2 = 1 then (x.1.extent, 4)
    else if x.2 = 0 ∧ d.xform = 5 ∧ d.dfmt.width = 4 then (ceilDiv x.1.extent 2, 1)
    else (x.1.extent, x.1.dstride)
/-- The spans of 10 R210; of a compress, the destination's is dcap. -/
def CopyDesc.srcSpan (d : CopyDesc) : Int × Int := spanOf d.src d.srcSize d.srcDims
def CopyDesc.dstSpan (d : CopyDesc) : Int × Int :=
  if d.xform = 4 then ((d.dst : Int), (d.dst : Int) + d.dcap - 1) else spanOf d.dst d.dstSize d.dstDims

def dimIs (d : CopyDesc) (k : Nat) (f : Dim → Bool) : Bool := ((d.dims[k]?).map f).getD true

/-- The constraints of 10 Table 10.3, but the one an expand's header decides. A convert's rounding field, which must be 0
for h4 or h8, is tested by the destination's format, whose rounding it is (DESIGN CHOICE, log 85). -/
def CopyDesc.xformOk (d : CopyDesc) (tileCrew : Bool) (lsize : Nat) : Bool :=
  let x := d.xarg.toNat
  let unit := d.ndim = 1 ∧ d.esize = 0 ∧ dimIs d 0 (fun k => k.sstride = 1 ∧ k.dstride = 1)
  let nb := ceilDiv (d.ext 0) 4096
  let halfStep := d.dfmt.code ≥ 12
  match d.xform with
  | 0 => decide (x = 0)
  | 1 => decide (x = 0 ∧ d.esize = 2 ∧ d.ext 0 ≤ 64 ∧ d.ext 1 ≤ 64 ∧ d.dspace = 1 ∧ tileCrew)
      && dimIs d 0 (fun k => k.dstride = 0) && dimIs d 1 (fun k => k.dstride = 0)
      && decide (0 ≤ d.dstSpan.1 ∧ d.dstSpan.2 < lsize)
  | 2 => decide (x < 4)
  | 3 => decide (x = 0 ∧ unit ∧ d.src % 64 = 0)
  | 4 => decide (x < 64 ∧ x % 16 ≤ 3 ∧ unit ∧ d.dst % 64 = 0 ∧ d.ext 0 ≤ 2 ^ 40
      ∧ 64 + ceilDiv (ceilDiv nb 4) 8 * 8 + 8 * (nb + 1) + 4128 * nb ≤ d.dcap)
  | 5 => decide (x % 16 ≤ 13 ∧ x / 16 % 16 ≤ 13 ∧ x / 2048 % 32 = 0 ∧ d.esize = 0
      ∧ (halfStep → x / 256 % 4 = 0) ∧ (xargX d.xarg).toNat / 128 % 256 ≠ 255)
      && (d.sfmt.width != 4 || (dimIs d 0 (fun k => k.sstride = 0) && d.ext 0 % 2 == 0))
      && (d.dfmt.width != 4 || (dimIs d 0 (fun k => k.dstride = 0) && d.ext 0 % 2 == 0))
  | _ => false

/-- Bytes at a source as they stand; none where a check would stop an engine, or where they are not memory. -/
def State.peek (s : State) (c : Crew) (global : Bool) (a n : Nat) : Option (List W8) :=
  if !global then (if (s.checkLocal c a n 1).isSome then none else some (s.localBytes c a n))
  else ((sectorsOf a n).mapM fun (x : Nat × Nat) =>
    match (s.checkNow ⟨c.place.die, c.place.col, 1, none⟩ true (BitVec.ofNat 64 x.1) 1 .read).1 with
    | .device pa _ _ => some (s.bytes .dev pa x.2)
    | .host pa _ => some (s.bytes .host pa x.2)
    | _ => none).map List.flatten

/-- The parts of a compressed buffer, by offset and length, as its header and index stand: the header, and where these are
well formed the map, the index and the streams (06 R144, R145). -/
def State.bufferParts (s : State) (c : Crew) (global : Bool) (src : Nat) : List (Nat × Nat) :=
  match (s.peek c global src 64).bind cHeader with
  | none => [(0, 64)]
  | some h =>
    let map := if h.mapoff = 0 then [] else [(h.mapoff, ceilDiv h.nblocks 4)]
    let known := [(0, 64), (h.idxoff, 8 * (h.nblocks + 1))] ++ map
    match s.peek c global (src + h.idxoff) (8 * (h.nblocks + 1)) with
    | none => known
    | some l =>
      let es := (List.range (h.nblocks + 1)).map fun i => fieldAt l (8 * i) 8
      if risingIndex es then known ++ [(es.headD 0, es.getLastD 0 - es.headD 0)] else known

/-- The span that the source reads: of an expand, all of its buffer, as the buffer stands (10 R210, DEDUCED, log 18). -/
def State.sourceSpan (s : State) (c : Crew) (d : CopyDesc) : Int × Int :=
  if d.xform = 3 then
    ((d.src : Int), (d.src : Int) + ((s.bufferParts c (d.sspace == 0) d.src).foldl (fun n p => max n (p.1 + p.2)) 0 : Nat) - 1)
  else d.srcSpan

/-- The malformed descriptors of 10 R210, by the span of the source. -/
def CopyDesc.malformed (d : CopyDesc) (span : Int × Int) (prologue tileCrew : Bool) (lsize : Nat) : Bool :=
  let overlap := d.sspace = d.dspace ∧ span.1 ≤ d.dstSpan.2 ∧ d.dstSpan.1 ≤ span.2
  !d.clean || decide (d.sspace > 1 ∨ d.dspace > 1 ∨ d.esize > 4 ∨ d.ndim = 0 ∨ d.ndim > 9 ∨ d.xform > 5)
    || (prologue && decide (d.bflags ≥ 64 ∨ d.bflags / 4 % 8 > 4))
    || decide (d.guard % 4 ≠ 0 ∨ (d.xform ≠ 4 ∧ d.dcap ≠ 0)) || d.dims.any (fun k => k.extent = 0)
    || !d.xformOk tileCrew lsize || decide overlap || decide (d.sspace = 1 ∧ d.src ≥ 2 ^ 32)
    || decide (d.dspace = 1 ∧ d.dst ≥ 2 ^ 32) || decide (d.size > 2 ^ 56 - 1)

/-! ## The bytes of a transfer -/

/-- The indices (i0, i1, …) of iteration k. -/
def indices : Nat → List Nat → List Nat
  | _, [] => []
  | k, e :: es => k % e :: indices (k / e) es
def dotStrides (is : List Nat) (ss : List Int) : Int := (is.zip ss).foldl (fun a x => a + (x.1 : Int) * x.2) 0
/-- An address modulo 2^64. -/
def wrap64 (a : Int) : Nat := (a % (2 ^ 64 : Nat)).toNat

def CopyDesc.extents (d : CopyDesc) : List Nat := d.dims.map Dim.extent
/-- The source address of iteration k as a bit address. -/
def CopyDesc.srcBit (d : CopyDesc) (k : Nat) : Nat :=
  let is := indices k d.extents
  8 * wrap64 (d.src + dotStrides is (d.dims.map Dim.sstride))
    + (if d.xform = 5 ∧ d.sfmt.width = 4 then 4 * is.headD 0 else 0)
def CopyDesc.dstAddr (d : CopyDesc) (k : Nat) : Nat :=
  let is := indices k d.extents
  let at_ := d.dst + dotStrides is (d.dims.map Dim.dstride)
  wrap64 (if d.xform = 1 then at_ + 256 * is.getD 0 0 + 4 * is.getD 1 0
    else if d.xform = 5 ∧ d.dfmt.width = 4 then at_ + is.headD 0 / 2 else at_)

/-- The destination bytes of iteration k. -/
def CopyDesc.cells (d : CopyDesc) (k : Nat) : List (Nat × ByteSrc) :=
  let a := d.dstAddr k
  let b := d.srcBit k
  match d.xform with
  | 2 => (List.range (2 ^ d.esize)).map fun j => (a + j, .lut (b / 8) (2 ^ d.esize) j)
  | 5 =>
    if d.dfmt.width = 4 then (if (indices k d.extents).headD 0 % 2 = 0 then [(a, .cvt4 b (d.srcBit (k + 1)))] else [])
    else (List.range d.dstSize).map fun j => (a + j, .cvt b j)
  | _ => (List.range d.srcSize).map fun j => (a + j, .mem (b / 8 + j))
/-- The source bytes of iteration k. -/
def CopyDesc.reads (d : CopyDesc) (k : Nat) : List Nat :=
  (List.range d.srcSize).map fun j => d.srcBit k / 8 + j

/-- A byte is written where no later iteration writes it. -/
def addCell (x : Nat × ByteSrc) : List (Nat × ByteSrc) → List (Nat × ByteSrc)
  | [] => [x]
  | y :: t => if x.1 < y.1 then x :: y :: t else if x.1 = y.1 then y :: t else y :: addCell x t

/-- The destination bytes of iterations n − 1 down to 0, the highest first (10 R210), rising. -/
def CopyDesc.allCells (d : CopyDesc) : Nat → List (Nat × ByteSrc) → List (Nat × ByteSrc)
  | 0, l => l
  | n + 1, l => d.allCells n ((d.cells n).reverse.foldl (fun l x => addCell x l) l)
def CopyDesc.allReads (d : CopyDesc) : Nat → List Nat → List Nat
  | 0, l => l
  | n + 1, l => d.allReads n ((d.reads n).reverse.foldl (fun l x => insertN x l) l)

/-- Bytes as the sectors that hold them, ascending (07 R154). -/
def readSectors : List Nat → List (Nat × Nat)
  | [] => []
  | a :: t => match readSectors t with
    | (b, n) :: r => if a / 32 = b / 32 then (a, b + n - a) :: r else (a, 1) :: (b, n) :: r
    | [] => [(a, 1)]
/-- Pieces of memory as the sectors that hold them, ascending, the pieces of one sector as one access. -/
def mergeSector (x : Nat × Nat) : List (Nat × Nat) → List (Nat × Nat)
  | [] => [x]
  | y :: t =>
    if x.1 / 32 < y.1 / 32 then x :: y :: t
    else if x.1 / 32 = y.1 / 32 then (min x.1 y.1, max (x.1 + x.2) (y.1 + y.2) - min x.1 y.1) :: t
    else y :: mergeSector x t
def mergeSectors (l : List (Nat × Nat)) : List (Nat × Nat) := l.foldr mergeSector []
def writeSectors : List (Nat × ByteSrc) → List WSector
  | [] => []
  | x :: t => match writeSectors t with
    | w :: r => if x.1 / 32 = w.addr / 32 then ⟨x.1, x :: w.cells⟩ :: r else ⟨x.1, [x]⟩ :: w :: r
    | [] => [⟨x.1, [x]⟩]

/-- The cells of a plain range. -/
def rangeCells (dst n : Nat) (f : Nat → ByteSrc) : List (Nat × ByteSrc) := (List.range n).map fun i => (dst + i, f i)
def cellCount (ws : List WSector) : Nat := ws.foldl (fun n w => n + w.cells.length) 0

/-! ## What a sector's bytes are -/

/-- A sector's bytes: not all read yet; a malformed block; or the bytes, and whether an index lay past its slot. -/
inductive Ready where
  | waiting
  | malformed
  | bytes (l : List (Nat × W8)) (past : Bool)
  deriving DecidableEq, Repr

/-- A block of the buffer at src: none while bytes are to be read, some none when it is malformed (06 R149). -/
def Transfer.block? (t : Transfer) (src i : Nat) : Option (Option (List W8)) :=
  match (t.bytesAt? src 64).bind cHeader with
  | none => none
  | some h =>
    match t.bytesAt? (src + h.idxoff + 8 * i) 16 with
    | none => none
    | some e =>
      let lo := fieldAt e 0 8
      let hi := fieldAt e 8 8
      (t.bytesAt? (src + lo) (hi - lo)).map (expandBlock h.algo (blockLen h.ulen i))

/-- The code of the source element at a bit address. -/
def Transfer.elem? (t : Transfer) (f : Fmt) (b : Nat) : Option Nat :=
  if f.width = 4 then (t.byte? (b / 8)).map fun x => x.toNat / 2 ^ (b % 8) % 16
  else (t.bytesAt? (b / 8) (f.width / 8)).map leNat

/-- The element converted by the argument of 10 Table 10.3. -/
def convertBy (xarg : W32) (code : Nat) : Nat :=
  let x := xarg.toNat
  (convertElem ((Fmt.ofCode (x / 16 % 16)).getD .i32) ((Fmt.ofCode (x % 16)).getD .i32)
    ((Rm.ofCode (x / 256 % 4)).getD .rne) (x / 1024 % 2 = 1) (xargX xarg) code).1

/-- The value of a drained element after step 4; none while its residual is to be read. -/
def Transfer.drained? (t : Transfer) (d : DrainDesc) (elems : List (Nat × W48)) (e : Nat) : Option W48 :=
  let v := look 0 elems e
  if d.residual then
    (t.bytesAt? (d.resid + e / 64 * d.pitch + e % 64 * d.rsize) d.rsize).map fun l => d.value e (leNat l) v
  else some (d.value e 0 v)

/-- The byte of a cell; the flag marks an index past its LUT slot (10 R219). -/
def Transfer.cell? (t : Transfer) (x : ByteSrc) : Option (W8 × Bool) :=
  let byteOf (k n : Nat) : W8 := BitVec.ofNat 8 (n / 2 ^ (8 * k))
  match x with
  | .mem a => (t.byte? a).map fun b => (b, false)
  | .low a n => (t.byte? a).map fun b => (BitVec.ofNat 8 (b.toNat % 2 ^ n), false)
  | .const b => some (b, false)
  | .lut a n k => (t.byte? a).map fun i =>
      if !t.lutOk then (0, false)
      else if (i.toNat + 1) * n > t.lut.length then (0, true)
      else (t.lut.getD (i.toNat * n + k) 0, false)
  | .cvt a k => match t.kind with
    | .copy _ xarg _ _ _ _ => (t.elem? ((Fmt.ofCode (xarg.toNat % 16)).getD .i32) a).map fun c =>
        (byteOf k (convertBy xarg c), false)
    | _ => none
  | .cvt4 a b => match t.kind with
    | .copy _ xarg _ _ _ _ =>
      let f := (Fmt.ofCode (xarg.toNat % 16)).getD .i32
      match t.elem? f a, t.elem? f b with
      | some p, some q => some (BitVec.ofNat 8 (convertBy xarg p % 16 + convertBy xarg q % 16 * 16), false)
      | _, _ => none
    | _ => none
  | .drain e k => match t.kind with
    | .drain d elems => match k with
      | some k => (t.drained? d elems e).map fun v => (byteOf k (d.code v), false)
      | none => match t.drained? d elems e, t.drained? d elems (e + 1) with
        | some v, some w => some (BitVec.ofNat 8 (d.code v % 16 + d.code w % 16 * 16), false)
        | _, _ => none
    | _ => none
  | .expand _ _ | .compress _ => none

def readyCells (t : Transfer) (blocks : List (Nat × List W8)) : List (Nat × ByteSrc) → Ready
  | [] => .bytes [] false
  | (a, x) :: r =>
    let here : Option (W8 × Bool) := match x with
      | .expand i off => (blocks.find? fun b => b.1 = i).map fun b => (b.2.getD off 0, false)
      | x => t.cell? x
    match here, readyCells t blocks r with
    | none, _ => .waiting
    | _, .waiting => .waiting
    | _, .malformed => .malformed
    | some (b, p), .bytes l q => .bytes ((a, b) :: l) (p || q)

def blocksIn (w : WSector) : List Nat := (w.cells.filterMap fun x => match x.2 with
  | .expand i _ => some i
  | _ => none).eraseDups

/-- The bytes of a write sector. A sector that holds the end of a good block and the start of a malformed one, of a
destination at no sector boundary, is left unwritten (06 R149; DESIGN CHOICE, log 81). -/
def Transfer.ready (t : Transfer) (w : WSector) : Ready :=
  match t.kind with
  | .copy 3 _ src _ _ _ =>
    let bs := (blocksIn w).map fun i => (i, t.block? src i)
    if bs.any fun b => b.2 = none then .waiting
    else if bs.any fun b => b.2 = some none then .malformed
    else readyCells t (bs.filterMap fun b => (b.2.bind id).map fun l => (b.1, l)) w.cells
  | _ => readyCells t [] w.cells

/-! ## Acceptance -/

/-- What a command brings besides its descriptor. -/
structure Command where
  sub : Nat
  acquire : Bool
  release : Bool
  scope : Scope
  track : Bool
  barrier : Option W32
  bind : Option (Nat × Nat)
  pts : Nat
  fence : Nat
  deriving DecidableEq, Repr

/-- A transfer of the crew as its command is accepted: with acquire its reads follow the stores in its reach, without
it they follow the fence point (07 R156). -/
def State.newTransfer (s : State) (c : Crew) (k : Command) (kind : TKind) (gsrc gdst : Bool) (reads : List (Nat × Nat))
    (writes : List WSector) : Transfer :=
  { tag := s.serial, uid := c.uid, region := c.at_.rcb, kind, gsrc, gdst, sub := k.sub, acquire := k.acquire,
    release := k.release, scope := k.scope, track := k.track, barrier := k.barrier, phase := false,
    pts := if k.acquire then s.acquirePts c k.scope k.pts else k.pts
    place := if k.acquire then s.acquirePlace c k.scope k.fence else k.fence
    reads, buf := [], writes, written := 0, surplus := 0, late := [], wrote := none, signers := [], idle := 0, lines := [], guard := 0, gexp := 0, gread := 0,
    phase3 := 0, lut := [], lutOk := true, abortAtEnd := false, waiting := none, behindFill := false, bind := k.bind, fold := none }

def State.pushTransfer (s : State) (c : Crew) (t : Transfer) : State :=
  { s.modCol c.place.die c.place.col (fun k => { k with transfers := k.transfers ++ [t] }) with serial := s.serial + 1 }

/-- The lines of the destination that lie in a valid part of local memory, rising. -/
def State.destLines (s : State) (c : Crew) (ws : List WSector) : List Nat :=
  (ws.map fun w => w.addr / 128).eraseDups.filter fun l => (s.checkLocal c (128 * l) 1 1).isNone

/-- The transfer of a well-formed descriptor. -/
def State.copyTransfer (s : State) (c : Crew) (k : Command) (d : CopyDesc) : Transfer :=
  let n := d.elements
  let reads := match d.xform with
    | 3 => sectorsOf d.src 64
    | 4 => sectorsOf d.src n
    | _ => readSectors (d.allReads n [])
  let writes := match d.xform with
    | 3 => writeSectors (rangeCells d.dst (d.ext 0) fun i => .expand (i / 4096) (i % 4096))
    | 4 => []
    | _ => writeSectors (d.allCells n [])
  let kind := TKind.copy d.xform d.xarg d.src d.dst (d.ext 0) d.dcap
  let t := s.newTransfer c k kind (d.sspace = 0) (d.dspace = 0) reads writes
  let slot := (s.col c.place.die c.place.col).luts.getD (d.xarg.toNat % 4) LutSlot.reset
  let mine := slot.owner = some c.uid
  { t with
    surplus := if d.xform = 4 then 0 else d.size - cellCount writes
    guard := d.guard, gexp := d.gexp
    lut := if d.xform = 2 ∧ mine then slot.data.take slot.length else []
    lutOk := d.xform ≠ 2 || mine
    abortAtEnd := d.xform = 2 && !mine }

/-- The command is accepted (10 R212): its object's arrival, the lines it tracks, its transfer. A compress tracks the lines
of its whole capacity; those that no byte reaches are released with its first sector (DESIGN CHOICE, log 85). -/
def State.acceptCopy (s : State) (c : Crew) (k : Command) (d : CopyDesc) : State :=
  let pts := s.floorPts c.place.die k.pts
  let s := match k.barrier with
    | some b => s.updBarrier c b.toNat pts (Barrier.arrive d.size)
    | none => s
  let t := s.copyTransfer c { k with pts } d
  let t := { t with phase := (k.barrier.map fun (b : W32) => (s.barrier c b.toNat).phase).getD false }
  let lines := if k.track ∧ d.dspace = 1 then
      (if d.xform = 4 then (linesOf d.dst d.dcap).filter fun l => (s.checkLocal c (128 * l) 1 1).isNone
       else s.destLines c t.writes)
    else []
  let s := if lines = [] then s else s.trackLines c lines
  s.pushTransfer c { t with lines }

def Transfer.isRaster (t : Transfer) : Bool :=
  match t.kind with
  | .raster _ => true
  | _ => false
/-- Transfers in flight: 64 at most, with drains accepted and not begun among them, and RAST not (10 R212, 16 R337,
17 R362). -/
def Column.inFlight (k : Column) : Nat := (k.transfers.filter fun t => !t.isRaster).length + (k.ops.filter fun o => o.drain.isSome).length

/-- The check of a descriptor's and an object's local range. -/
def State.xcopyChecks (s : State) (c : Crew) (d b : Nat) : Option Bad :=
  if d % 64 ≠ 0 then some (Bad.local_ .alignment d)
  else if b % 16 ≠ 0 then some (Bad.local_ .alignment b)
  else match s.checkLocal c d 192 64 with
    | some x => some x
    | none => s.barrierBad c b

/-- A copy that is not accepted yet. -/
def isCopyWait : Wait → Bool
  | .copySlot .. => true
  | _ => false
def State.copyWaiters (s : State) (die col : Nat) : Bool :=
  s.crews.any fun c => c.place.die = die && c.place.col = col && c.threads.any fun t => isCopyWait t.wait

/-- One thread of XCOPY (10 R212): behind the copies of its column that wait already, unless its own turn, by its serial,
has come. -/
def State.xcopyThread (ft : Bool) (scope : Scope) (acq rel : Bool) (x y : VReg) (turn : Option Nat) (s : State) (tid : Nat) :
    State :=
  s.withThread tid fun c t =>
    let d := (t.v x.toNat).toNat
    let b : W32 := t.v y.toNat
    let wait (line : Option W32) : State :=
      { s.park c.place tid (.copySlot (turn.getD s.serial) s.cur.word line) with serial := s.serial + 1 }
    match s.xcopyChecks c d b.toNat with
    | some e => s.raiseBad tid e
    | none =>
      if (s.col c.place.die c.place.col).inFlight ≥ Config.transfersPerColumn
          ∨ (turn.isNone ∧ s.copyWaiters c.place.die c.place.col) then wait none
      else match s.localReady c d 192 64 true with
        | .go =>
          let desc := CopyDesc.ofBytes (s.localBytes c d 192)
          let span := s.sourceSpan c desc
          let s := s.seeLocal c tid d 192
          let pts := s.ptsOf c.place tid
          let s := if desc.malformed span false (c.lmode.getLsbD 0) c.lsize then
              s.updBarrier c b.toNat pts fun o => o.abort o.phase
            else s.acceptCopy c ⟨1, acq, rel, scope, ft, some b, none, pts, t.fence⟩ desc
          let s := if acq then s.modThread c.place tid fun t => { t with fence := s.store } else s
          s.finish tid
        | .wait a _ => wait (some (BitVec.ofNat 32 a))
        | .bad e => s.raiseBad tid e

/-- XCOPY (10 R212): one thread after another. -/
def execXcopy (ft : Bool) (scope : Scope) (acq rel : Bool) (x y : VReg) (s : State) : Host.Outcome State Fault Refusal :=
  .next (s.inOrder (State.xcopyThread ft scope acq rel x y none))

/-! ## Read sectors -/

/-- Bytes of a range that the transfer has not read. -/
def Transfer.unread (t : Transfer) (a n : Nat) : List Nat :=
  ((List.range n).map (a + ·)).filter fun x => (t.byte? x).isNone

/-- The bytes of parts of a buffer that are still to be read, ascending. -/
def Transfer.unreadParts (t : Transfer) (src : Nat) (parts : List (Nat × Nat)) : List (Nat × Nat) :=
  readSectors ((parts.flatMap fun p => t.unread (src + p.1) p.2).foldl (fun l a => insertN a l) [])

/-- An expand goes on: after its header to the rest of its buffer, in ascending address, its parts as they stand (10 R213,
log 18); then to what the index that it read names besides (06 R144, R145, R149). None when the header or the index is
malformed. -/
def Transfer.expandOn (t : Transfer) (src len : Nat) (parts : List (Nat × Nat)) : Option Transfer :=
  match (t.bytesAt? src 64).bind cHeader with
  | none => none
  | some h =>
    if t.phase3 = 0 then
      if h.ulen ≠ len then none
      else
        let own := [(h.idxoff, 8 * (h.nblocks + 1))] ++ (if h.mapoff = 0 then [] else [(h.mapoff, ceilDiv h.nblocks 4)])
        some { t with phase3 := 1, reads := t.unreadParts src (parts ++ own) }
    else if t.phase3 = 1 then
      match t.bytesAt? (src + h.idxoff) (8 * (h.nblocks + 1)) with
      | none => none
      | some l =>
        let es := (List.range (h.nblocks + 1)).map fun i => fieldAt l (8 * i) 8
        if risingIndex es then
          some { t with phase3 := 2, reads := t.unreadParts src [(es.headD 0, es.getLastD 0 - es.headD 0)] }
        else none
    else some t

/-- A compress has read its source: its buffer is built (10 R209). -/
def Transfer.compressOn (t : Transfer) (draw : Nat) (xarg : W32) (src dst len dcap : Nat) : Transfer :=
  match t.bytesAt? src len with
  | none => t
  | some l =>
    let ps := compressed draw xarg l
    let cells := ps.flatMap fun p => (p.2.zipIdx (dst + p.1)).map fun x => (x.2, ByteSrc.const x.1)
    let ws := writeSectors cells
    { t with writes := ws, surplus := dcap - cellCount ws }

/-- What follows once every sector that was to be read has been read. -/
def State.readsDone (s : State) (c : Crew) (t : Transfer) : Option Transfer × State :=
  if t.reads ≠ [] then (some t, s)
  else match t.kind with
    | .copy 3 _ src _ len _ =>
      match t.expandOn src len (s.bufferParts c t.gsrc src) with
      | none => (none, s)
      | some u => if u.reads = [] ∧ u.phase3 = 1 then (u.expandOn src len [], s) else (some u, s)
    | .copy 4 xarg src dst len dcap =>
      if t.writes = [] then (some (t.compressOn s.oracle xarg src dst len dcap), { s with oracle := s.oracle + 1 })
      else (some t, s)
    | _ => (some t, s)

/-- COPY_SECTOR_READ (07 R154): the transfer's next source sector is read. -/
def execCopySectorRead (die col tag : Nat) (s : State) : Host.Outcome State Fault Refusal :=
  match (s.col die col).transfers.find? fun t => t.tag = tag with
  | none => .next s
  | some t => match s.crewByUid? t.uid, t.reads with
    | some c, (a, n) :: rest =>
      if t.waiting.isSome then .next s
      else match s.readSector c t t.gsrc a n with
        | (.wait, s) => .next s
        | (.stop b, s) => .next (s.stopTransfer c t b)
        | (.bytes l place pts, s) =>
          let cells := (l.zipIdx a).map fun x => (x.2, x.1)
          let t := { t with reads := rest, buf := t.buf ++ cells, place, pts, behindFill := false, idle := 0 }
          match s.readsDone c t with
          | (none, s) => .next (s.abortTransfer c t (Bad.plain .operandFormat))
          | (some t, s) =>
            let s := s.modTransfer c tag fun _ => t
            .next (if t.isFill then s.settleAllFills c else s)
    | _, _ => .next s

/-! ## Write sectors -/

/-- The guard is read before byte 0 and before each further 1,024 bytes (10 R220): none when no read is due or it gave
what was expected; else why the transfer, with the timestamp of the read, stops or waits. -/
inductive Guarded where
  | pass (t : Transfer)
  | stop (t : Transfer) (b : Bad)
  | wait
  deriving DecidableEq, Repr

def State.guardRead (s : State) (c : Crew) (t : Transfer) (n : Nat) : Guarded × State :=
  if t.guard = 0 ∨ t.written + n ≤ 1024 * t.gread then (.pass t, s)
  else match s.readSector c { t with place := s.store } true t.guard 4 with
    | (.wait, s) => (.wait, s)
    | (.stop b, s) => (.stop t b, s)
    | (.bytes l _ pts, s) =>
      if le32 l = t.gexp then (.pass { t with gread := t.gread + 1, pts }, s)
      else (.stop { t with pts } (Bad.at_ .accessTableDenied (BitVec.ofNat 64 t.guard)), s)

/-- The transfer's sectors have all been counted off: what is left over is counted, and, when none is late, it ends
(10 R213, R219). -/
def State.settleTransfer (s : State) (c : Crew) (t : Transfer) : State :=
  if t.reads ≠ [] ∨ t.writes ≠ [] ∨ t.late ≠ [] then s.modTransfer c t.tag fun _ => t
  else if t.fold.isSome then s.modTransfer c t.tag fun _ => t
  else if t.abortAtEnd then s.abortTransfer c t (Bad.plain .operandFormat)
  else s.dropTransfer c t.tag

/-- The bytes counted off with a sector: with the last one, also those that no sector counts (10 R213). An amax fold
holds the drain's last sector back (09 R202). -/
def Transfer.counted (t : Transfer) (n : Nat) : Nat := if t.writes.length ≤ 1 then n + t.surplus else n

/-- A sector that is ordered before the completion has been written (07 R157, R164). -/
def Transfer.wroteAt (ordered : Bool) (pts : Nat) (t : Transfer) : Transfer :=
  { t with pts, wrote := if ordered then some ((t.wrote.map (max pts)).getD pts) else t.wrote }

/-- One write sector lands: checked, then written and counted off, or counted off to be written later; its lines
released. A transfer that is to abort does so after its last sector has been counted, and a waiting BARW sees the count
first (DESIGN CHOICE, log 86). -/
def State.landSector (s : State) (c : Crew) (t : Transfer) (w : WSector) (l : List (Nat × W8)) (past : Bool) (late : Bool) :
    State :=
  let n := w.cells.length
  let t' := { t with writes := t.writes.drop 1, written := t.written + n, idle := 0, abortAtEnd := t.abortAtEnd || past }
  let countNow (s : State) (t' : Transfer) : State :=
    let s := if t'.writes = [] then s.sendStores t' else s
    -- the fold comes before the completion: the last sector's bytes are counted with it
    if t.fold.isSome ∧ t'.writes = [] then s.settleTransfer c { t' with surplus := t.counted n }
    else match s.countOff c t' (t.counted n) with
      | (false, s) => s
      | (true, s) =>
        let (t', s) := s.releaseLines c t'
        s.settleTransfer c t'
  if late then
    match s.writeCheck c t t.gdst l with
    | (.bad b, s) => s.abortTransfer c t b
    | (.wait x, s) => s.modTransfer c t.tag fun t => { t with waiting := some x }
    | (x, s) => match x.landing? with
      | some goal => countNow s { t' with late := t'.late ++ [⟨w.addr, l, goal⟩] }
      | none => s
  else match s.writeSector c t t.gdst l with
    | (.wait, s) => s
    | (.stop b, s) => s.abortTransfer c t b
    | (.done pts, s') => countNow s' (t'.wroteAt (s.orderedSector c t w.addr) pts)

/-- The oldest sector that was counted off before it was written is written, as it was admitted (08 R188); at a local
address that is valid no more, or with the host gone, it stops the transfer, and none after it is written (10 R214). -/
def State.landLate (s : State) (c : Crew) (t : Transfer) (x : LateSector) : State :=
  let gone : Option Bad := if t.gdst then none else s.checkLocal c x.addr (extentOf x.cells) 1
  match gone with
  | some b => s.abortTransfer c { t with late := [] } b
  | none => match s.writeAt c t x.cells x.goal with
    | (.wait, s) => s
    | (.stop b, s) => s.abortTransfer c { t with late := [] } b
    | (.done pts, s) =>
      let (t, s) := s.releaseLines c { t with late := t.late.drop 1, pts, idle := 0 }
      s.settleTransfer c t

/-- COPY_SECTOR_LAND (10 R213): the transfer's next destination sector lands; one that its completion need not follow
may be counted off once its checks have passed and be written later, in order (07 R157, log 4). A malformed block stream
gives OPERAND_FORMAT, which a prologue's binding error names (10 R221; DESIGN CHOICE, log 18). -/
def execCopySectorLand (die col tag : Nat) (s : State) : Host.Outcome State Fault Refusal :=
  match (s.col die col).transfers.find? fun t => t.tag = tag with
  | none => .next s
  | some t => match s.crewByUid? t.uid with
    | none => .next s
    | some c =>
      if t.waiting.isSome ∨ t.isFill then .next s
      else match t.late, t.writes with
        | [], [] => .next s
        | x :: _, [] => .next (s.landLate c t x)
        | late, w :: _ =>
          match t.ready w with
          | .waiting => .next (match late with
            | [] => s
            | x :: _ => s.landLate c t x)
          | .malformed => .next (s.abortTransfer c t (Bad.plain .operandFormat))
          | .bytes l past =>
            let free := !s.orderedSector c t w.addr && t.barrier.isSome && t.fold.isNone
            let (i, s) := s.pick (if free then 2 else 1)
            match late, i with
            | x :: _, 0 => .next (s.landLate c t x)
            | _, i =>
              match s.guardRead c t w.cells.length with
              | (.wait, s) => .next s
              | (.stop t b, s) => .next (s.abortTransfer c t b)
              | (.pass t, s) => .next ((s.modTransfer c tag fun _ => t).landSector c t w l past (i = 1))

/-! ## The amax fold (09 R202) -/

/-- The BF16 maximum of the drained elements. -/
def Transfer.amax (t : Transfer) : Nat :=
  match t.kind with
  | .drain d elems => (List.range 4096).foldl (fun m e => match t.drained? d elems e with
      | some v => amaxStep m v
      | none => m) 0
  | _ => 0

/-- AMAX_FOLD (09 R202, 07 R173): after the drain's stores, one atomic BF16 maximum; then the drain completes. A fold that
is refused sets the error bit. -/
def execAmaxFold (die col tag : Nat) (s : State) : Host.Outcome State Fault Refusal :=
  match (s.col die col).transfers.find? fun t => t.tag = tag with
  | none => .next s
  | some t => match s.crewByUid? t.uid, t.fold with
    | some c, some a =>
      if t.waiting.isSome ∨ t.writes ≠ [] ∨ t.late ≠ [] then .next s
      else
        let done (s : State) (t : Transfer) : State :=
          match s.countOff c t t.surplus with
          | (false, s) => s
          | (true, s) => s.dropTransfer c tag
        match s.globalSector c t a 2 .atomic with
        | (.wait w, s) => .next (s.modTransfer c tag fun t => { t with waiting := some w })
        | (.bad b, s) => .next (s.abortTransfer c t b)
        | (.device pa e, s) =>
          if s.poisoned pa 2 then .next (s.abortTransfer c t (Bad.at_ .memoryUncorrectable (BitVec.ofNat 64 a)))
          else
            let old := le32 (s.bytes .dev pa 2)
            let new := atomicNew .bfmax16 old (BitVec.ofNat 32 t.amax)
            -- with release the fold follows the drain's sectors, and the completion follows it (07 R164, R173)
            let (p, s) := s.devStore (s.floorPts die (max t.pts t.completion)) pa ((bytes32 new).take 2) (some e)
            .next (done s (t.wroteAt true p))
        | (_, s) => .next (s.abortTransfer c t ⟨.permission, some (BitVec.ofNat 64 a), syndrome 7 .atomic true .permission, 0⟩)
    | _, _ => .next s

/-! ## XLUT (10 R218) -/

/-- A copy in flight decodes by the slot. -/
def Transfer.namesSlot (k : Nat) (t : Transfer) : Bool :=
  match t.kind with
  | .copy 2 xarg _ _ _ _ => xarg.toNat % 4 == k
  | _ => false

/-- An XLUT of the column that waits. -/
def isLutWait : Wait → Bool
  | .lutSlot .. => true
  | _ => false
def State.lutWaiters (s : State) (die col : Nat) : Bool :=
  s.crews.any fun c => c.place.die = die && c.place.col = col && c.threads.any fun t => isLutWait t.wait

/-- One thread of XLUT (10 R218): behind those of its column that wait already, unless its own turn, by its serial, has
come. -/
def State.xlutThread (x : VReg) (slot : BitVec 2) (z : VReg) (turn : Option Nat) (s : State) (tid : Nat) : State :=
  s.withThread tid fun c t =>
    let a := (t.v x.toNat).toNat
    let n := (t.v z.toNat).toNat
    let wait (line : Option W32) : State :=
      { s.park c.place tid (.lutSlot (turn.getD s.serial) s.cur.word line) with serial := s.serial + 1 }
    if a % 16 ≠ 0 then s.raiseBad tid (Bad.local_ .alignment a)
    else if n % 16 ≠ 0 ∨ n < 16 ∨ 4096 < n then s.raise tid .operandFormat
    else if (s.col c.place.die c.place.col).transfers.any (Transfer.namesSlot slot.toNat)
        ∨ (turn.isNone ∧ s.lutWaiters c.place.die c.place.col) then wait none
    else match s.localReady c a n 16 true with
      | .go =>
        let s := s.seeLocal c tid a n
        let l := s.localBytes c a n
        let set_ (k : Column) : Column := { k with luts := k.luts.set slot.toNat ⟨n, some c.uid, l⟩ }
        (s.modCol c.place.die c.place.col set_).finish tid
      | .wait b _ => wait (some (BitVec.ofNat 32 b))
      | .bad e => s.raiseBad tid e

/-- XLUT (10 R218): one thread after another. -/
def execXlut (x : VReg) (slot : BitVec 2) (z : VReg) (s : State) : Host.Outcome State Fault Refusal :=
  .next (s.inOrder (State.xlutThread x slot z none))

/-! ## BARI, BARA, BARW, BART (10 R217, 14 R291) -/

/-- A thread's access to the object at V(X): its check, then what the instruction does with it. Each is a
read-modify-write, BARI among them (10 R215, 14 R291). -/
def State.barrierThread (x : VReg) (f : State → Crew → Thread → Nat → State) (s : State) (tid : Nat) : State :=
  s.withThread tid fun c t =>
    let b := (t.v x.toNat).toNat
    match s.barrierBad c b with
    | none => f s c t b
    | some e => s.raiseBad tid e

/-- A thread's read-modify-write of an object. -/
def State.threadUpd (s : State) (c : Crew) (tid b : Nat) (f : Barrier → Barrier) : State :=
  ((s.putBarrier c b f).markLocal c tid b 16).wakeBarriers

/-- After a BARI, a waiter whose phase differs from the one left wakes with c6 = 0: that of the object (14 R291). -/
def State.bariThread (x y : VReg) (s : State) (tid : Nat) : State :=
  s.barrierThread x (fun s c t b =>
    (s.threadUpd c tid b fun _ => ⟨0, false, false, (t.v y.toNat).toNat, 0⟩).finish tid) tid
/-- BARI. -/
def execBari (x y : VReg) (s : State) : Host.Outcome State Fault Refusal := .next (s.inOrder (State.bariThread x y))

def State.baraThread (x y : VReg) (s : State) (tid : Nat) : State :=
  s.barrierThread x (fun s c t b => (s.threadUpd c tid b (Barrier.arrive (t.v y.toNat).toNat)).finish tid) tid
/-- BARA. -/
def execBara (x y : VReg) (s : State) : Host.Outcome State Fault Refusal := .next (s.inOrder (State.baraThread x y))

def State.barwThread (x y : VReg) (s : State) (tid : Nat) : State :=
  s.barrierThread x (fun s c t b =>
    let o := s.barrier c b
    let ph := (t.v y.toNat).getLsbD 0
    if o.phase = ph then s.park c.place tid (.barrier (BitVec.ofNat 32 b) ph s.cur.word)
    else ((s.seeLocal c tid b 16).modThread c.place tid fun t => t.setC 6 o.error).finish tid) tid
/-- BARW. -/
def execBarw (x y : VReg) (s : State) : Host.Outcome State Fault Refusal := .next (s.inOrder (State.barwThread x y))

def State.bartThread (z x y : VReg) (s : State) (tid : Nat) : State :=
  s.barrierThread x (fun s c t b =>
    let o := s.barrier c b
    let done := o.phase != (t.v y.toNat).getLsbD 0
    ((s.seeLocal c tid b 16).modThread c.place tid fun t =>
      (t.setV z.toNat (if done then 1 else 0)).setC 6 (done && o.error)).finish tid) tid
/-- BART. -/
def execBart (z x y : VReg) (s : State) : Host.Outcome State Fault Refusal := .next (s.inOrder (State.bartThread z x y))

end Sys2Proof.Machine
end

