-- ==== Sys2Proof/Machine/Matrix.lean ====
section
/-! DEFINITION. The matrix engine: operand formats (09 R189), reservations and fills (09 R192 to R195), the operations
that the engine performs behind the threads (09 R196 to R198, R202), and what each crew-wide matrix instruction does once
its set is complete (09 R192 to R204, 16 R335 to R349, 17 R378). -/

namespace Sys2Proof.Machine

open Sys2Proof

/-! ## Operand formats (09 Tables 9.1 and 9.2) -/

/-- Width classes. -/
inductive MClass where
  | b16 | b8 | b4 | cx
  deriving DecidableEq, Repr

structure MFmt where
  cls : MClass
  /-- bits of an element; a complex value counts as one -/
  bits : Nat
  /-- the format of an element, or of a component -/
  fmt : Fmt
  scalable : Bool
  deriving DecidableEq, Repr

def mfmt? : Nat → Option MFmt
  | 0 => some ⟨.b16, 16, .fp16, false⟩
  | 1 => some ⟨.b16, 16, .bf16, false⟩
  | 2 => some ⟨.cx, 32, .fp16, false⟩
  | 3 => some ⟨.cx, 32, .bf16, false⟩
  | 4 => some ⟨.b8, 8, .e4m3, true⟩
  | 5 => some ⟨.b8, 8, .e5m2, true⟩
  | 6 => some ⟨.b4, 4, .e2m1, true⟩
  | 7 => some ⟨.b4, 4, .h4, true⟩
  | 8 => some ⟨.b8, 8, .h8, true⟩
  | 9 => some ⟨.b4, 4, .h4, false⟩
  | _ => none
def mfmt (code : Nat) : MFmt := (mfmt? code).getD ⟨.b16, 16, .fp16, false⟩

def MClass.k : MClass → Nat
  | .b16 => 32
  | .b8 => 64
  | .b4 => 128
  | .cx => 32
/-- The operand shapes of a class. -/
def MClass.shapes : MClass → List (Nat × Nat)
  | .b16 => [(64, 32), (32, 64)]
  | .b8 => [(64, 64)]
  | .b4 => [(64, 128), (128, 64)]
  | .cx => [(32, 32), (32, 64), (64, 16), (64, 32), (64, 64)]

def Reservation.q4n (r : Reservation) : Bool := r.fmt == 9
def Reservation.scaled (r : Reservation) : Bool := r.mode.getLsbD 0
def Reservation.sparse (r : Reservation) : Bool := r.mode.getLsbD 1
def Reservation.i48q2 (r : Reservation) : Bool := r.mode.getLsbD 2
def Reservation.m (r : Reservation) : MFmt := mfmt r.fmt
def Reservation.rowBytes (r : Reservation) : Nat := r.cols * r.m.bits / 8
/-- Bytes of one bitmap row: padded to a multiple of 8 (09 R193). -/
def bitmapRow (cols : Nat) : Nat := ceilDiv (ceilDiv cols 8) 8 * 8

/-- The tables of a range: offset and bytes. -/
def Reservation.tables (r : Reservation) : List (Nat × Nat) :=
  (if r.scaled then [(r.scaleoff, r.rows * r.cols / 32 * 2)] else [])
    ++ (if r.q4n then [(r.scaleoff, r.rows * r.cols / 64), (r.superoff, r.rows * r.cols / 64 * 4)] else [])
    ++ (if r.sparse then [(r.bmoff, r.rows * bitmapRow r.cols)] else [])

/-- The record of 09 Table 9.3. -/
def Reservation.ofBytes (l : List W8) : Reservation :=
  { fmt := fieldAt l 0 1, mode := BitVec.ofNat 8 (fieldAt l 1 1), blen := fieldAt l 2 2, oblen := fieldAt l 4 2
    rows := fieldAt l 6 2, cols := fieldAt l 8 2, x := BitVec.ofNat 16 (fieldAt l 0xA 2), scaleoff := fieldAt l 0xC 4
    superoff := fieldAt l 0x10 4, bmoff := fieldAt l 0x14 4, raw := l, data := [], zrows := []
    vcols := fieldAt l 8 2, bad := false }

/-- The malformed records of 09 R192. -/
def Reservation.malformed (r : Reservation) : Bool :=
  match mfmt? r.fmt with
  | none => true
  | some m =>
    let data := r.rows * r.cols * m.bits / 8
    let range := r.oblen * 256
    let usesScale := r.scaled || r.q4n
    decide (r.mode.toNat ≥ 8) || (r.scaled && !m.scalable)
      || (r.i48q2 && (decide (r.fmt ≠ 7 ∧ r.fmt ≠ 8) || r.scaled))
      || decide (r.blen ≠ (if r.scaled then 32 else if r.q4n then 64 else 0)) || decide (r.oblen = 0 ∨ r.oblen > 1024)
      || !m.cls.shapes.contains (r.rows, r.cols)
      || (if r.fmt = 6 then decide (r.x.toNat / 128 % 256 = 255) else decide (r.x ≠ 0))
      || decide (r.scaleoff % 16 ≠ 0 ∨ r.superoff % 16 ≠ 0 ∨ r.bmoff % 16 ≠ 0)
      || (!usesScale && decide (r.scaleoff ≠ 0)) || (!r.q4n && decide (r.superoff ≠ 0))
      || (!r.sparse && decide (r.bmoff ≠ 0)) || !((r.raw.drop 0x18).all fun b => b = 0)
      || decide (data > range) || r.tables.any fun t => decide (t.1 < data ∨ t.1 + t.2 > range)

/-! ## Elements of a range (09 R193) -/

/-- The bytes of a sparse memory from an address on. -/
def denseFrom : Nat → Nat → Memory → List W8
  | 0, _, _ => []
  | n + 1, a, [] => 0 :: denseFrom n (a + 1) []
  | n + 1, a, (k, v) :: t => if k = a then v :: denseFrom n (a + 1) t else 0 :: denseFrom n (a + 1) ((k, v) :: t)
def Reservation.bytes (r : Reservation) : List W8 := denseFrom (r.oblen * 256) 0 r.data

def fpOf (e : Elem) : Fp :=
  match e with
  | .fp x => x
  | .int i => .fin (decide (i < 0)) i.natAbs 0
def plusZero : Fp := .fin false 0 0

/-- The scale of block b, or the super-scale of a q4n block; none where it is not valid (05 R106, R108). -/
def Reservation.scale? (r : Reservation) (l : List W8) (b : Nat) : Option (Nat × Int) :=
  if r.q4n then positiveNormal .fp32 (fieldAt l (r.superoff + 4 * b) 4)
  else if r.scaled then positiveNormal .bf16 (fieldAt l (r.scaleoff + 2 * b) 2)
  else some (1, 0)
def Reservation.blocks (r : Reservation) : Nat :=
  if r.q4n then r.rows * r.cols / 64 else if r.scaled then r.rows * r.cols / 32 else 0
/-- Every scale of the range is valid (16 R338). -/
def Reservation.scalesValid (r : Reservation) : Bool :=
  let l := r.bytes
  (List.range r.blocks).all fun b => (r.scale? l b).isSome

/-- The value of element (i, j): its two components; none where its bitmap bit is 0. -/
def Reservation.elem (r : Reservation) (l : List W8) (i j : Nat) : Option (Fp × Fp) :=
  let e := i * r.cols + j
  if r.sparse && !((l.getD (r.bmoff + i * bitmapRow r.cols + j / 8) 0).getLsbD (j % 8)) then none
  else if r.zrows.contains i || decide (r.vcols ≤ j) then some (plusZero, plusZero)
  else
    let bit := e * r.m.bits
    let code := if r.m.bits = 4 then (l.getD (bit / 8) 0).toNat / 2 ^ (bit % 8) % 16 else fieldAt l (bit / 8) (r.m.bits / 8)
    let value (k : Nat) : Fp := fpOf (r.m.fmt.decode r.x k).1
    if r.m.cls = .cx then some (value (code % 65536), value (code / 65536))
    else if r.q4n then
      match r.scale? l (e / 64) with
      | none => some (plusZero, plusZero)
      | some s =>
        let q := fieldAt l (r.scaleoff + e / 64) 1
        let x := FpFmt.fp32.encode .rne false (unpackQ4n q s code) false
        some (FpFmt.fp32.decode x.1, plusZero)
    else match r.scale? l (e / 32) with
      | none => some (plusZero, plusZero)
      | some s => some (if r.scaled then mulPos (value code) s else value code, plusZero)

def Reservation.matrix (r : Reservation) : List (List (Option (Fp × Fp))) :=
  let l := r.bytes
  (List.range r.rows).map fun i => (List.range r.cols).map fun j => r.elem l i j

/-! ## Accumulation (05 R113) -/

def sumRes : List Res → Res
  | [] => .val ⟨false, 0, 0⟩
  | x :: t => t.foldl (Res.add .rne) x

/-- The products of one pair of elements in a component: real, or the real or imaginary part of a complex product. -/
def products (cx imag : Bool) (a b : Option (Fp × Fp)) : List Res :=
  match a, b with
  | some a, some b =>
    if !cx then [a.1.mulRes b.1]
    else if imag then [a.1.mulRes b.2, a.2.mulRes b.1]
    else [a.1.mulRes b.1, (a.2.mulRes b.2).neg]
  | _, _ => [.val ⟨false, 0, 0⟩]

/-- The exact sums of the groups of 16. -/
def groupSums (cx imag : Bool) : Nat → List (Option (Fp × Fp)) → List (Option (Fp × Fp)) → List Res
  | 0, _, _ => []
  | n + 1, as, bs =>
    sumRes (((as.take 16).zip (bs.take 16)).flatMap fun x => products cx imag x.1 x.2)
      :: groupSums cx imag n (as.drop 16) (bs.drop 16)

/-- An exact sum in quarters. -/
def quarters : Res → Int
  | .val x => (if x.neg then -1 else 1) * ((x.m * 2 ^ (x.e + 2).toNat : Nat) : Int)
  | _ => 0
def accumulate (i48q2 : Bool) (acc : W48) (s : Res) : W48 :=
  if i48q2 then sat48 (acc.toInt + quarters s) else fa48Add acc s

def transpose (cols : Nat) (m : List (List (Option (Fp × Fp)))) : List (List (Option (Fp × Fp))) :=
  (List.range cols).map fun j => m.map fun row => row.getD j none

/-- A × B added to elements from `start` on: rows of A, columns of B, K, complex or real. -/
def multiplyInto (i48q2 cx : Bool) (k : Nat) (rows cols : List (List (Option (Fp × Fp)))) (old : List W48) : List W48 :=
  let sums := rows.flatMap fun a => cols.flatMap fun b =>
    if cx then [groupSums true false (k / 16) a b, groupSums true true (k / 16) a b] else [groupSums false false (k / 16) a b]
  (old.zip sums).map (fun x => x.2.foldl (accumulate i48q2) x.1) ++ old.drop sums.length

def denseTile : Nat → Nat → List (Nat × W48) → List W48
  | 0, _, _ => []
  | n + 1, i, [] => 0 :: denseTile n (i + 1) []
  | n + 1, i, (k, v) :: t => if k = i then v :: denseTile n (i + 1) t else 0 :: denseTile n (i + 1) ((k, v) :: t)
def Tile.list (t : Tile) : List W48 := denseTile 4096 0 t.elems
def sparseTile (l : List W48) : List (Nat × W48) := l.zipIdx.filterMap fun x => if x.1 = 0 then none else some (x.2, x.1)

/-- The generated operand of MDFT, by columns: ω^(kj) rounded to FP32 and then to the operand's format (05 R111). -/
def dftColumns (inv : Bool) (f : Fmt) (lg : Nat) : List (List (Option (Fp × Fp))) :=
  let n := 2 ^ lg
  let value (code : Nat) : Fp := fpOf (f.decode 0 (convertElem f .fp32 .rne false 0 code).1).1
  (List.range n).map fun j => (List.range n).map fun k =>
    let w := twiddle .fp32 inv (k * j) lg
    some (value w.1.1, value w.2.1)

def dftLog : DftLen → Nat
  | .n16 => 4
  | .n32 => 5
  | .n64 => 6

/-! ## The engine's queue (09 R196) -/

/-- The tiles that an operation acts on. -/
def opTiles (uid : Nat) (twin : Option Nat) : Instr → List (Nat × Nat)
  | .mma a _ _ _ | .mmac a _ _ _ | .mzro _ a _ => [(uid, a.toNat)]
  | .mdft _ n a _ _ => if n = .n64 then [(uid, a.toNat), (uid, a.toNat + 1)] else [(uid, a.toNat)]
  | .mdrn a _ _ => (uid, a.toNat) :: (twin.map fun u => (u, a.toNat)).toList
  | _ => []
def MatOp.tiles (o : MatOp) : List (Nat × Nat) := opTiles o.uid o.twin o.instr
/-- The ranges that an operation reads. -/
def MatOp.ranges (o : MatOp) : List (Nat × Nat) :=
  match o.instr with
  | .mma _ a b _ | .mmac _ a b _ => [(o.uid, a.toNat), (o.uid, b.toNat)]
  | .mdft _ _ _ a _ => [(o.uid, a.toNat)]
  | _ => []

def shares (a b : List (Nat × Nat)) : Bool := a.any fun x => b.contains x

/-- An operation whose fills are complete and before which no earlier one acts on its tiles. -/
def Column.canRun (k : Column) (o : MatOp) : Bool :=
  !(k.transfers.any fun t => o.fills.contains t.tag) && !(k.ops.any fun p => decide (p.id < o.id) && shares p.tiles o.tiles)

def Crew.tile (c : Crew) (n : Nat) : Tile := c.tiles.getD n ⟨[], false, false, false⟩
def Crew.range? (c : Crew) (n : Nat) : Option Reservation := (c.ob[n]?).join
def Crew.setTile (c : Crew) (n : Nat) (l : List W48) : Crew :=
  { c with tiles := c.tiles.modify n fun t => { t with elems := sparseTile l } }

/-- The crew after an MMA, MMAC, MDFT or MZRO has acted on its tiles (09 R197, R198). -/
def Crew.matrixEffect (c : Crew) (i : Instr) : Crew :=
  match i with
  | .mma x a b _ => match c.range? a.toNat, c.range? b.toNat with
    | some ra, some rb =>
      let t := c.tile x.toNat
      c.setTile x.toNat (multiplyInto ra.i48q2 false ra.m.cls.k ra.matrix (transpose rb.cols rb.matrix) t.list)
    | _, _ => c
  | .mmac x a b _ => match c.range? a.toNat, c.range? b.toNat with
    | some ra, some rb =>
      let t := c.tile x.toNat
      c.setTile x.toNat (multiplyInto false true 32 ra.matrix (transpose rb.cols rb.matrix) t.list)
    | _, _ => c
  | .mdft inv n x a _ => match c.range? a.toNat with
    | some ra =>
      let old := (c.tile x.toNat).list ++ (if n = .n64 then (c.tile (x.toNat + 1)).list else [])
      let new := multiplyInto false true (2 ^ (dftLog n)) ra.matrix (dftColumns inv ra.m.fmt (dftLog n)) old
      let c := c.setTile x.toNat (new.take 4096)
      if n = .n64 then c.setTile (x.toNat + 1) (new.drop 4096) else c
    | none => c
  | .mzro i48q2 x _ => { c with tiles := c.tiles.modify x.toNat fun t => { t with elems := [], i48q2, bad := false } }
  | _ => c

/-- The elements a drain takes, after step 1 of 09 R202: of a guided drain in a pair, from both twins' tiles. -/
def State.drainElems (s : State) (c : Crew) (o : MatOp) (d : DrainDesc) (tile : Nat) : List (Nat × W48) :=
  let own (c : Crew) : List W48 := let t := c.tile tile
    t.list.map (tileFa48 t.i48q2)
  match o.twin.bind fun u => s.crewByUid? u with
  | none => sparseTile (own c)
  | some q =>
    let (u, w) := if c.first then (c, q) else (q, c)
    sparseTile (((own u).zip (own w)).map fun x => guide d.g x.1 x.2)

/-- The drain's transfer begins: it reads the residual rows and stores the output rows (09 R202). -/
def State.beginDrain (s : State) (c : Crew) (o : MatOp) (d : DrainDesc) (phase : Bool) (tile : Nat) : State :=
  let w := d.fmt.width
  let row (r : Nat) : List (Nat × ByteSrc) :=
    let a := d.dst + r * d.pitch
    if w = 4 then (List.range 32).map fun b => (a + b, ByteSrc.drain (64 * r + 2 * b) none)
    else (List.range d.rowBytes).map fun b => (a + b, ByteSrc.drain (64 * r + b / (w / 8)) (some (b % (w / 8))))
  let reads := if d.residual then mergeSectors ((List.range 64).flatMap fun r => sectorsOf (d.resid + r * d.pitch) (64 * d.rsize)) else []
  let k : Command := ⟨2, false, d.release, d.scope, false, some d.barrier, none, s.floorPts c.place.die o.pts, o.fence⟩
  let t := s.newTransfer c k (.drain d (s.drainElems c o d tile)) false false reads (writeSectors ((List.range 64).flatMap row))
  s.pushTransfer c { t with phase, fold := if d.amaxOn then some d.amax else none }

/-- A range or a tile that the operation reads is damaged as it is performed: a check has failed since its acceptance (11
Table 11.6). -/
def MatOp.damaged (o : MatOp) (c : Crew) : Bool :=
  (o.ranges.any fun x => x.1 = c.uid && (c.range? x.2).any Reservation.bad)
    || (match o.instr with
      | .mzro _ _ _ => false
      | _ => o.tiles.any fun x => x.1 = c.uid && (c.tile x.2).bad)

/-- An operation whose operands are damaged changes nothing: its last signer takes MEMORY_UNCORRECTABLE, and a drain's
object is marked (10 R214). -/
def State.spoilt (s : State) (c : Crew) (o : MatOp) : State :=
  let s := match o.drain with
    | some (d, phase) =>
      if (s.barrierBad c d.barrier.toNat).isSome then s
      else s.updBarrier c d.barrier.toNat (s.floorPts c.place.die o.pts) (Barrier.abort phase)
    | none => s
  s.faultBehind c.uid o.last (Bad.plain .memoryUncorrectable) o.pc (some (encode o.instr))

/-- MATRIX_OPERATION_FINISHED (09 R196): the engine has performed an operation: one of those of which each tile has no
earlier one. A drain has taken its elements, and its stores begin. -/
def execMatrixOperationFinished (die col : Nat) (s : State) : Host.Outcome State Fault Refusal :=
  let k := s.col die col
  let os := k.ops.filter k.canRun
  let (i, s) := s.pick os.length
  match os[i]? with
  | none => .next s
  | some o =>
    let s := s.modCol die col fun k => { k with ops := k.ops.filter fun p => p.id ≠ o.id, hang := 0 }
    match s.crewByUid? o.uid with
    | none => .next s
    | some c =>
      let twinBad := o.drain.isSome && (o.twin.bind s.crewByUid?).any fun q => o.tiles.any fun x => x.1 = q.uid && (q.tile x.2).bad
      if o.damaged c ∨ twinBad then .next (s.spoilt c o)
      else match o.instr, o.drain with
        | .mdrn x _ _, some (d, phase) => .next (s.beginDrain c o d phase x.toNat)
        | i, _ => .next (s.modUid o.uid fun c => c.matrixEffect i)

/-! ## What a complete set does -/

/-- How the once-performed operation ends: performed; the last signer takes a cause (02 R37); every signer takes one
(09 R204); or it waits, with its set complete; or its last signer waits for a walk and then signs again (08 R181). -/
inductive Perf where
  | done
  | last (b : Bad)
  | every (c : Cause)
  | hold (why : HeldWhy)
  | walk (va : W64)
  deriving DecidableEq, Repr

def perfPlain (c : Cause) : Perf := .last (Bad.plain c)

/-- The register of the last signer. -/
def Crew.lastV (c : Crew) (tid : Nat) (r : VReg) : W32 := ((c.threads[tid]?).map fun t => t.v r.toNat).getD 0
def Crew.lastPair (c : Crew) (tid : Nat) (r : VReg) : W64 := ((c.threads[tid]?).map fun t => t.pair r.toNat).getD 0

/-- n local bytes read for a crew-wide operation. -/
def State.crewRead (s : State) (c : Crew) (tid a n align : Nat) : Except Perf (List W8) × State :=
  match s.localReady c a n align true with
  | .bad b => (.error (.last b), s)
  | .wait _ _ => (.error (.hold .line), s)
  | .go => (.ok (s.localBytes c a n), s.seeLocal c tid a n)

/-- Bytes of the operand buffer that the column's reservations take (09 R192). -/
def State.operandUsed (s : State) (c : Crew) : Nat :=
  (s.crews.filter fun k => k.place.die = c.place.die ∧ k.place.col = c.place.col).foldl
    (fun n k => k.ob.foldl (fun n r => n + ((r.map Reservation.oblen).getD 0) * 256) n) 0

/-- Fills in flight into a range. -/
def State.fillsInto (s : State) (c : Crew) (ob : Nat) : List Nat :=
  ((s.col c.place.die c.place.col).transfers.filter fun t => t.fills.contains (c.uid, ob)).map Transfer.tag
/-- An operation in the engine reads the range. -/
def State.rangeRead (s : State) (c : Crew) (ob : Nat) : Bool :=
  (s.col c.place.die c.place.col).ops.any fun o => o.ranges.contains (c.uid, ob)

/-- OBRES (09 R192). -/
def State.performObres (s : State) (c : Crew) (tid : Nat) (ob : BitVec 4) (y : VReg) : Perf × State :=
  match s.crewRead c tid (c.lastV tid y).toNat 32 32 with
  | (.error p, s) => (p, s)
  | (.ok l, s) =>
    let r := Reservation.ofBytes l
    if (c.range? ob.toNat).isSome ∨ r.malformed then (perfPlain .operandFormat, s)
    else if s.operandUsed c + r.oblen * 256 > Config.operandBytes then (.hold .space, s)
    else (.done, s.modCrew c.place fun c => { c with ob := c.ob.set ob.toNat (some r) })

/-- OBREL (09 R193, 16 R349): after every earlier operation that reads the range; a fill still under way writes it no
more. -/
def State.performObrel (s : State) (c : Crew) (ob : BitVec 4) : Perf × State :=
  if (c.range? ob.toNat).isNone then (.done, s)
  else if s.rangeRead c ob.toNat then (.hold .order, s)
  else
    let s := s.modCol c.place.die c.place.col fun k => { k with transfers := k.transfers.map (Transfer.spare (c.uid, ob.toNat)) }
    (.done, s.modCrew c.place fun c => { c with ob := c.ob.set ob.toNat none })

/-- The tile handle of 09 Table 9.4. -/
structure Handle where
  base : Nat
  scales : Nat
  bitmap : Nat
  rows : Nat
  cols : Nat
  pitch : Nat
  fmt : Nat
  mode : Nat
  deriving DecidableEq, Repr

def Handle.ofBytes (l : List W8) : Handle :=
  ⟨fieldAt l 0 8, fieldAt l 8 8, fieldAt l 0x10 8, fieldAt l 0x18 2, fieldAt l 0x1A 2, 16 * fieldAt l 0x1C 2,
   fieldAt l 0x1E 1, fieldAt l 0x1F 1⟩

/-- The OBLDs that take OPERAND_FORMAT (09 R194). -/
def handleBad (r : Reservation) (h : Handle) (row0 col0 : Nat) : Bool :=
  decide (h.fmt ≠ r.fmt ∨ h.mode % 4 ≠ r.mode.toNat % 4 ∨ h.mode ≥ 4 ∨ row0 % r.rows ≠ 0 ∨ col0 % r.cols ≠ 0 ∨ h.rows = 0
    ∨ h.cols = 0 ∨ h.pitch < ceilDiv (h.cols * r.m.bits) 8 ∨ (!(r.scaled || r.q4n) ∧ h.scales ≠ 0)
    ∨ (!r.sparse ∧ h.bitmap ≠ 0) ∨ (r.scaled ∧ h.cols % 32 ≠ 0) ∨ (r.q4n ∧ h.cols % 64 ≠ 0))

/-- The bytes of a range that a fill writes, by offset: data, scales, super-scales, bitmap (09 R193, R194). -/
def fillCells (r : Reservation) (h : Handle) (row0 col0 : Nat) : List (Nat × ByteSrc) :=
  let inRow (i : Nat) : Bool := decide (row0 + i < h.rows)
  let mem (a : Nat) : ByteSrc := .mem (a % 2 ^ 64)
  let data := (List.range r.rows).flatMap fun i =>
    let valid := ceilDiv ((min r.cols (h.cols - col0)) * r.m.bits) 8
    (List.range r.rowBytes).map fun b =>
      (i * r.rowBytes + b, if inRow i ∧ b < valid then mem (h.base + (row0 + i) * h.pitch + col0 * r.m.bits / 8 + b)
        else .const 0)
  let blk (len b : Nat) : Option Nat :=
    let i := b * len / r.cols
    let j := b * len % r.cols
    if inRow i ∧ col0 + j < h.cols then some (((row0 + i) * h.cols + col0 + j) / len) else none
  let table (len size off base : Nat) (perGroup : Nat) (neutral : Nat) : List (Nat × ByteSrc) :=
    (List.range (r.rows * r.cols / len)).flatMap fun b =>
      (List.range size).map fun k => (off + size * b + k, match blk len b with
        | some g => mem (base + size * (g / perGroup) + k)
        | none => .const (BitVec.ofNat 8 (neutral / 2 ^ (8 * k))))
  let nq := ceilDiv (h.rows * h.cols) 64
  let scale := if r.scaled then table 32 2 r.scaleoff h.scales 1 0x3F80 else []
  let q := if r.q4n then table 64 1 r.scaleoff h.scales 1 0
      ++ table 64 4 r.superoff (h.scales + 16 * ceilDiv nq 16) 256 0x3F800000 else []
  let rowB := bitmapRow r.cols
  -- the bits of columns outside the matrix read as 0
  let bm := if r.sparse then (List.range r.rows).flatMap fun i => (List.range rowB).map fun b =>
      let a := (h.bitmap + (row0 + i) * bitmapRow h.cols + col0 / 8 + b) % 2 ^ 64
      (r.bmoff + i * rowB + b,
        if !inRow i || decide (ceilDiv r.cols 8 ≤ b) || decide (h.cols ≤ col0 + 8 * b) then .const 0
        else if h.cols < col0 + 8 * b + 8 then .low a (h.cols - (col0 + 8 * b)) else .mem a) else []
  data ++ scale ++ q ++ bm

def sourcesOf (l : List (Nat × ByteSrc)) : List Nat :=
  (l.reverse.filterMap fun x => match x.2 with
    | .mem a | .low a _ => some a
    | _ => none).foldl (fun l a => insertN a l) []

/-- Check each page of a fill in ascending order (08 R179): the first check that stops it. -/
def State.checkPages (s : State) (c : Crew) (tid : Nat) : List Nat → Option Perf × State
  | [] => (none, s)
  | p :: ps => match s.check c.place tid (BitVec.ofNat 64 p) 1 .read 2 with
    | (.bad b, s) => (some (.last b), s)
    | (.walk, s) => (some (.walk (BitVec.ofNat 64 p)), s)
    | (_, s) => s.checkPages c tid ps

/-- The first bytes of the pages of an ascending list of bytes. -/
def firstOfPages : List Nat → List Nat
  | [] => []
  | a :: t => match firstOfPages t with
    | b :: r => if a / 4096 = b / 4096 then a :: r else a :: b :: r
    | [] => [a]

/-- A handle read by an engine of the crew's column, unless it is known already. -/
def State.readHandle (s : State) (c : Crew) (tid : Nat) (va : W64) (known : Option (List W8)) : Except Perf (List W8) × State :=
  match known with
  | some l => (.ok l, s)
  | none => match s.check c.place tid va 32 .read 2 with
    | (.walk, s) => (.error (.walk va), s)
    | (k, s) => match s.loadOk c.place tid va 32 k with
      | (.ok l, s) => (.ok l, s)
      | (.error b, s) => (.error (.last b), s)

/-- What an OBLD fills, once its checks have passed, and the handle that it read. -/
structure FillPlan where
  handle : List W8
  cells : List (Nat × ByteSrc)
  zrows : List Nat
  vcols : Nat
  deriving DecidableEq, Repr

/-- The checks of OBLD (09 R194), and what it fills; the handle may be read already, for the twin (09 R204). -/
def State.planObld (s : State) (c : Crew) (tid : Nat) (ob : BitVec 4) (y z : VReg) (known : Option (List W8)) :
    Except Perf FillPlan × State :=
  match c.range? ob.toNat with
  | none => (.error (perfPlain .operandFormat), s)
  | some r =>
    let at_ := c.lastV tid z
    let row0 := at_.toNat % 65536
    let col0 := at_.toNat / 65536
    if s.rangeRead c ob.toNat then (.error (.hold .order), s)
    else if (s.col c.place.die c.place.col).inFlight ≥ Config.transfersPerColumn then (.error (.hold .slots), s)
    else match s.readHandle c tid (c.lastPair tid y) known with
      | (.error p, s) => (.error p, s)
      | (.ok l, s) =>
        let h := Handle.ofBytes l
        if handleBad r h row0 col0 then (.error (perfPlain .operandFormat), s)
        else
          let cells := fillCells r h row0 col0
          match s.checkPages c tid (firstOfPages (sourcesOf cells)) with
          | (some p, s) => (.error p, s)
          | (none, s) =>
            (.ok ⟨l, cells, (List.range r.rows).filter fun i => decide (h.rows ≤ row0 + i), min r.cols (h.cols - col0)⟩, s)

def FillPlan.into (p : FillPlan) (c : Crew) (ob : BitVec 4) : FillInto := ⟨c.uid, ob.toNat, p.cells, p.zrows, p.vcols⟩

/-- A crew's last signer of an operation: serial, tid, PC and word (02 R37). -/
def Crew.signer (c : Crew) (tid : Nat) : List (Nat × Nat × W64 × W32) :=
  ((c.threads[tid]?).bind fun t => match t.wait with
    | .convergence _ w => some (c.uid, tid, t.pc, w)
    | _ => none).toList

/-- The fill is accepted, of one range or of both twins': its sectors are read behind the threads, without acquire (09
R194, R204). -/
def State.acceptFill (s : State) (c : Crew) (tid : Nat) (into : List FillInto) (signers : List (Nat × Nat × W64 × W32)) : State :=
  let fence := ((c.threads[tid]?).map Thread.fence).getD 0
  let k : Command := ⟨2, false, false, .crew, false, none, none, s.ptsOf c.place tid, fence⟩
  let t := s.newTransfer c k (.fill into) true false (readSectors (sourcesOf (into.flatMap FillInto.cells))) []
  (s.pushTransfer c { t with signers }).settleAllFills c

/-- OBLD of one crew alone. -/
def State.performObld (s : State) (c : Crew) (tid : Nat) (ob : BitVec 4) (y z : VReg) : Perf × State :=
  match s.planObld c tid ob y z none with
  | (.error p, s) => (p, s)
  | (.ok p, s) => (.done, s.acceptFill c tid [p.into c ob] (c.signer tid))

/-- The rows that OBGAT gathers: their bytes, none for a row of zeros. A row is read at any address, its elements aligned or
not (DESIGN CHOICE, log 20). -/
def State.gatherRows (s : State) (c : Crew) (tid base pitch n : Nat) : List Nat → Except Perf (List (Option (List W8))) × State
  | [] => (.ok [], s)
  | ix :: r =>
    if ix = 0xFFFF then
      match s.gatherRows c tid base pitch n r with
      | (.ok l, s) => (.ok (none :: l), s)
      | (.error p, s) => (.error p, s)
    else
      match s.crewRead c tid ((base + ix * pitch) % 2 ^ 32) n 1 with
      | (.error p, s) => (.error p, s)
      | (.ok x, s) => match s.gatherRows c tid base pitch n r with
        | (.ok l, s) => (.ok (some x :: l), s)
        | (.error p, s) => (.error p, s)

/-- OBGAT (09 R195). -/
def State.performObgat (s : State) (c : Crew) (tid : Nat) (ob : BitVec 4) (y z : VReg) : Perf × State :=
  match c.range? ob.toNat with
  | none => (perfPlain .operandFormat, s)
  | some r =>
    let iv := (c.lastV tid y).toNat
    if r.scaled ∨ r.q4n ∨ r.sparse then (perfPlain .operandFormat, s)
    else if s.rangeRead c ob.toNat ∨ s.fillsInto c ob.toNat ≠ [] then (.hold .order, s)
    else if iv % 4 ≠ 0 then (.last (Bad.local_ .alignment iv), s)
    else match s.crewRead c tid iv (4 + 2 * r.rows) 1 with
      | (.error p, s) => (p, s)
      | (.ok l, s) =>
        let pitch := fieldAt l 0 4
        if pitch % 4 ≠ 0 then (perfPlain .operandFormat, s)
        else
          let ixs := (List.range r.rows).map fun i => fieldAt l (4 + 2 * i) 2
          match s.gatherRows c tid (c.lastV tid z).toNat pitch r.rowBytes ixs with
          | (.error p, s) => (p, s)
          | (.ok rows, s) =>
            let upd (m : Memory) : Memory := rows.zipIdx.foldl
              (fun m x => Memory.writeL m (x.2 * r.rowBytes) (x.1.getD (zeros r.rowBytes))) m
            let zrows := rows.zipIdx.filterMap fun x => if x.1.isNone then some x.2 else none
            (.done, s.modCrew c.place fun c => { c with
              ob := c.ob.modify ob.toNat (Option.map fun q => ({ q with data := upd q.data, zrows, vcols := r.cols, bad := false } : Reservation)) })

/-! ## Tiles and tokens (09 R198, R199) -/

/-- The tiles lie below the crew's count and their tokens on the matrix side. -/
def Crew.matrixSide (c : Crew) (xs : List Nat) : Bool := xs.all fun x => decide (x < c.tiles.length) && !(c.tile x).vector
/-- The latest MZRO of a tile that the engine has not come to. -/
def State.zeroing? (s : State) (c : Crew) (x : Nat) : Option Bool :=
  (s.col c.place.die c.place.col).ops.foldl (fun r o => match o.instr with
    | .mzro q a _ => if o.uid = c.uid ∧ a.toNat = x then some q else r
    | _ => r) none
/-- A tile's type, and whether its error stands, as an operation accepted now finds them (09 R196, R198). -/
def State.tileType (s : State) (c : Crew) (x : Nat) : Bool := (s.zeroing? c x).getD (c.tile x).i48q2
def State.tilesDamaged (s : State) (c : Crew) (xs : List Nat) : Bool :=
  xs.any fun x => (c.tile x).bad && (s.zeroing? c x).isNone
/-- The same for ranges, behind the fills that precede it. -/
def State.rangesDamaged (s : State) (c : Crew) (obs : List Nat) : Bool :=
  obs.any fun k => ((c.range? k).any Reservation.bad) && s.fillsInto c k = []

/-- An operation is accepted into the engine: the signers proceed, and it holds its place (02 R34). -/
def State.acceptOp (s : State) (c : Crew) (tid : Nat) (i : Instr) (cv : Nat) (obs : List Nat)
    (drain : Option (DrainDesc × Bool)) (twin : Option Nat) : State :=
  let th := c.threads[tid]?
  let o : MatOp :=
    { id := s.serial, uid := c.uid, instr := i, last := tid, pc := (th.map Thread.pc).getD 0, cv,
      fills := obs.flatMap (s.fillsInto c), drain, twin, pts := s.ptsOf c.place tid, fence := (th.map Thread.fence).getD 0 }
  { s.modCol c.place.die c.place.col (fun k => { k with ops := k.ops ++ [o] }) with serial := s.serial + 1 }

/-- The checks of MMA and MMAC (09 R197, 16 R338). -/
def State.multiplyPerf (s : State) (c : Crew) (cx : Bool) (x : Nat) (a b : Nat) : Perf :=
  if !c.matrixSide [x] then perfPlain .tokenViolation
  else match c.range? a, c.range? b with
    | some ra, some rb =>
      let k := ra.m.cls.k
      let shaped := if cx then ra.m.cls = .cx ∧ (ra.rows, ra.cols) = (32, 32) ∧ (rb.rows, rb.cols) = (32, 64)
        else ra.m.cls ≠ .cx ∧ (ra.rows, ra.cols) = (64, k) ∧ (rb.rows, rb.cols) = (k, 64)
      if ¬shaped ∨ ra.m.cls ≠ rb.m.cls ∨ ra.i48q2 ≠ rb.i48q2 ∨ ra.i48q2 ≠ s.tileType c x then perfPlain .operandFormat
      else
        let reads := ra.blocks ≠ 0 ∨ rb.blocks ≠ 0
        if reads ∧ (s.fillsInto c a ≠ [] ∨ s.fillsInto c b ≠ []) then .hold .fills
        else if s.rangesDamaged c [a, b] ∨ s.tilesDamaged c [x] then
          perfPlain .memoryUncorrectable
        else if !ra.scalesValid ∨ !rb.scalesValid then perfPlain .operandFormat
        else .done
    | _, _ => perfPlain .operandFormat

def State.performMultiply (s : State) (c : Crew) (tid : Nat) (i : Instr) (cx : Bool) (x : BitVec 3) (a b : BitVec 4)
    (cv : CBit) : Perf × State :=
  match s.multiplyPerf c cx x.toNat a.toNat b.toNat with
  | .done => (.done, s.acceptOp c tid i cv.toNat [a.toNat, b.toNat] none none)
  | p => (p, s)

/-- MDFT's checks in their order (16 R335). -/
def State.performMdft (s : State) (c : Crew) (tid : Nat) (i : Instr) (n : DftLen) (x : BitVec 3) (a : BitVec 4) (cv : CBit) :
    Perf × State :=
  let xs := if n = .n64 then [x.toNat, x.toNat + 1] else [x.toNat]
  if !c.matrixSide xs then (perfPlain .tokenViolation, s)
  else match c.range? a.toNat with
    | none => (perfPlain .operandFormat, s)
    | some r =>
      if r.m.cls ≠ .cx ∨ r.scaled ∨ r.sparse ∨ r.i48q2 ∨ r.rows ≠ 64 ∨ r.cols ≠ 2 ^ (dftLog n) ∨ xs.any (s.tileType c) then
        (perfPlain .operandFormat, s)
      else if s.rangesDamaged c [a.toNat] ∨ s.tilesDamaged c xs then (perfPlain .memoryUncorrectable, s)
      else (.done, s.acceptOp c tid i cv.toNat [a.toNat] none none)

/-- MZRO (09 R198, 16 R344): the elements clear, and the type changes, in the engine's order (09 R196). -/
def State.performMzro (s : State) (c : Crew) (tid : Nat) (i : Instr) (x : BitVec 3) (cv : CBit) : Perf × State :=
  if !c.matrixSide [x.toNat] then (perfPlain .tokenViolation, s) else (.done, s.acceptOp c tid i cv.toNat [] none none)

/-- An operation in the engine, or a drain's reads, act on the tile. -/
def State.tileBusy (s : State) (c : Crew) (x : Nat) : Bool :=
  (s.col c.place.die c.place.col).ops.any fun o => o.tiles.contains (c.uid, x)

/-- TKGET and TKPUT (09 R199, 17 R378). -/
def State.performToken (s : State) (c : Crew) (x : BitVec 3) (vector : Bool) : Perf × State :=
  if c.tiles.length ≤ x.toNat then (perfPlain .tokenViolation, s)
  else if vector ∧ s.tileBusy c x.toNat then (.hold .order, s)
  else (.done, s.modCrew c.place fun c => { c with tiles := c.tiles.modify x.toNat fun t => { t with vector } })

/-- MDRN's checks (09 R201, 16 R336): its descriptor. -/
def State.planMdrn (s : State) (c : Crew) (tid : Nat) (x : BitVec 3) (y : VReg) : Except Perf DrainDesc × State :=
  if !c.matrixSide [x.toNat] then (.error (perfPlain .tokenViolation), s)
  else match s.crewRead c tid (c.lastV tid y).toNat 64 64 with
    | (.error p, s) => (.error p, s)
    | (.ok l, s) =>
      let d := DrainDesc.ofBytes l
      if drainMalformed l (s.desc c.at_).paired then (.error (perfPlain .operandFormat), s)
      else match s.barrierBad c d.barrier.toNat with
        | some b => (.error (.last b), s)
        | none =>
          if s.tilesDamaged c [x.toNat] then (.error (perfPlain .memoryUncorrectable), s)
          else if (s.col c.place.die c.place.col).inFlight ≥ Config.transfersPerColumn then (.error (.hold .slots), s)
          else (.ok d, s)

/-- The drain is accepted: one arrival with its output bytes (09 R202, 16 R336). -/
def State.acceptDrain (s : State) (c : Crew) (tid : Nat) (i : Instr) (cv : Nat) (d : DrainDesc) (twin : Option Nat) : State :=
  let s := s.updBarrier c d.barrier.toNat (s.ptsOf c.place tid) (Barrier.arrive (64 * d.rowBytes))
  s.acceptOp c tid i cv [] (some (d, (s.barrier c d.barrier.toNat).phase)) twin

/-- MDRN of one crew alone: a guided one drains nothing (09 R204, R420). -/
def State.performMdrn (s : State) (c : Crew) (tid : Nat) (i : Instr) (x : BitVec 3) (y : VReg) (cv : CBit) : Perf × State :=
  match s.planMdrn c tid x y with
  | (.error p, s) => (p, s)
  | (.ok d, s) => if d.guided then (.every .twinSplit, s) else (.done, s.acceptDrain c tid i cv.toNat d none)

/-- The operation of a complete set, for one crew alone (02 R34). -/
def State.perform (s : State) (c : Crew) (tid : Nat) (i : Instr) : Perf × State :=
  match i with
  | .obres ob y _ => s.performObres c tid ob y
  | .obrel ob _ => s.performObrel c ob
  | .obld ob y z _ => s.performObld c tid ob y z
  | .obgat ob y z _ => s.performObgat c tid ob y z
  | .mma x a b cv => s.performMultiply c tid i false x a b cv
  | .mmac x a b cv => s.performMultiply c tid i true x a b cv
  | .mdft _ n x a cv => s.performMdft c tid i n x a cv
  | .mdrn x y cv => s.performMdrn c tid i x y cv
  | .mzro _ x cv => s.performMzro c tid i x cv
  | .tkget x _ => s.performToken c x true
  | .tkput x _ => s.performToken c x false
  | _ => (.done, s)

/-! ## ACLD and ACST (09 R200) -/

/-- The thread's element of a tile on the vector side, and what it does with it. -/
def State.elementThread (acc : BitVec 3) (z : VReg) (pair : Tile → Bool) (odd : Bool)
    (f : State → Tile → Nat → State) (s : State) (tid : Nat) : State :=
  s.withThread tid fun c t =>
    let x := acc.toNat
    let tile := c.tile x
    if c.tiles.length ≤ x ∨ !tile.vector then s.raise tid .tokenViolation
    else if pair tile ∧ odd then s.raise tid .illegalInsn
    else if s.tilesDamaged c [x] then s.raise tid .memoryUncorrectable
    else (f s tile ((t.v z.toNat).toNat % 4096)).finish tid

def acldWrite (tile : Tile) (x : VReg) (e : Nat) (t : Thread) : Thread :=
  let v := look 0 tile.elems e
  if tile.i48q2 then t.setPair x.toNat (v.signExtend 64)
  else
    let r := FpFmt.fp32.encode .rne false (FpFmt.fa48.decode v.toNat) false
    (t.setV x.toNat (BitVec.ofNat 32 r.1)).raise r.2

/-- ACLD (09 R200). -/
def execAcld (x : VReg) (acc : BitVec 3) (z : VReg) (s : State) : Host.Outcome State Fault Refusal :=
  .next (s.inOrder fun s tid => State.elementThread acc z Tile.i48q2 (!x.even)
    (fun s tile e => s.modThread s.cur.place tid (acldWrite tile x e)) s tid)

/-- The element that ACST writes. -/
def acstValue (tile : Tile) (x : VReg) (t : Thread) : W48 :=
  if tile.i48q2 then sat48 (t.pair x.toNat).toInt else fa48OfFp32 (t.v x.toNat)

/-- A signalling NaN that an FA48 tile takes raises invalid (14 R285). -/
def acstFlags (tile : Tile) (x : VReg) (t : Thread) : Fl :=
  if !tile.i48q2 && signalling .fp32 (t.v x.toNat).toNat then Fl.invalid else 0

/-- ACST (09 R200): one thread after another, so that the highest tid's element stays. -/
def execAcst (x : VReg) (acc : BitVec 3) (z : VReg) (s : State) : Host.Outcome State Fault Refusal :=
  .next (s.inOrder fun s tid => State.elementThread acc z Tile.i48q2 (!x.even)
    (fun s tile e => s.withThread tid fun c t =>
      let set_ (k : Tile) : Tile := { k with elems := put 0 e (acstValue tile x t) k.elems }
      s.modCrew c.place fun c => ({ c with tiles := c.tiles.modify acc.toNat set_ } : Crew).modThread tid
        fun t => t.raise (acstFlags tile x t)) s tid)

end Sys2Proof.Machine
end

