-- ==== Sys2Proof/Machine/Converge.lean ====
section
/-! DEFINITION. Crew-wide instructions: signing a convergence register (02 R33 to R37), the twin register (09 R203, R204,
R420), the end of a thread (15 R311, 02 R36), the crew-wide instructions themselves, and CONV's other forms (02 R40). -/

namespace Sys2Proof.Machine

open Sys2Proof

/-! ## How a complete set goes on -/

def Crew.cvAt (c : Crew) (k : Nat) : Cv := c.cv.getD k ⟨0, 0, none⟩
def Crew.modCv (c : Crew) (k : Nat) (f : Cv → Cv) : Crew := { c with cv := c.cv.modify k f }
def Crew.dropHeld (k : Nat) (c : Crew) : Crew := { c with held := c.held.filter fun h => h.cv ≠ k }
def Crew.putHeld (h : Held) (c : Crew) : Crew := { c with held := h :: c.held.filter fun x => x.cv ≠ h.cv }

/-- The threads that wait on a register, with their words. -/
def Crew.waiters (c : Crew) (k : Nat) : List (Nat × W32) :=
  c.threads.zipIdx.filterMap fun x => match x.1.wait with
    | .convergence j w => if j = k then some (x.2, w) else none
    | _ => none

/-- The register's mask and PC clear, and its held operation is gone. -/
def Crew.clearCv (k : Nat) (c : Crew) : Crew := (c.modCv k fun v => { v with signed := 0, pc := none }).dropHeld k

/-- Every signer goes on (02 R34). -/
def Crew.proceed (k : Nat) (c : Crew) : Crew :=
  (c.clearCv k).waiters k |>.foldl
    (fun c x => c.modThread x.1 fun t => { t with wait := .ready, pc := t.pc + 4 }) (c.clearCv k)

/-- Every waiting signer takes a cause; the mask clears (02 R36, 09 R204). -/
def State.everySigner (s : State) (p : CrewAt) (k : Nat) (cause : Cause) : State :=
  match s.crew? p with
  | none => s
  | some c =>
    let ws := c.waiters k
    let s := s.modCrew p fun c =>
      ws.foldl (fun c x => c.modThread x.1 retry) (c.clearCv k)
    ws.foldl (fun s x => s.take p x.1 (Bad.plain cause) (some x.2)) s

/-- The last signer alone takes a cause: its bit leaves the mask, and the others wait on (02 R37). -/
def State.lastSigner (s : State) (p : CrewAt) (h : Held) (b : Bad) : State :=
  let s := s.modCrew p fun c => ((c.unsign h.last).dropHeld h.cv).modThread h.last retry
  s.take p h.last b (some h.word)

/-- The last signer waits for the walk of a page that the operation reads, and then signs again (08 R181). -/
def State.lastWalks (s : State) (p : CrewAt) (h : Held) (va : W64) : State :=
  let s := s.modCrew p fun c => ((c.unsign h.last).dropHeld h.cv).modThread h.last retry
  s.walkWait p h.last va .read h.word .engine

def State.settleSet (s : State) (p : CrewAt) (h : Held) : Perf → State
  | .done => s.modCrew p (Crew.proceed h.cv)
  | .last b => s.lastSigner p h b
  | .every c => s.everySigner p h.cv c
  | .hold why => s.modCrew p (Crew.putHeld { h with why })
  | .walk va => s.lastWalks p h va

def isMtwn : Instr → Bool
  | .mtwn _ => true
  | _ => false

/-- A set that completes while the column's matrix engine is reset waits (11 R231). -/
def State.alone (s : State) (p : CrewAt) (h : Held) : State :=
  match s.crew? p with
  | none => s
  | some c =>
    let h := { h with met := true }
    if (s.col p.die p.col).resetting then s.settleSet p h (.hold .order)
    else
      let (r, s) := s.perform c h.last h.instr
      s.settleSet p h r

/-! ## The twin register (09 Table 9.7) -/

def Crew.twinEntry (c : Crew) : Option Held := c.held.find? fun h => h.why == .twin

/-- How a set of a bound pair goes on: paired at the twin register (OBLD, MMA, MMAC, and a guided MDRN, 09 R203),
alone, or once the lines of an MDRN's descriptor are full. -/
inductive Pairing where
  | paired | alone | line
  deriving DecidableEq, Repr

def State.pairing (s : State) (c : Crew) (h : Held) : Pairing :=
  match h.instr with
  | .obld _ _ _ _ | .mma _ _ _ _ | .mmac _ _ _ _ => .paired
  | .mdrn _ y _ => match (s.crewRead c h.last (c.lastV h.last y).toNat 64 64).1 with
    | .ok l => if (DrainDesc.ofBytes l).guided then .paired else .alone
    | .error (.hold _) => .line
    | .error _ => .alone
  | _ => .alone

def State.setBound (s : State) (p q : CrewAt) (b : Bool) : State :=
  (s.modCrew p fun c => { c with bound := b }).modCrew q fun c => { c with bound := b }

/-- A crew waits at the twin register. -/
def State.atTwin (s : State) (p : CrewAt) (h : Held) : State := s.modCrew p (Crew.putHeld { h with why := .twin })

/-- What a plan says of its operation. -/
def perfOf : Except Perf α → Perf
  | .ok _ => .done
  | .error e => e

/-- A paired operation that is not performed, by what stops it in each crew: while either must wait, both do; a crew whose
checks fail takes what they give, and the other, whose own pass, waits on at the twin register (DESIGN CHOICE, log 85). -/
def State.notPaired (s : State) (p q : CrewAt) (h g : Held) (e f : Perf) : State :=
  let one (s : State) (p : CrewAt) (h : Held) (e : Perf) : State := match e with
    | .done | .hold _ => s.atTwin p h
    | e => s.settleSet p h e
  match e, f with
  | .hold _, _ | _, .hold _ => (s.atTwin p h).atTwin q g
  | e, f => one (one s p h e) q g f

/-- A paired OBLD of two crews: one shared fill where both name one handle and one place in it, else one each (09 R204). -/
def State.bothObld (s : State) (p q : CrewAt) (h g : Held) (ob : BitVec 4) (y z : VReg) : State :=
  match s.crew? p, s.crew? q with
  | some c, some d =>
    let same := c.lastPair h.last y = d.lastPair g.last y ∧ c.lastV h.last z = d.lastV g.last z
    let (a, s) := s.planObld c h.last ob y z none
    let (b, s) := s.planObld d g.last ob y z (if same then a.toOption.map FillPlan.handle else none)
    match a, b with
    | .ok a, .ok b =>
      let done (s : State) : State := (s.settleSet p h .done).settleSet q g .done
      if same then done (s.acceptFill c h.last [a.into c ob, b.into d ob] (c.signer h.last ++ d.signer g.last))
      else if (s.col p.die p.col).inFlight + 2 > Config.transfersPerColumn then (s.atTwin p h).atTwin q g
      else done ((s.acceptFill c h.last [a.into c ob] (c.signer h.last)).acceptFill d g.last [b.into d ob] (d.signer g.last))
    | a, b => s.notPaired p q h g (perfOf a) (perfOf b)
  | _, _ => s

/-- A guided MDRN of a bound pair: both descriptors are checked; with both good, both drains are accepted together. -/
def State.bothMdrn (s : State) (p q : CrewAt) (h g : Held) (x : BitVec 3) (y : VReg) (cv : CBit) : State :=
  match s.crew? p, s.crew? q with
  | some c, some d =>
    let (a, s) := s.planMdrn c h.last x y
    let (b, s) := s.planMdrn d g.last x y
    match a, b with
    | .ok a, .ok b =>
      if (s.col p.die p.col).inFlight + 2 > Config.transfersPerColumn then (s.atTwin p h).atTwin q g
      else
        let s := s.acceptDrain c h.last h.instr cv.toNat a (some d.uid)
        let s := s.acceptDrain d g.last g.instr cv.toNat b (some c.uid)
        (s.settleSet p h .done).settleSet q g .done
    | a, b => s.notPaired p q h g (perfOf a) (perfOf b)
  | _, _ => s

/-- A paired MMA or MMAC: one for each crew. -/
def State.bothMultiply (s : State) (p q : CrewAt) (h g : Held) (cx : Bool) (x : BitVec 3) (a b : BitVec 4) (cv : CBit) : State :=
  match s.crew? p, s.crew? q with
  | some c, some d =>
    match s.multiplyPerf c cx x.toNat a.toNat b.toNat, s.multiplyPerf d cx x.toNat a.toNat b.toNat with
    | .done, .done =>
      let s := s.acceptOp c h.last h.instr cv.toNat [a.toNat, b.toNat] none none
      let s := s.acceptOp d g.last g.instr cv.toNat [a.toNat, b.toNat] none none
      (s.settleSet p h .done).settleSet q g .done
    | e, f => s.notPaired p q h g e f
  | _, _ => s

/-- A paired operation performed once for both crews (09 R204). -/
def State.both (s : State) (p q : CrewAt) (h g : Held) : State :=
  match h.instr with
  | .obld ob y z _ => s.bothObld p q h g ob y z
  | .mdrn x y cv => s.bothMdrn p q h g x y cv
  | .mma x a b cv => s.bothMultiply p q h g false x a b cv
  | .mmac x a b cv => s.bothMultiply p q h g true x a b cv
  | _ => (s.alone q g).alone p h

/-- A crew's set is complete: by itself, or at the twin register; while the column's matrix engine is reset it waits (11
R231). -/
def State.arrive (s : State) (p : CrewAt) (h : Held) : State :=
  let wait (s : State) : State := s.modCrew p (Crew.putHeld { h with why := .twin })
  match s.crew? p with
  | none => s
  | some c =>
    if (s.col p.die p.col).resetting then s.settleSet p h (.hold .order)
    else if c.widowed then (if isMtwn h.instr then s.settleSet p h (.every .partialConvergence) else s.alone p h)
    else match c.twin.bind s.crew? with
      | none => s.alone p h
      | some d =>
        let q := d.place
        if isMtwn h.instr then
          match d.twinEntry with
          | none => wait s
          | some g =>
            if isMtwn g.instr then ((s.setBound p q true).settleSet p h .done).settleSet q g .done
            else wait ((s.setBound p q false).alone q g)
        else if !c.bound then s.alone p h
        else match s.pairing c h with
          | .alone => s.alone p h
          | .line => s.settleSet p h (.hold .line)
          | .paired => match d.twinEntry with
            | none => wait s
            | some g =>
              if isMtwn g.instr then (s.setBound p q false).alone p h
              else if g.pc = h.pc ∧ g.instr = h.instr then s.both p q h g
              else ((s.setBound p q false).alone q g).alone p h

/-- A set whose operation waits is tried again; at the twin register only together with its like. -/
def State.retrySet (s : State) (p : CrewAt) (k : Nat) : State :=
  match s.crew? p with
  | none => s
  | some c => match c.held.find? fun h => h.cv = k with
    | none => s
    | some h =>
      if h.why = .twin then
        match (c.twin.bind s.crew?).bind Crew.twinEntry with
        | some g => if g.pc = h.pc ∧ g.instr = h.instr then s.arrive p h else s
        | none => s
      else if h.met then s.alone p h
      else s.arrive p h

/-- The sets whose operation waits, and of which a test holds, are tried again. -/
def State.retryHeld (s : State) (f : Held → Bool) : State :=
  s.crews.foldl (fun s c => (c.held.filter f).foldl (fun s h => s.retrySet c.place h.cv) s) s
def State.retrySets (s : State) : State := s.retryHeld fun _ => true
/-- Those that wait on a line: performed as soon as it is full (06 R126, 15 R319). -/
def State.setsServed (s : State) : State := s.retryHeld fun h => h.why == .line

/-! ## Signing (02 R34, R35) -/

/-- One thread signs; the one that completes the set is the last signer. -/
def State.signThread (k : Nat) (i : Instr) (whole : Bool) (s : State) (tid : Nat) : State :=
  s.withThread tid fun c t =>
    let v := c.cvAt k
    if !v.declared.getLsbD tid ∨ (whole ∧ v.declared ≠ c.present) ∨ (v.signed ≠ 0 ∧ v.pc ≠ some t.pc) then
      s.raise tid .partialConvergence
    else
      let signed := v.signed ||| bit32 tid
      let word := s.cur.word
      let s := s.modCrew s.cur.place fun c =>
        (c.modCv k fun v => { v with signed, pc := some t.pc }).modThread tid fun t => { t with wait := .convergence k word }
      if signed = v.declared then s.arrive s.cur.place ⟨k, i, t.pc, tid, .order, word, false⟩ else s

/-- A crew-wide instruction: its threads sign in ascending tid. -/
def State.sign (s : State) (cv : CBit) (i : Instr) (whole : Bool) : Host.Outcome State Fault Refusal :=
  .next (s.inOrder (State.signThread cv.toNat i whole))

/-- OBRES (09 R192). -/
def execObres (ob : BitVec 4) (y : VReg) (cv : CBit) (s : State) : Host.Outcome State Fault Refusal := s.sign cv (.obres ob y cv) true
/-- OBREL (09 R193). -/
def execObrel (ob : BitVec 4) (cv : CBit) (s : State) : Host.Outcome State Fault Refusal := s.sign cv (.obrel ob cv) true
/-- OBLD (09 R194). -/
def execObld (ob : BitVec 4) (y z : VReg) (cv : CBit) (s : State) : Host.Outcome State Fault Refusal :=
  s.sign cv (.obld ob y z cv) true
/-- OBGAT (09 R195). -/
def execObgat (ob : BitVec 4) (y z : VReg) (cv : CBit) (s : State) : Host.Outcome State Fault Refusal :=
  s.sign cv (.obgat ob y z cv) true
/-- MMA (09 R197, 16 R338). -/
def execMma (acc : BitVec 3) (a b : BitVec 4) (cv : CBit) (s : State) : Host.Outcome State Fault Refusal :=
  s.sign cv (.mma acc a b cv) true
/-- MMAC (09 R197, 16 R338). -/
def execMmac (acc : BitVec 3) (a b : BitVec 4) (cv : CBit) (s : State) : Host.Outcome State Fault Refusal :=
  s.sign cv (.mmac acc a b cv) true
/-- MDFT (16 R335). -/
def execMdft (inv : Bool) (n : DftLen) (acc : BitVec 3) (a : BitVec 4) (cv : CBit) (s : State) :
    Host.Outcome State Fault Refusal := s.sign cv (.mdft inv n acc a cv) true
/-- MDRN (09 R201, R202, 16 R336). -/
def execMdrn (acc : BitVec 3) (y : VReg) (cv : CBit) (s : State) : Host.Outcome State Fault Refusal :=
  s.sign cv (.mdrn acc y cv) true
/-- MZRO (09 R198, 16 R344). -/
def execMzro (i48q2 : Bool) (acc : BitVec 3) (cv : CBit) (s : State) : Host.Outcome State Fault Refusal :=
  s.sign cv (.mzro i48q2 acc cv) true
/-- TKGET (17 R378). -/
def execTkget (acc : BitVec 3) (cv : CBit) (s : State) : Host.Outcome State Fault Refusal := s.sign cv (.tkget acc cv) true
/-- TKPUT (17 R378). -/
def execTkput (acc : BitVec 3) (cv : CBit) (s : State) : Host.Outcome State Fault Refusal := s.sign cv (.tkput acc cv) true
/-- MTWN (16 R342). -/
def execMtwn (cv : CBit) (s : State) : Host.Outcome State Fault Refusal := s.sign cv (.mtwn cv) true
/-- CONV, sign and wait (02 R40). -/
def execConv (cv : CBit) (s : State) : Host.Outcome State Fault Refusal := s.sign cv (.conv cv) false

/-- One thread of CONV.init: a register with signers is left as it is (02 R40). -/
def State.convInitThread (cv : CBit) (y : VReg) (signed : W32) (s : State) (tid : Nat) : State :=
  s.withThread tid fun c t =>
    if signed ≠ 0 then s.raise tid .partialConvergence
    else
      let declared := t.v y.toNat &&& c.present
      (s.modCrew s.cur.place fun c => c.modCv cv.toNat fun _ => ⟨declared, 0, none⟩).finish tid
/-- CONV.init (02 R40): in ascending tid, so that the highest thread's value stays. -/
def execConvInit (cv : CBit) (y : VReg) (s : State) : Host.Outcome State Fault Refusal :=
  let signed := ((s.crew? s.cur.place).map fun c => (c.cvAt cv.toNat).signed).getD 0
  .next (s.inOrder (State.convInitThread cv y signed))
/-- CONV.query (02 R40). -/
def execConvQuery (z : VReg) (cv : CBit) (s : State) : Host.Outcome State Fault Refusal :=
  .next (s.perThread fun c _ t =>
    (t.setV z.toNat (c.cvAt cv.toNat).signed).setV (z.toNat + 1) (c.cvAt cv.toNat).declared)

/-- OBRES_SPACE_FREED (09 R192): a reservation that waits for space is tried again. -/
def execObresSpaceFreed (p : CrewAt) (s : State) : Host.Outcome State Fault Refusal :=
  match s.crew? p with
  | none => .next s
  | some c => .next (c.held.foldl (fun s h => if h.why = .space then s.retrySet p h.cv else s) s)

/-! ## The end of a thread (15 R311, 02 R36, 03 R66, 09 R203) -/

/-- A persistent stage whose crews have all executed EXIT, with none saved, ends, and its range unit is released (03
R66). -/
def State.settlePersistent (s : State) (a : StageAt) : State :=
  match s.stage? a with
  | none => s
  | some t => match t.desc with
    | none => s
    | some d =>
      if d.persistent ∧ t.start.isSome ∧ t.saved = [] ∧ !(s.crews.any fun c => c.at_ = a ∧ c.phase ≠ .ended) then
        (s.modStage a fun t => { t with start := none }).modDie d.die fun k =>
          { k with ranges := k.ranges.filter fun r => r.2.stage ≠ a }
      else s

/-- The surviving twin's wait at the twin register when its twin's present set becomes empty (last row of 09 Table
9.7). -/
def State.widow (s : State) (p : CrewAt) : State :=
  let s := s.modCrew p fun c => { c with widowed := true, bound := false }
  match (s.crew? p).bind Crew.twinEntry with
  | none => s
  | some h => s.arrive p h

/-- The registers of which a declared set lost a waited-for member. -/
def lossThread (tid : Nat) (c : Crew) : Crew :=
  let off := ~~~ bit32 tid
  { c with present := c.present &&& off, cv := c.cv.map fun v => { v with declared := v.declared &&& off } }

/-- A thread ends: it leaves the present set and every declared set; the waiters of a register with signers take
PARTIAL_CONVERGENCE; replies in flight are dropped; the last one ends the crew. -/
def State.endThread (s : State) (p : CrewAt) (tid : Nat) : State :=
  match s.crew? p with
  | none => s
  | some c =>
    let lost := (List.range c.cv.length).filter fun k =>
      (c.cvAt k).declared.getLsbD tid && (c.unsign tid |>.cvAt k).signed != 0
    let s := s.modCrew p fun c =>
      (lossThread tid (c.unsign tid)).modThread tid fun t => { t with wait := .ready, tag := false, awaiting := [], next := none }
    let s := s.modCol p.die p.col fun k =>
      { k with loads := k.loads.filter fun l => ¬(l.uid = c.uid ∧ l.tid = tid) }
    let s := lost.foldl (fun s k => s.everySigner p k .partialConvergence) s
    match s.crew? p with
    | none => s
    | some c =>
      if c.present ≠ 0 then s
      else
        let s := (s.modCrew p fun c => { c with phase := .ended, held := [] }).settlePersistent c.at_
        match c.twin with
        | some q => if c.widowed then s else s.widow q
        | none => s

/-- EXIT (15 R311). -/
def execExit (s : State) : Host.Outcome State Fault Refusal :=
  .next (s.inOrder fun s tid => s.endThread s.cur.place tid)

end Sys2Proof.Machine
end

