-- ==== Sys2Proof/Machine/Convert.lean ====
section
/-! DEFINITION. The convert and quantise family and the condition bits: majors 0x50 to 0x54, 0x58 and 0x59
(13 Table 13.5). -/

namespace Sys2Proof.Machine

open Sys2Proof

/-- CVT (14 R307). -/
def execCvt (dst src : Fmt) (rm : Rm) (sat : Bool) (x y : VReg) (s : State) : Host.Outcome State Fault Refusal :=
  s.each fun c _ t =>
    let r := cvtWord dst src rm sat c.fp4x (t.v y.toNat)
    (t.setV x.toNat r.1).raise r.2

/-- The n elements of a wide group, from its first register (16 R354). -/
def Thread.wideGroup (t : Thread) (wf : CType) (y : VReg) (n : Nat) : List Nat :=
  (List.range n).map fun i =>
    if wf = .fp32 then (t.v (y.toNat + i)).toNat
    else elemOf 16 (t.v (y.toNat + i / 2)).toNat (i % 2)

/-- The registers that hold a wide group's elements. -/
def wideWords (wf : CType) (l : List Nat) : List W32 :=
  if wf = .fp32 then l.map (BitVec.ofNat 32)
  else (List.range (l.length / 2)).map fun i => BitVec.ofNat 32 (packBits 16 ((l.drop (2 * i)).take 2))

/-- QPACK (16 R355). -/
def execQpack (nf : NFmt) (wf : CType) (x y z : VReg) (s : State) : Host.Outcome State Fault Refusal :=
  s.each fun _ _ t =>
    let r := qpackWord nf wf (t.v z.toNat) (t.v (z.toNat + 1)) (t.wideGroup wf y nf.count)
    (t.setV x.toNat r.1).raise r.2

/-- QUNPK (16 R358). -/
def execQunpk (nf : NFmt) (wf : CType) (x y z : VReg) (s : State) : Host.Outcome State Fault Refusal :=
  s.each fun c _ t =>
    let r := qunpkElems nf wf c.fp4x (t.v y.toNat) (t.v z.toNat) (t.v (z.toNat + 1))
    (t.setVs x.toNat (wideWords wf r.1)).raise r.2

/-- QSCL (16 R356): the absolute maximum of V(Y), in its low half for the 16-bit formats. -/
def execQscl (nf : NFmt) (wf : CType) (x y z : VReg) (s : State) : Host.Outcome State Fault Refusal :=
  s.each fun _ _ t =>
    let a := (t.v y.toNat).toNat
    let r := qscl nf wf (if wf = .fp32 then a else a % 65536) (t.v z.toNat)
    (t.setV x.toNat r.1).raise r.2

/-- RNG (17 R365). -/
def execRng (x y z : VReg) (key : BitVec 5) (s : State) : Host.Outcome State Fault Refusal :=
  s.each fun c _ t =>
    let k := key.toNat
    t.setV x.toNat (cg64 (W32.pair (c.g' k) (c.g' (k + 1))) (t.v y.toNat) (t.v z.toNat) (c.g' (k + 2)))

/-- CBOP (14 R303): both sources are read before the write. -/
def execCbop (x y z : CBit) (table : BitVec 4) (s : State) : Host.Outcome State Fault Refusal :=
  s.each fun _ _ t => t.setC x.toNat (table.getLsbD (2 * (t.c y.toNat).toNat + (t.c z.toNat).toNat))
/-- CBMV.get (14 R303). -/
def execCbmvGet (x : VReg) (y : CBit) (s : State) : Host.Outcome State Fault Refusal :=
  s.each fun _ _ t => t.setV x.toNat (if t.c y.toNat then 1 else 0)
/-- CBMV.put (14 R303). -/
def execCbmvPut (x : VReg) (y : CBit) (s : State) : Host.Outcome State Fault Refusal :=
  s.each fun _ _ t => t.setC y.toNat ((t.v x.toNat).getLsbD 0)
/-- CBMV.get.all (14 R303). -/
def execCbmvGetAll (x : VReg) (s : State) : Host.Outcome State Fault Refusal :=
  s.each fun _ _ t => t.setV x.toNat (t.cond.setWidth 32)
/-- CBMV.put.all (14 R303). -/
def execCbmvPutAll (x : VReg) (s : State) : Host.Outcome State Fault Refusal :=
  s.each fun _ _ t => { t with cond := (t.v x.toNat).setWidth 8 }

end Sys2Proof.Machine
end

