-- ==== Sys2Proof/Machine/CrossThread.lean ====
section
/-! DEFINITION. The cross-thread family: BFLY, SHUF and VOTE (14 R294, 17 R370, R385). Every thread reads before any
writes, and only the threads of the issue group take part. -/

namespace Sys2Proof.Machine

open Sys2Proof

/-- The thread of the crew, if it is in the issue group. -/
def State.inGroup (s : State) (c : Crew) (i : Nat) : Option Thread :=
  if s.cur.tids.contains i then c.threads[i]? else none

/-! ## BFLY -/

/-- a − w × b of one butterfly: the exact sum of its terms, rounded once (log 16). -/
def cxButterflyUpper (f : FpFmt) (w b a : Cx) : (Nat × Fl) × (Nat × Fl) :=
  let wr := f.decode w.re
  let wi := f.decode w.im
  let br := f.decode b.re
  let bi := f.decode b.im
  let ar := f.decode a.re
  let ai := f.decode a.im
  (cxComponent f [wr, wi, br, bi, ar] (wr.mulRes br).neg (wi.mulRes bi) ar.res,
   cxComponent f [wr, wi, br, bi, ai] (wr.mulRes bi).neg (wi.mulRes br).neg ai.res)

/-- One thread of BFLY, from the crew as it stood (14 R294). -/
def bflyThread (s : State) (ty : CType) (x y z : VReg) (log2dist : BitVec 3) (c : Crew) (i : Nat) (t : Thread) : Thread :=
  let dist := 2 ^ log2dist.toNat
  match s.inGroup c (i ^^^ dist) with
  | none => (t.setCx ty x (t.cx ty y)).setC 6 true
  | some u =>
    let lower := i / dist % 2 == 0
    let r := if lower then cxFma ty.fp (t.cx ty z) (u.cx ty y) (t.cx ty y)
      else cxButterflyUpper ty.fp (u.cx ty z) (t.cx ty y) (u.cx ty y)
    (t.deliverCx ty x r.1 r.2).setC 6 false

/-- BFLY (14 R294). -/
def execBfly (ty : CType) (x y z : VReg) (log2dist : BitVec 3) (s : State) : Host.Outcome State Fault Refusal :=
  s.each (bflyThread s ty x y z log2dist)

/-! ## SHUF -/

/-- One thread of SHUF: its partner by its own index, none out of 0 to 31 (17 R370). -/
def shufThread (s : State) (partner : Nat → Nat → Option Nat) (d : VReg) (a b : Src7) (c : Crew) (i : Nat) (t : Thread) :
    Thread :=
  match (partner i (srcI c t b).toNat).bind fun p => if p < 32 then s.inGroup c p else none with
  | some u => (t.setV d.toNat (srcI c u a)).setC 6 false
  | none => (t.setV d.toNat (srcI c t a)).setC 6 true

/-- SHUF.idx (17 R370). -/
def execShufIdx (d : VReg) (a b : Src7) (s : State) : Host.Outcome State Fault Refusal :=
  s.each (shufThread s (fun _ n => some n) d a b)
/-- SHUF.xor (17 R370). -/
def execShufXor (d : VReg) (a b : Src7) (s : State) : Host.Outcome State Fault Refusal :=
  s.each (shufThread s (fun i n => some (i ^^^ n)) d a b)
/-- SHUF.up (17 R370). -/
def execShufUp (d : VReg) (a b : Src7) (s : State) : Host.Outcome State Fault Refusal :=
  s.each (shufThread s (fun i n => if n ≤ i then some (i - n) else none) d a b)
/-- SHUF.down (17 R370). -/
def execShufDown (d : VReg) (a b : Src7) (s : State) : Host.Outcome State Fault Refusal :=
  s.each (shufThread s (fun i n => some (i + n)) d a b)

/-! ## VOTE -/

/-- The condition bit of each thread of the group. -/
def State.votes (s : State) (c : Crew) (k : CBit) : List (Nat × Bool) :=
  s.cur.tids.map fun i => (i, ((c.threads[i]?).map fun t => t.c k.toNat).getD false)
def ballot (l : List (Nat × Bool)) : W32 := l.foldl (fun m x => if x.2 then m ||| bit32 x.1 else m) 0

/-- VOTE.all (17 R385). -/
def execVoteAll (d : VReg) (k : CBit) (s : State) : Host.Outcome State Fault Refusal :=
  s.each fun c _ t => t.setV d.toNat (if (s.votes c k).all Prod.snd then 1 else 0)
/-- VOTE.any (17 R385). -/
def execVoteAny (d : VReg) (k : CBit) (s : State) : Host.Outcome State Fault Refusal :=
  s.each fun c _ t => t.setV d.toNat (if (s.votes c k).any Prod.snd then 1 else 0)
/-- VOTE.ballot (17 R385). -/
def execVoteBallot (d : VReg) (k : CBit) (s : State) : Host.Outcome State Fault Refusal :=
  s.each fun c _ t => t.setV d.toNat (ballot (s.votes c k))

end Sys2Proof.Machine
end

