-- ==== Sys2Proof/Machine/Geometry.lean ====
section
/-! DEFINITION. The exact arithmetic of the fixed-function engines: texture filtering (17 R377), ray traversal (17 R380)
and triangle coverage (17 R362). A finite fp32 value is held as an integer multiple of 2^-149. -/

namespace Sys2Proof.Machine

open Sys2Proof

/-! ## Exact values -/

/-- A value from minus to plus infinity, in units of 2^-149; a NaN is none. -/
inductive Ext where
  | nan
  | inf (neg : Bool)
  | fin (n : Int)
  deriving DecidableEq, Repr

def extOf (w : W32) : Ext :=
  match FpFmt.fp32.decode w.toNat with
  | .nan .. => .nan
  | .inf s => .inf s
  | .fin s m e =>
    let n : Int := (m : Int) * 2 ^ (e + 149).toNat
    .fin (if s then -n else n)

def Ext.isNan : Ext → Bool
  | .nan => true
  | _ => false
def Ext.isInf : Ext → Bool
  | .inf _ => true
  | _ => false
def Ext.val : Ext → Int
  | .fin n => n
  | _ => 0

/-- A quotient num / den, den above 0, rounded once to fp32, RNE; an exact zero is +0. -/
def ratio (num : Int) (den : Nat) : W32 :=
  if num = 0 then 0
  else
    let (q, e, st) := quotient num.natAbs den 0
    BitVec.ofNat 32 (FpFmt.fp32.round .rne false (decide (num < 0)) q e st).1

def fpInfinity : W32 := 0x7F800000
def fpNan : W32 := 0x7FC00000
def fpOne : W32 := 0x3F800000

/-! ## Texture filtering (17 R377) -/

/-- 17 Table 17.6. -/
structure TexDesc where
  base : Nat
  width : Nat
  height : Nat
  pitch : Nat
  tfmt : Nat
  tmode : Nat
  clean : Bool
  deriving DecidableEq, Repr

def TexDesc.ofBytes (l : List W8) : TexDesc :=
  { base := fieldAt l 0 8, width := fieldAt l 8 2, height := fieldAt l 0xA 2, pitch := fieldAt l 0xC 4
    tfmt := fieldAt l 0x10 1, tmode := fieldAt l 0x11 1, clean := decide (fieldAt l 0x12 14 = 0) }

def TexDesc.texel (d : TexDesc) : Nat :=
  match d.tfmt with
  | 1 => 8
  | 2 => 16
  | _ => 4
def TexDesc.bilinear (d : TexDesc) : Bool := d.tmode % 2 == 1
def TexDesc.wrapU (d : TexDesc) : Nat := d.tmode / 2 % 4
def TexDesc.wrapV (d : TexDesc) : Nat := d.tmode / 8 % 4
def TexDesc.extent (d : TexDesc) : Nat := d.pitch * (d.height - 1) + d.width * d.texel

/-- A reserved field or code, or a limit of 17 Table 17.6, is broken. -/
def TexDesc.malformed (d : TexDesc) : Bool :=
  !d.clean || decide (d.tfmt > 3 ∨ d.tmode ≥ 32 ∨ d.wrapU > 1 ∨ d.wrapV > 1)
    || decide (d.width = 0 ∨ d.width > 16384 ∨ d.height = 0 ∨ d.height > 16384)
    || decide (d.pitch % 16 ≠ 0 ∨ d.pitch < d.width * d.texel ∨ d.base % d.texel ≠ 0)

/-- A coordinate: a NaN or an infinity is taken as 0. -/
def texCoord (w : W32) : Int := (extOf w).val

def wrapIndex (mode : Nat) (i : Int) (n : Nat) : Nat :=
  if mode = 0 then (min (max i 0) ((n : Int) - 1)).toNat else (i % (n : Int)).toNat

/-- A tap: its texel and its weight in 1/65536. -/
structure Tap where
  i : Nat
  j : Nat
  weight : Nat
  deriving DecidableEq, Repr

/-- The taps of positive weight, in the order of 17 R377. -/
def TexDesc.taps (d : TexDesc) (u v : W32) : List Tap :=
  let one : Int := 2 ^ 149
  let at_ (i j : Int) (w : Nat) : List Tap :=
    if w = 0 then [] else [⟨wrapIndex d.wrapU i d.width, wrapIndex d.wrapV j d.height, w⟩]
  if d.bilinear then
    let x := texCoord u * d.width - 2 ^ 148
    let y := texCoord v * d.height - 2 ^ 148
    let i := x / one
    let j := y / one
    let a := ((x - i * one) / 2 ^ 141).toNat
    let b := ((y - j * one) / 2 ^ 141).toNat
    at_ i j ((256 - a) * (256 - b)) ++ at_ (i + 1) j (a * (256 - b)) ++ at_ i (j + 1) ((256 - a) * b)
      ++ at_ (i + 1) (j + 1) (a * b)
  else at_ (texCoord u * d.width / one) (texCoord v * d.height / one) 65536

def TexDesc.texelAt (d : TexDesc) (t : Tap) : Nat := d.base + t.j * d.pitch + t.i * d.texel

/-- An fp16 code widened exactly; a NaN keeps its sign and payload and is quiet (05 R96). -/
def widenHalf (c : Nat) : W32 :=
  match FpFmt.fp16.decode c with
  | .nan s _ _ => BitVec.ofNat 32 ((if s then 0x80000000 else 0) + 0x7FC00000 + c % 512 * 8192)
  | .inf s => BitVec.ofNat 32 ((if s then 0x80000000 else 0) + 0x7F800000)
  | .fin s m e => BitVec.ofNat 32 (FpFmt.fp32.round .rne false s m e false).1

/-- The channels of a texel's bytes. -/
def TexDesc.channels (d : TexDesc) (l : List W8) : List W32 :=
  match d.tfmt with
  | 0 => (List.range 4).map fun k => ratio (fieldAt l k 1) 255
  | 1 => (List.range 4).map fun k => widenHalf (fieldAt l (2 * k) 2)
  | 2 => (List.range 4).map fun k => BitVec.ofNat 32 (fieldAt l (4 * k) 4)
  | _ => [BitVec.ofNat 32 (fieldAt l 0 4), 0, 0, fpOne]

/-- One channel: the exact weighted sum of its taps, rounded once. -/
def blend (xs : List (Nat × W32)) : W32 :=
  let fs := xs.map fun x => FpFmt.fp32.decode x.2.toNat
  let terms := xs.map fun x => Fp.mulRes (.fin false x.1 (-16)) (FpFmt.fp32.decode x.2.toNat)
  match terms with
  | [] => 0
  | r :: rs => BitVec.ofNat 32 (FpFmt.fp32.deliver .rne false fs (rs.foldl (Res.add .rne) r)).1

/-- The four channels of a sample from the bytes of its taps. -/
def TexDesc.sample (d : TexDesc) (ts : List (Tap × List W8)) : List W32 :=
  let cs := ts.map fun x => (x.1.weight, d.channels x.2)
  (List.range 4).map fun k =>
    if d.bilinear then blend (cs.map fun c => (c.1, c.2.getD k 0))
    else (cs.map fun c => c.2.getD k 0).headD 0

/-! ## Rays (17 R380) -/

structure Vec where
  x : Int
  y : Int
  z : Int
  deriving DecidableEq, Repr

def Vec.sub (a b : Vec) : Vec := ⟨a.x - b.x, a.y - b.y, a.z - b.z⟩
def Vec.cross (a b : Vec) : Vec := ⟨a.y * b.z - a.z * b.y, a.z * b.x - a.x * b.z, a.x * b.y - a.y * b.x⟩
def Vec.dot (a b : Vec) : Int := a.x * b.x + a.y * b.y + a.z * b.z
def vecAt (l : List W8) (off : Nat) : List Ext := (List.range 3).map fun k => extOf (BitVec.ofNat 32 (fieldAt l (off + 4 * k) 4))
def toVec (l : List Ext) : Vec := ⟨(l.getD 0 .nan).val, (l.getD 1 .nan).val, (l.getD 2 .nan).val⟩

/-- 17 Table 17.7. -/
structure Ray where
  org : List Ext
  tmin : Ext
  dir : List Ext
  tmax : Ext
  root : Nat
  ebase : Nat
  esize : Nat
  reserved : Nat
  deriving DecidableEq, Repr

def Ray.ofBytes (l : List W8) : Ray :=
  { org := vecAt l 0, tmin := extOf (BitVec.ofNat 32 (fieldAt l 0xC 4)), dir := vecAt l 0x10
    tmax := extOf (BitVec.ofNat 32 (fieldAt l 0x1C 4)), root := fieldAt l 0x20 8, ebase := fieldAt l 0x28 8
    esize := fieldAt l 0x30 8, reserved := fieldAt l 0x38 8 }

def Ray.inExtent (r : Ray) (a n : Nat) : Bool := decide (r.ebase ≤ a ∧ a + n ≤ r.ebase + r.esize)
def Ray.malformed (r : Ray) : Bool :=
  decide (r.reserved ≠ 0 ∨ r.ebase % 128 ≠ 0 ∨ r.esize < 128 ∨ r.esize > 2 ^ 40 ∨ r.esize % 128 ≠ 0)
    || !r.inExtent r.root 1
def Ray.anyNan (r : Ray) : Bool := r.org.any Ext.isNan || r.dir.any Ext.isNan || r.tmin.isNan || r.tmax.isNan
/-- The spec states no hit of a ray whose origin or direction is infinite (log 22). -/
def Ray.open_ (r : Ray) : Bool := r.org.any Ext.isInf || r.dir.any Ext.isInf

def Q.le (a b : Q) : Bool := decide (a.n * b.d ≤ b.n * a.d)
def Q.lt (a b : Q) : Bool := decide (a.n * b.d < b.n * a.d)
def Q.of (n d : Int) : Q := if d < 0 then ⟨-n, -d⟩ else ⟨n, d⟩

def unit149 : Int := 2 ^ 149
/-- s is at least tmin, or at most tmax; the bounds themselves for boxes. -/
def Ray.starts (r : Ray) (s : Q) : Bool :=
  match r.tmin with
  | .fin n => (⟨n, unit149⟩ : Q).le s
  | .inf neg => neg
  | .nan => false
def Ray.ends (r : Ray) (s : Q) : Bool :=
  match r.tmax with
  | .fin n => s.le ⟨n, unit149⟩
  | .inf neg => !neg
  | .nan => false

/-- The bounds that one axis of a closed box puts on s: lower ones, upper ones; none where no point lies between. -/
def axisBounds (o d : Int) (lo hi : Ext) : Option (List Q × List Q) :=
  let low : Option (List Q × List Q) := match lo with
    | .inf neg => if neg then some ([], []) else none
    | .fin n => if d = 0 then (if n ≤ o then some ([], []) else none)
      else if d > 0 then some ([Q.of (n - o) d], []) else some ([], [Q.of (n - o) d])
    | .nan => none
  let high : Option (List Q × List Q) := match hi with
    | .inf neg => if neg then none else some ([], [])
    | .fin n => if d = 0 then (if o ≤ n then some ([], []) else none)
      else if d > 0 then some ([], [Q.of (n - o) d]) else some ([Q.of (n - o) d], [])
    | .nan => none
  match low, high with
  | some a, some b => some (a.1 ++ b.1, a.2 ++ b.2)
  | _, _ => none

/-- The exact segment meets the closed box. -/
def Ray.meets (r : Ray) (lo hi : List Ext) : Bool :=
  let o := toVec r.org
  let d := toVec r.dir
  let empty := match r.tmin, r.tmax with
    | .fin a, .fin b => decide (b < a)
    | .inf _, .inf neg => neg || r.tmin == .inf false
    | .inf neg, _ => !neg
    | _, .inf neg => neg
    | _, _ => false
  if r.anyNan || empty then false
  else match axisBounds o.x d.x (lo.getD 0 .nan) (hi.getD 0 .nan), axisBounds o.y d.y (lo.getD 1 .nan) (hi.getD 1 .nan),
      axisBounds o.z d.z (lo.getD 2 .nan) (hi.getD 2 .nan) with
    | some a, some b, some c =>
      let lows := a.1 ++ b.1 ++ c.1 ++ (match r.tmin with
        | .fin n => [⟨n, unit149⟩]
        | _ => [])
      let highs := a.2 ++ b.2 ++ c.2 ++ (match r.tmax with
        | .fin n => [⟨n, unit149⟩]
        | _ => [])
      lows.all fun x => highs.all fun y => x.le y
    | _, _, _ => false

/-- The hit of the segment in a triangle of finite vertices. -/
def Ray.hit (r : Ray) (a b c : Vec) (index : W32) : Option Hit :=
  let d := toVec r.dir
  let e1 := b.sub a
  let e2 := c.sub a
  let p := d.cross e2
  let det := e1.dot p
  if det = 0 then none
  else
    let t := (toVec r.org).sub a
    let q := t.cross e1
    let u := Q.of (t.dot p) det
    let v := Q.of (d.dot q) det
    let s := Q.of (e2.dot q) det
    if 0 ≤ u.n ∧ 0 ≤ v.n ∧ u.n + v.n ≤ u.d ∧ r.starts s ∧ r.ends s then some ⟨s, u, v, index⟩ else none

/-- The lesser of two hits: the least s, then the lowest index. -/
def Hit.best (a : Option Hit) (b : Hit) : Option Hit :=
  match a with
  | none => some b
  | some x => if b.s.lt x.s ∨ (b.s.le x.s ∧ b.index < x.index) then some b else some x

/-- The reply of a hit (17 R380). -/
def Hit.words (h : Hit) : List W32 := [ratio h.s.n h.s.d.toNat, h.index, ratio h.u.n h.u.d.toNat, ratio h.v.n h.v.d.toNat]
def missWords : List W32 := [fpInfinity, 0xFFFFFFFF, 0, 0]
def brokenWords : List W32 := [fpNan, 0xFFFFFFFE, 0, 0]

/-- A node of 128 bytes. -/
inductive Node where
  | interior (left right : Nat) (lo1 hi1 lo2 hi2 : List Ext)
  | leaf (n : Nat) (tris : Nat) (first : W32)
  | broken
  deriving DecidableEq, Repr

def Node.ofBytes (l : List W8) : Node :=
  if fieldAt l 0 8 = 0 ∧ fieldAt l 0x48 0x38 = 0 then
    .interior (fieldAt l 8 8) (fieldAt l 0x10 8) (vecAt l 0x18) (vecAt l 0x24) (vecAt l 0x30) (vecAt l 0x3C)
  else
    let n := fieldAt l 1 1
    if fieldAt l 0 1 = 1 ∧ n ≠ 0 ∧ fieldAt l 2 6 = 0 ∧ fieldAt l 0x14 0x6C = 0 then
      .leaf n (fieldAt l 8 8) (BitVec.ofNat 32 (fieldAt l 0x10 4))
    else .broken

/-! ## Triangles on pixels (17 R362) -/

/-- 17 Table 17.2. -/
structure BinRec where
  tris : Nat
  verts : Nat
  count : Nat
  x0 : Nat
  y0 : Nat
  w : Nat
  h : Nat
  flags : Nat
  out : Nat
  pitch : Nat
  barrier : Nat
  reserved : Nat
  deriving DecidableEq, Repr

def BinRec.ofBytes (l : List W8) : BinRec :=
  { tris := fieldAt l 0 8, verts := fieldAt l 8 8, count := fieldAt l 0x10 4, x0 := fieldAt l 0x14 2, y0 := fieldAt l 0x16 2
    w := fieldAt l 0x18 1, h := fieldAt l 0x19 1, flags := fieldAt l 0x1A 2, out := fieldAt l 0x1C 4, pitch := fieldAt l 0x20 4
    barrier := fieldAt l 0x24 4, reserved := fieldAt l 0x28 24 }
def BinRec.depthTest (r : BinRec) : Bool := r.flags % 2 == 1
def BinRec.clear (r : BinRec) : Bool := r.flags / 2 % 2 == 1
def BinRec.acquire (r : BinRec) : Bool := r.flags / 4 % 2 == 1
def BinRec.release (r : BinRec) : Bool := r.flags / 8 % 2 == 1
def BinRec.scopeCode (r : BinRec) : Nat := r.flags / 16 % 8
def BinRec.malformed (r : BinRec) : Bool :=
  decide (r.reserved ≠ 0 ∨ r.flags ≥ 128 ∨ r.w = 0 ∨ r.w > 64 ∨ r.h = 0 ∨ r.h > 64 ∨ r.count > 65535 ∨ r.out % 8 ≠ 0)
    || decide (r.pitch % 8 ≠ 0 ∨ r.pitch < 8 * r.w ∨ r.barrier % 16 ≠ 0 ∨ r.scopeCode > 4)

/-- A vertex: its coordinates, none when one is a NaN or infinite; its attribute. -/
structure Vertex where
  at_ : Option Vec
  attr : W32
  deriving DecidableEq, Repr
def Vertex.ofBytes (l : List W8) : Vertex :=
  let es := vecAt l 0
  ⟨if es.any fun e => e.isNan || e.isInf then none else some (toVec es), BitVec.ofNat 32 (fieldAt l 12 4)⟩

/-- Twice the signed area that a point forms with an edge. -/
def edgeOf (a b : Vec) (x y : Int) : Int := (b.x - a.x) * (y - a.y) - (b.y - a.y) * (x - a.x)
/-- Of a triangle to whose edges the inside is positive, a top or a left edge. -/
def topLeft (a b : Vec) : Bool := (b.y == a.y && decide (a.x < b.x)) || decide (b.y < a.y)
def insideEdge (a b : Vec) (x y : Int) : Bool :=
  let e := edgeOf a b x y
  decide (0 < e) || (e == 0 && topLeft a b)

/-- The depth at a sample that the triangle covers (17 R362). -/
def coverDepth (a b c : Vec) (x y : Int) : Option W32 :=
  let area := edgeOf a b c.x c.y
  if area = 0 then none
  else
    let (b, c) := if area < 0 then (c, b) else (b, c)
    if insideEdge a b x y ∧ insideEdge b c x y ∧ insideEdge c a x y then
      some (ratio (edgeOf b c x y * a.z + edgeOf c a x y * b.z + edgeOf a b x y * c.z) (area.natAbs * 2 ^ 149))
    else none

/-- The fragment of a pixel after one triangle. -/
def BinRec.shade (r : BinRec) (px py : Nat) (f : W32 × W32) (t : Vertex × Vertex × Vertex) : W32 × W32 :=
  match t.1.at_, t.2.1.at_, t.2.2.at_ with
  | some a, some b, some c =>
    match coverDepth a b c ((2 * (r.x0 + px) + 1 : Nat) * 2 ^ 148) ((2 * (r.y0 + py) + 1 : Nat) * 2 ^ 148) with
    | none => f
    | some z =>
      if !r.depthTest || (FpFmt.fp32.compare .lt z.toNat f.1.toNat).1 then (z, t.1.attr) else f
  | _, _, _ => f

end Sys2Proof.Machine
end

