-- ==== Sys2Proof/Machine/FixedFunction.lean ====
section
/-! DEFINITION. The fixed-function engines: TEX, TRAV and RAST at the thread (17 R361, R362, R376, R380), their vertical
queues (03 R71), and what the engines do. -/

namespace Sys2Proof.Machine

open Sys2Proof

/-! ## The vertical queues (03 R71) -/

def FfRequest.holds (u : FfUnit) (st : FfStep) (r : FfRequest) : Bool := r.unit == u && r.step == st
def Column.ffQueued (k : Column) (u : FfUnit) : Nat := (k.ff.filter (FfRequest.holds u .queued)).length

/-- The window slots of the four destinations, from the first. -/
def fourSlots (t : Thread) (slot : Nat) : List Nat := (List.range 4).map fun j => (slot + j) % t.stripe.length

/-- A request enters its queue: TEX and TRAV make their destinations await the reply; RAST arrives at its barrier, and
with acquire its thread's fence point moves (07 R156). The thread goes on. -/
def State.acceptFf (s : State) (c : Crew) (r : FfRequest) : State :=
  let p := c.place
  match r.unit with
  | .rast =>
    let b := BinRec.ofBytes r.record
    let pts := s.ptsOf p r.tid
    let fence := ((s.thread? p r.tid).map Thread.fence).getD 0
    let scope := (Scope.ofCode b.scopeCode).getD .crew
    let s := s.updBarrier c b.barrier pts (Barrier.arrive (8 * b.w * b.h))
    let r := { r with
      step := .queued, phase := (s.barrier c b.barrier).phase
      pts := if b.acquire then s.acquirePts c scope pts else pts
      place := if b.acquire then s.acquirePlace c scope fence else fence }
    let s := s.modCol p.die p.col fun k => { k with ff := (k.ff.filter fun x => x.tag ≠ r.tag) ++ [r] }
    s.modThread p r.tid fun t => { t with
      wait := .ready, pc := t.pc + 4, fence := if b.acquire then s.store else t.fence }
  | _ =>
    let pts := s.ptsOf p r.tid
    let fence := ((s.thread? p r.tid).map Thread.fence).getD 0
    let r := { r with step := .queued, pts, place := fence }
    let s := s.modCol p.die p.col fun k => { k with ff := (k.ff.filter fun x => x.tag ≠ r.tag) ++ [r] }
    s.modThread p r.tid fun t =>
      let slots := fourSlots t r.slot
      { t with
        wait := .ready, pc := t.pc + 4
        awaiting := (t.awaiting.filter fun a => !slots.contains a.slot) ++ slots.map fun i => ⟨i, r.tag⟩ }

/-- A request whose checks have passed: accepted, or, with its queue full, waiting for an entry. -/
def State.offerFf (s : State) (c : Crew) (tid : Nat) (unit : FfUnit) (slot : Nat) (record : List W8) (u v : W32) : State :=
  let p := c.place
  let r : FfRequest :=
    { tag := s.serial, unit, uid := c.uid, tid, slot, region := c.at_.rcb, record, u, v, phase := false, pts := 0, place := 0,
      step := .waiting, pc := s.cur.pc, word := s.cur.word, waiting := none, travel := none }
  let s := { s with serial := s.serial + 1 }
  if (s.col p.die p.col).ffQueued unit < Config.ffQueue ∧ !((s.col p.die p.col).ff.any (FfRequest.holds unit .waiting)) then
    s.acceptFf c r
  else (s.modCol p.die p.col fun k => { k with ff := k.ff ++ [r] }).park p tid (.ffQueue unit)

/-- The entries of a queue that are free go to the requests that have waited longest, each with its thread (03 R71). -/
def State.ffServe (die col : Nat) (unit : FfUnit) : Nat → State → State
  | 0, s => s
  | n + 1, s =>
    if (s.col die col).ffQueued unit ≥ Config.ffQueue then s
    else match (s.col die col).ff.find? (FfRequest.holds unit .waiting) with
      | none => s
      | some w =>
        let gone := s.modCol die col fun k => { k with ff := k.ff.filter fun x => x.tag ≠ w.tag }
        State.ffServe die col unit n (match s.crewByUid? w.uid with
          | some c => if (s.thread? c.place w.tid).map Thread.wait = some (.ffQueue unit) then s.acceptFf c w else gone
          | none => gone)
/-- The same in each of a column's three queues. -/
def State.ffServeAll (s : State) (die col : Nat) : State :=
  [FfUnit.tex, FfUnit.trav, FfUnit.rast].foldl (fun s u => State.ffServe die col u (s.col die col).ff.length s) s

/-- FF_REQUEST_TAKEUP (03 R71): the engine takes its oldest request up, and the entry goes to the request that has waited
longest; a RAST becomes a transfer of its engine. -/
def execFfRequestTakeup (die col : Nat) (unit : FfUnit) (s : State) : Host.Outcome State Fault Refusal :=
  match (s.col die col).ff.find? (FfRequest.holds unit .queued) with
  | none => .next s
  | some r =>
    let s := match r.unit, s.crewByUid? r.uid with
      | .rast, some c =>
        let b := BinRec.ofBytes r.record
        let k : Command :=
          { sub := 4, acquire := false, release := b.release, scope := (Scope.ofCode b.scopeCode).getD .crew, track := false,
            barrier := some (BitVec.ofNat 32 b.barrier), bind := none, pts := r.pts, fence := r.place }
        let t := s.newTransfer c k (.raster r.record) true false [] []
        let t : Transfer := { t with tag := r.tag, phase := r.phase }
        let begin_ (q : Column) : Column :=
          { q with ff := q.ff.filter fun (x : FfRequest) => x.tag ≠ r.tag
                   transfers := q.transfers ++ [t] }
        s.modCol die col begin_
      | _, _ =>
        let take_ (q : Column) : Column :=
          { q with ff := q.ff.map fun (x : FfRequest) => if x.tag = r.tag then { x with step := .taken } else x }
        s.modCol die col take_
    .next (State.ffServe die col unit 1 s)

/-! ## At the thread -/

/-- A read of every page of an extent is checked, for the engine that will read it (17 R376); a translation miss is waited
for. -/
def State.extentReadable (s : State) (p : CrewAt) (tid : Nat) : List (Nat × Nat) → RangeEnd × State
  | [] => (.done, s)
  | (a, _) :: t =>
    let va := BitVec.ofNat 64 a
    match s.check p tid va 1 .read 4 with
    | (.bad b, s) => (.bad b, s)
    | (.walk, s) => (.walk va, s)
    | (_, s) => s.extentReadable p tid t

/-- The extent is checked, from the page on whose walk the thread has waited for (08 R181); then what is done. -/
def State.withExtent (s : State) (c : Crew) (tid a n : Nat) (f : State → State) : State :=
  match s.extentReadable c.place tid (piecesFrom (s.goesOnAt c.place tid a) (pagePieces a n)) with
  | (.bad b, s) => s.raiseBad tid b
  | (.walk va, s) => s.awaitWalk tid va .read .engine (BitVec.ofNat 64 a)
  | (.done, s) => f s

/-- Read a record of n bytes at V(Y) as LDL would, at an alignment of 16; then what is done with it. -/
def State.ffRecord (s : State) (tid : Nat) (y : VReg) (n : Nat) (f : State → Crew → Thread → List W8 → State) : State :=
  s.withThread tid fun c t =>
    let a := (t.v y.toNat).toNat
    if a % 16 ≠ 0 then s.raiseBad tid (Bad.local_ .alignment a)
    else match s.localReady c a n 16 true with
      | .go => f (s.seeLocal c tid a n) c t (s.localBytes c a n)
      | g => s.localStop tid g

def State.texThread (x y z : VReg) (s : State) (tid : Nat) : State :=
  s.ffRecord tid y 32 fun s c t l =>
    let d := TexDesc.ofBytes l
    if d.malformed then s.raise tid .operandFormat
    else s.withExtent c tid d.base d.extent fun s =>
      s.offerFf c tid .tex (t.slot x.toNat) l (t.v z.toNat) (t.v (z.toNat + 1))
/-- TEX (17 R376). -/
def execTex (x y z : VReg) (s : State) : Host.Outcome State Fault Refusal := .next (s.inOrder (State.texThread x y z))

def State.travThread (x y : VReg) (s : State) (tid : Nat) : State :=
  s.ffRecord tid y 64 fun s c t l =>
    let r := Ray.ofBytes l
    if r.malformed then s.raise tid .operandFormat
    else s.withExtent c tid r.ebase r.esize fun s => s.offerFf c tid .trav (t.slot x.toNat) l 0 0
/-- TRAV (17 R380). -/
def execTrav (x y : VReg) (s : State) : Host.Outcome State Fault Refusal := .next (s.inOrder (State.travThread x y))

def State.rastThread (y : VReg) (s : State) (tid : Nat) : State :=
  s.ffRecord tid y 64 fun s c _ l =>
    let b := BinRec.ofBytes l
    if b.malformed then s.raise tid .operandFormat
    else match s.barrierBad c b.barrier with
      | some e => s.raiseBad tid e
      | none => s.offerFf c tid .rast 0 l 0 0
/-- RAST (17 R362): one thread after another. -/
def execRast (y : VReg) (s : State) : Host.Outcome State Fault Refusal := .next (s.inOrder (State.rastThread y))

/-! ## Texture and traversal reads -/

/-- A request that an engine serves, and its column. -/
structure Serving where
  die : Nat
  col : Nat
  request : FfRequest
  deriving DecidableEq, Repr
def Serving.master (q : Serving) : Master := ⟨q.die, q.col, 4, some q.request.tag⟩

/-- What the engines carry from read to read: the place of the store order and the timestamp reached. -/
structure FfAt where
  place : Nat
  pts : Nat
  deriving DecidableEq, Repr

/-- Why a read gives no bytes: its walk is to be made, or a check fails. -/
inductive FfStop where
  | walk (va : Nat)
  | bad (b : Bad)
  deriving DecidableEq, Repr

/-- The checks of a read of an engine (08 R179): a translation miss waits for a walk. -/
def State.ffCheck (s : State) (q : Serving) (a n : Nat) : Checked × State :=
  let va := BitVec.ofNat 64 a
  match preCheck va 1 .read true with
  | some b => (.bad b, s)
  | none => match s.lookup q.die q.col a with
    | .miss => (.walk, s)
    | .hit e s => s.postCheck q.master true va n .read e

/-- Bytes within one sector, read by an engine without acquire; poisoned bytes, and those of a host that is gone, have no
value that the spec states (log 23). -/
def State.ffRead (s : State) (q : Serving) (at_ : FfAt) (a n : Nat) : Except FfStop (List W8 × FfAt) × State :=
  let pts := s.floorPts q.die at_.pts
  let lost (s : State) : Except FfStop (List W8 × FfAt) × State :=
    let (l, s) := s.anyBytes n
    (.ok (l, at_), s)
  match s.ffCheck q a n with
  | (.walk, s) => (.error (.walk a), s)
  | (.bad b, s) => (.error (.bad b), s)
  | (.device pa _ e, s) =>
    if s.poisoned pa n then lost s
    else
      let (v, s) := s.readAt .dev pa n at_.place pts
      let (p, s) := s.engineLoad .dev pa n pts v.old
      (.ok (v.bytes, ⟨v.place, p⟩), s.touch ((homeOf pa).getD 0) (pa / 128) false (entryEligible e) (entryStreams e))
  | (.host pa _, s) => match s.hostLoad pa n with
    | (some l, s) =>
      let (t, s) := s.passLoad .host pa n pts
      (.ok (l, ⟨at_.place, t⟩), s)
    | (none, s) => lost s
  | (.register d o, s) => (.ok (s.regRead d o n, at_), s)

/-- Pieces one after another. -/
def State.ffReads (s : State) (q : Serving) (at_ : FfAt) : List (Nat × Nat) → Except FfStop (List W8 × FfAt) × State
  | [] => (.ok ([], at_), s)
  | (a, n) :: t => match s.ffRead q at_ a n with
    | (.error x, s) => (.error x, s)
    | (.ok (l, at_), s) => match s.ffReads q at_ t with
      | (.error x, s) => (.error x, s)
      | (.ok (r, at_), s) => (.ok (l ++ r, at_), s)

/-- The distinct texels of a sample, in ascending address (07 R154). -/
def State.readTexels (s : State) (q : Serving) (at_ : FfAt) (n : Nat) : List Nat → Except FfStop (List (Nat × List W8)) × State
  | [] => (.ok [], s)
  | a :: t => match s.ffRead q at_ a n with
    | (.error x, s) => (.error x, s)
    | (.ok (l, at_), s) => match s.readTexels q at_ n t with
      | (.error x, s) => (.error x, s)
      | (.ok r, s) => (.ok ((a, l) :: r), s)

def Column.dropFf (tag : Nat) (k : Column) : Column := { k with ff := k.ff.filter fun x => x.tag ≠ tag }

/-- A reply writes its four destinations in one scoreboard write. -/
def State.replyFf (s : State) (die col : Nat) (r : FfRequest) (ws : List W32) : State :=
  let s := s.modCol die col (Column.dropFf r.tag)
  s.modUid r.uid fun c => c.modThread r.tid fun t => replyThread r.tag ((fourSlots t r.slot).zip ws) t

/-- The destinations of a request await it no more, and keep their values. -/
def forgetReply (tag : Nat) (t : Thread) : Thread := { t with awaiting := t.awaiting.filter fun a => a.tag ≠ tag }

/-- A check of a request fails after its acceptance: its thread takes the cause at the instruction, the destinations are
unchanged (08 Table 8.9, R183). -/
def State.failFf (s : State) (die col : Nat) (r : FfRequest) (b : Bad) : State :=
  ((s.modCol die col (Column.dropFf r.tag)).modUid r.uid fun c => c.modThread r.tid (forgetReply r.tag)).faultBehind
    r.uid r.tid b r.pc (some r.word)

def State.ffWaits (s : State) (die col tag : Nat) (w : EnginePage) : State :=
  s.modCol die col fun k => { k with ff := k.ff.map fun r => if r.tag = tag then { r with waiting := some w } else r }

/-- A request is stopped: for the walk or for the page that it waits for, after which its reads are made again, or by its
cause (08 R181 to R183, R187). -/
def State.stopFf (s : State) (q : Serving) : FfStop → State
  | .walk va =>
    (s.queueWalkFor q.die q.col q.request.region (BitVec.ofNat 64 va) .read true).ffWaits q.die q.col q.request.tag
      (EnginePage.missed va .read)
  | .bad b =>
    if b.cause = .pageNotPresent then
      match s.askPage q.die (pageOf b.ebad) q.col q.request.region true b with
      | (true, s) => s.ffWaits q.die q.col q.request.tag
          ⟨(b.ebad.getD 0).toNat, AccKind.read.code, false, b.syn, b.entry, (s.eff q.request.region).faultsToHost⟩
      | (false, s) => s.failFf q.die q.col q.request b
    else s.failFf q.die q.col q.request b

/-- The request of a unit, taken up, that a tag names and that waits for no page. -/
def Column.serving (k : Column) (tag : Nat) (u : FfUnit) : Option FfRequest :=
  k.ff.find? fun r => r.tag = tag ∧ r.unit = u ∧ r.step = .taken ∧ r.waiting = none

/-- TEX_REPLY (17 R377). -/
def execTexReply (die col tag : Nat) (s : State) : Host.Outcome State Fault Refusal :=
  match (s.col die col).serving tag .tex with
  | none => .next s
  | some r =>
    let d := TexDesc.ofBytes r.record
    let taps := d.taps r.u r.v
    let q : Serving := ⟨die, col, r⟩
    .next (match s.readTexels q ⟨r.place, r.pts⟩ d.texel (taps.foldl (fun l t => insertN (d.texelAt t) l) []) with
      | (.error x, s) => s.stopFf q x
      | (.ok ls, s) => s.replyFf die col r (d.sample (taps.map fun t =>
          (t, ((ls.find? fun x => x.1 = d.texelAt t).map Prod.snd).getD []))))

/-- A leaf's triangles. -/
def Ray.leafHits (r : Ray) (first : W32) (l : List W8) : Nat → Nat → Walked → Walked
  | _, 0, w => w
  | k, n + 1, w =>
    let b := l.drop (48 * k)
    let es := vecAt b 0 ++ vecAt b 12 ++ vecAt b 24
    let w :=
      if fieldAt b 36 12 ≠ 0 then { w with broken := true }
      else if es.any Ext.isNan || r.anyNan then w
      else if es.any Ext.isInf || r.open_ then { w with unstated := true }
      else match r.hit (toVec (vecAt b 0)) (toVec (vecAt b 12)) (toVec (vecAt b 24)) (first + BitVec.ofNat 32 k) with
        | some h => { w with hit := Hit.best w.hit h }
        | none => w
    r.leafHits first l (k + 1) n w

/-- How the visit of nodes ends: with what it has found, or stopped, with how far it has come. -/
inductive Visited where
  | done (w : Walked)
  | stopped (x : FfStop) (at_ : FfAt) (t : Travel)
  deriving DecidableEq, Repr

/-- Visit the nodes of a list, and those they lead to; the fuel is the number of nodes that may be visited. -/
def State.visit (s : State) (q : Serving) (r : Ray) : Nat → FfAt → List Nat → Walked → Visited × State
  | _, _, [], w => (.done w, s)
  | 0, _, _ :: _, w => (.done { w with broken := true }, s)
  | n + 1, at_, a :: rest, w =>
    let here : Travel := ⟨n + 1, a :: rest, w⟩
    if w.broken then (.done w, s)
    else if a % 128 ≠ 0 ∨ !r.inExtent a 128 then (.done { w with broken := true }, s)
    else match s.ffReads q at_ (sectorsOf a 128) with
      | (.error x, s) => (.stopped x at_ here, s)
      | (.ok (l, at1), s) => match Node.ofBytes l with
        | .broken => (.done { w with broken := true }, s)
        | .leaf k tris first =>
          if !r.inExtent tris (48 * k) then (.done { w with broken := true }, s)
          else match s.ffReads q at1 (sectorsOf tris (48 * k)) with
            | (.error x, s) => (.stopped x at_ here, s)
            | (.ok (b, at2), s) => s.visit q r n at2 rest (r.leafHits first b 0 k w)
        | .interior left right lo1 hi1 lo2 hi2 =>
          if !r.inExtent left 128 ∨ !r.inExtent right 128 then (.done { w with broken := true }, s)
          else
            let open_ := r.open_ || (lo1 ++ hi1 ++ lo2 ++ hi2).any Ext.isNan
            let into := (if r.meets lo1 hi1 then [left] else []) ++ (if r.meets lo2 hi2 then [right] else [])
            s.visit q r n at1 ((if r.open_ then [] else into) ++ rest)
              { w with unstated := w.unstated || (open_ && !r.anyNan) }

/-- What a traversal replies: values that the spec does not state are free. -/
def State.travWords (s : State) (w : Walked) : List W32 × State :=
  if w.broken then (brokenWords, s)
  else if w.unstated then
    let (a, s) := s.anyWord
    let (b, s) := s.anyWord
    let (c, s) := s.anyWord
    let (d, s) := s.anyWord
    ([a, b, c, d], s)
  else ((w.hit.map Hit.words).getD missWords, s)

/-- A traversal that a walk, or a page, holds up goes on at the node that it has come to (08 R181). -/
def State.travStops (s : State) (q : Serving) (x : FfStop) (at_ : FfAt) (t : Travel) : State :=
  let here (r : FfRequest) : FfRequest :=
    if r.tag = q.request.tag then { r with place := at_.place, pts := at_.pts, travel := some t } else r
  (s.modCol q.die q.col fun k => { k with ff := k.ff.map here }).stopFf q x

/-- TRAV_REPLY (17 R380). -/
def execTravReply (die col tag : Nat) (s : State) : Host.Outcome State Fault Refusal :=
  match (s.col die col).serving tag .trav with
  | none => .next s
  | some k =>
    let r := Ray.ofBytes k.record
    let q : Serving := ⟨die, col, k⟩
    let t := k.travel.getD ⟨65536, [r.root], ⟨false, false, none⟩⟩
    .next (match s.visit q r t.left ⟨k.place, k.pts⟩ t.nodes t.found with
      | (.stopped x at_ t, s) => s.travStops q x at_ t
      | (.done w, s) =>
        let (ws, s) := s.travWords w
        s.replyFf die col k ws)

/-! ## The rasteriser (17 R362) -/

/-- How a row of reads of a transfer ends. -/
inductive ReadsEnd where
  | bytes (l : List (Nat × W8)) (t : Transfer)
  | stop (b : Bad)
  | wait
  deriving DecidableEq, Repr

def State.readAll (s : State) (c : Crew) (global : Bool) : Transfer → List (Nat × Nat) → List (Nat × W8) → ReadsEnd × State
  | t, [], acc => (.bytes acc t, s)
  | t, (a, n) :: rest, acc =>
    match s.readSector c t global a n with
    | (.wait, s) => (.wait, s)
    | (.stop b, s) => (.stop b, s)
    | (.bytes l place pts, s) =>
      s.readAll c global { t with place, pts, behindFill := false } rest (acc ++ (l.zipIdx a).map fun x => (x.2, x.1))

def bytesFrom (l : List (Nat × W8)) (a n : Nat) : List W8 :=
  (List.range n).map fun i => ((l.find? fun x => x.1 = a + i).map Prod.snd).getD 0

/-- The triangle numbers of the list, and the byte ranges of the vertices they use, ascending. -/
def BinRec.numbers (r : BinRec) (l : List (Nat × W8)) : List Nat :=
  (List.range r.count).map fun i => leNat (bytesFrom l (r.tris + 4 * i) 4)
def BinRec.vertexReads (r : BinRec) (ts : List Nat) : List (Nat × Nat) :=
  let js := ts.foldl (fun acc t => insertN (3 * t + 2) (insertN (3 * t + 1) (insertN (3 * t) acc))) []
  mergeSectors (js.flatMap fun j => sectorsOf (r.verts + 16 * j) 16)
def BinRec.vertex (r : BinRec) (l : List (Nat × W8)) (j : Nat) : Vertex := Vertex.ofBytes (bytesFrom l (r.verts + 16 * j) 16)
def BinRec.outReads (r : BinRec) : List (Nat × Nat) :=
  if r.clear then [] else mergeSectors ((List.range r.h).flatMap fun py => sectorsOf (r.out + py * r.pitch) (8 * r.w))

/-- The fragments as write sectors, row by row ascending. -/
def BinRec.writes (r : BinRec) (ts : List Nat) (vs old : List (Nat × W8)) : List WSector :=
  let tri := ts.map fun t => (r.vertex vs (3 * t), r.vertex vs (3 * t + 1), r.vertex vs (3 * t + 2))
  writeSectors ((List.range r.h).flatMap fun py => (List.range r.w).flatMap fun px =>
    let a := r.out + py * r.pitch + 8 * px
    let f0 : W32 × W32 := if r.clear then (fpInfinity, 0)
      else (BitVec.ofNat 32 (leNat (bytesFrom old a 4)), BitVec.ofNat 32 (leNat (bytesFrom old (a + 4) 4)))
    let f := tri.foldl (fun f t => r.shade px py f t) f0
    ((bytes32 f.1 ++ bytes32 f.2).zipIdx a).map fun x => (x.2, ByteSrc.const x.1))

/-- RAST_RUN (17 R362, 18 R392): every read of the request, then its fragments, which land sector by sector. A read that
must wait leaves the run to be made again. The reads of each of the three extents ascend (07 R154), and the extents come
in the order output, triangle list, vertices (DESIGN CHOICE, log 85). -/
def execRastRun (die col tag : Nat) (s : State) : Host.Outcome State Fault Refusal :=
  match (s.col die col).transfers.find? fun t => t.tag = tag with
  | none => .next s
  | some t => match t.kind, s.crewByUid? t.uid with
    | .raster record, some c =>
      if t.waiting.isSome ∨ t.writes ≠ [] ∨ t.late ≠ [] then .next s
      else
        let r := BinRec.ofBytes record
        let ending (s : State) : ReadsEnd → Host.Outcome State Fault Refusal
          | .stop b => .next (s.abortTransfer c t b)
          | _ => .next s
        match s.readAll c false t r.outReads [] with
        | (.bytes old t1, s) => match s.readAll c true t1 (sectorsOf r.tris (4 * r.count)) [] with
          | (.bytes l t2, s) =>
            let ts := r.numbers l
            match s.readAll c true t2 (r.vertexReads ts) [] with
            | (.bytes vs t3, s) => .next (s.modTransfer c tag fun _ => { t3 with writes := r.writes ts vs old })
            | (e, s) => ending s e
          | (e, s) => ending s e
        | (e, s) => ending s e
    | _, _ => .next s

end Sys2Proof.Machine
end

