-- ==== Sys2Proof/Machine/Reef.lean ====
section
/-! DEFINITION. Reefing: SCWAY and SCFL and their completions (06 R130 to R137; 17 R368), and the services 0 and 1 of
SYSC (17 R375). -/

namespace Sys2Proof.Machine

open Sys2Proof

/-! ## The bank's cache ways -/

/-- The lines of a bank that the ways of a list hold, and the dedup lines that live in those ways: written back, then
invalid, with every tag that refers to such a dedup line (06 R134). -/
def Die.clearWays (d : Die) (bank : Nat) (ws : List Nat) : Die :=
  let gone := (d.dedup.filter fun x => x.bank = bank ∧ ws.contains x.way).map DedupLine.id
  let lost (x : StackLine) : Bool :=
    (x.bank = bank && ws.contains x.way) || (match x.data with
      | some i => gone.contains i
      | none => false)
  let d := (d.stack.filter lost).foldl (fun d x => d.evict x.line) d
  { d with dedup := d.dedup.filter fun x => !gone.contains x.id }

/-- Ways 15 − m to 16 − n, the mebibytes from m to n (06 R130). -/
def reefWays (m n : Nat) : List Nat := (List.range (n - m)).map fun i => 15 - (m + i)

/-- The part of a column's scratchpad below or outside a range of mebibytes. -/
def outsideMebibytes (m n a : Nat) : Bool := decide (a < m * 0x100000) || decide (n * 0x100000 ≤ a)
def outsideLines (m n l : Nat) : Bool := decide (l < m * 8192) || decide (n * 8192 ≤ l)

/-- An error that does not stand in mebibytes m to n of a column's scratchpad. -/
def Damage.outside (die col m n : Nat) : Damage → Bool
  | .scr d k w => !decide (d = die ∧ k = col) || outsideMebibytes m n (8 * w)
  | .loc _ _ => true

/-- Mebibytes m to n of the scratchpad hold nothing and no error, their lines are full, and no earlier byte of them is seen
again (06 R134, R135). Copies that are outstanding into them stay counted (06 R125). -/
def State.wipeScratch (s : State) (die col m n : Nat) : State :=
  let clear (k : Column) : Column :=
    { k with scratch := k.scratch.filter fun x => outsideMebibytes m n x.1
             empty := k.empty.filter (outsideLines m n) }
  { s.modCol die col clear with
    damage := s.damage.filter (Damage.outside die col m n)
    past := s.past.filter fun p => !(p.space == .scr die col && !outsideMebibytes m n p.addr)
    linePast := s.linePast.filter fun p => !(p.space == .scr die col && !outsideMebibytes m n (128 * p.line)) }

/-- The count of a column changes: one event of the store order (06 R134). -/
def State.setCount (s : State) (die col n : Nat) (owner : Option Nat) : State :=
  let s := s.useBank die col
  let m := (s.col die col).count
  let s := if n > m then (s.modDie die fun d => d.clearWays col (reefWays m n)).wipeScratch die col m n
    else s.wipeScratch die col n m
  { s.modCol die col (fun k => { k with count := n, owner := if n = 0 then none else owner }) with store := s.store + 1 }

/-! ## Requests -/

def State.dirtyIn (s : State) (die bank : Nat) (inWays : Nat → Bool) : Nat :=
  ((s.die die).stack.filter fun x => x.bank = bank && inWays x.way && x.dirty).length

/-- Cycles that a request takes on an otherwise idle die (06 R136, R137). Of an SCFL of class 2, which writes nothing back,
D is 0 (DESIGN CHOICE, log 43). -/
def State.reefCost (s : State) (r : ReefReq) : Nat :=
  let p := r.thread.crew
  let m := (s.col p.die p.col).count
  let n := r.arg.toNat
  if r.ways then
    if n = m then 8
    else if n > m then
      let k := min n 16 - m
      1200 + 4608 * k + 4 * s.dirtyIn p.die p.col fun w => (reefWays m (min n 16)).contains w
    else 1200 + 512 * (m - n)
  else 1200 + 512 * (16 - m) + 4 * (if n = 2 then 0 else s.dirtyIn p.die p.col fun _ => true)

/-- The request at the head of the column's queue begins: its cost is settled. -/
def State.beginReef (s : State) (die col : Nat) : State :=
  match (s.col die col).reefs with
  | r :: rs => s.modCol die col fun k => { k with reefs := { r with cost := s.reefCost r } :: rs }
  | [] => s

/-- The count changes by no request of the column's queue, as its owner leaves or a scratchpad comes back: the cost of the
request at its head is settled anew (06 R136; DESIGN CHOICE, log 43). -/
def State.recount (s : State) (die col n : Nat) (owner : Option Nat) : State := (s.setCount die col n owner).beginReef die col

/-- A thread's request queues behind the column's others, and the thread parks (06 R134, 17 R368). -/
def State.pushReef (s : State) (tid : Nat) (ways : Bool) (arg : W32) : State :=
  let p := s.cur.place
  let idle := (s.col p.die p.col).reefs == []
  let r : ReefReq := { thread := ⟨p, tid⟩, ways, arg, word := s.cur.word, cost := 0 }
  let s := (s.modCol p.die p.col fun k => { k with reefs := k.reefs ++ [r] }).park p tid (.reef ways)
  if idle then s.beginReef p.die p.col else s

/-- SCWAY (06 R133, R134). -/
def execScway (x : VReg) (s : State) : Host.Outcome State Fault Refusal :=
  .next (s.inOrder fun s tid => s.withThread tid fun _ t => s.pushReef tid true (t.v x.toNat))

/-- SCFL (06 R137): a class above 2 is an illegal instruction. -/
def execScfl (x : VReg) (s : State) : Host.Outcome State Fault Refusal :=
  .next (s.inOrder fun s tid => s.withThread tid fun _ t =>
    if (t.v x.toNat).toNat > 2 then s.raise tid .illegalInsn else s.pushReef tid false (t.v x.toNat))

/-- The request at the head is done with: its thread goes on, and the next one begins. -/
def State.endReef (s : State) (die col : Nat) (r : ReefReq) (b : Option Bad) : State :=
  let s := s.modCol die col fun k => { k with reefs := k.reefs.drop 1 }
  let p := r.thread.crew
  let tid := r.thread.tid
  -- a thread that a fault has taken from its wait stays parked
  let s := if (s.thread? p tid).map Thread.wait ≠ some (.reef r.ways) then s else
    let s := s.modThread p tid retry
    match b with
    | some b => s.take p tid b (some r.word)
    | none => s.modThread p tid Thread.next4
  s.beginReef die col

/-- SCWAY_COMPLETE (06 R134): the oldest request of the column, an SCWAY whose time is up, is served. Of a refused count
whose address passes 32 bits, sys.ebad takes the whole sum (DESIGN CHOICE, log 81). -/
def execScwayComplete (die col : Nat) (s : State) : Host.Outcome State Fault Refusal :=
  match (s.col die col).reefs with
  | r :: _ =>
    if !r.ways ∨ r.cost ≠ 0 then .next s
    else
      let rcb := ((s.crew? r.thread.crew).map fun c => c.at_.rcb).getD 0
      let k := s.col die col
      let n := r.arg.toNat
      if n > (s.eff rcb).ways ∨ n > 16 ∨ (k.count > 0 ∧ k.owner ≠ some rcb) then
        .next (s.endReef die col r (some (Bad.at_ .accessTableDenied (BitVec.ofNat 64 (0x1000000 + n * 0x100000)))))
      else
        let s := if n = k.count then s else s.setCount die col n (some rcb)
        .next (s.endReef die col r none).wakeLines
  | [] => .next s

/-- What SCFL does to the bank's lines by its class. -/
def Die.flushBank (d : Die) (bank cls : Nat) : Die :=
  match cls with
  | 0 => { d with stack := d.stack.map fun x => if x.bank = bank then { x with dirty := false } else x }
  | 1 => (d.stack.filter fun x => x.bank = bank).foldl (fun d x => d.evict x.line) d
  | _ =>
    let stuck := (d.dedup.filter fun x => x.bank = bank ∧ x.count = 255).map DedupLine.id
    { d with
      dedup := d.dedup.filter fun x => !stuck.contains x.id
      stack := d.stack.filter fun x => match x.data with
        | some i => !stuck.contains i
        | none => true }

/-- SCFL_COMPLETE (06 R137). -/
def execScflComplete (die col : Nat) (s : State) : Host.Outcome State Fault Refusal :=
  match (s.col die col).reefs with
  | r :: _ =>
    if r.ways ∨ r.cost ≠ 0 then .next s
    else .next (((s.useBank die col).modDie die fun d => d.flushBank col r.arg.toNat).endReef die col r none)
  | [] => .next s

/-- One cycle of the requests at work. -/
def Column.tickReef (k : Column) : Column :=
  match k.reefs with
  | r :: rs => { k with reefs := { r with cost := r.cost - 1 } :: rs }
  | [] => k

/-! ## SYSC #0 and #1 (17 Table 17.5) -/

/-- SYSC #0: the crew number, the effective domain and priority. -/
def execSyscIdentity (s : State) : Host.Outcome State Fault Refusal :=
  .next (s.perThread fun c _ t =>
    let e := s.eff c.at_.rcb
    (t.setV 0 (BitVec.ofNat 32 c.crewno)).setV 1 (BitVec.ofNat 32 (e.domain.toNat + 65536 * (e.priority % 64))))

/-- SYSC #1: the region's effective ways, the column's count, and whether the region owns the scratchpad. -/
def execSyscBudget (s : State) : Host.Outcome State Fault Refusal :=
  .next (s.perThread fun c _ t =>
    ((t.setV 0 (BitVec.ofNat 32 (s.eff c.at_.rcb).ways)).setV 1 (BitVec.ofNat 32 (s.col c.place.die c.place.col).count)).setV
      2 (if s.ownsScratch c then 1 else 0))

end Sys2Proof.Machine
end

