-- ==== Sys2Proof/Machine/Regions.lean ====
section
/-! DEFINITION. Reads and writes of the firmware and the prologue engine, region control blocks (03 R48 to R50), stage
descriptors (03 R51, R52), and the regions that are live. -/

namespace Sys2Proof.Machine

open Sys2Proof

/-! ## Firmware accesses -/

/-- The masters of 08 Table 8.7 that are not columns. -/
def schedulerOf (d : Nat) : Master := ⟨d, 117, 0, none⟩
def managementOf (d : Nat) : Master := ⟨d, 118, 0, none⟩
def leafOf (d col : Nat) : Master := ⟨d, 104 + col / 8, 0, none⟩

/-- A firmware error, logged for the management core by its address (08 Table 8.9). -/
def State.logFirmware (s : State) (d a : Nat) : State := s.modDie d fun k => { k with firmwareLog := k.firmwareLog ++ [a] }

/-- The masters whose denials are firmware errors: leaf controllers and global schedulers (08 Table 8.9). -/
def Master.isFirmware (m : Master) : Bool := decide (104 ≤ m.id ∧ m.id ≤ 117)

/-- The timestamp of a master that is no column, at its next access and after one: a management core holds one, the others
take the time floor (DESIGN CHOICE, log 85). -/
def State.firmTime (s : State) (m : Master) : Nat := if m.id = 118 then s.coreTime m.die else (s.die m.die).floor
def State.firmReaches (s : State) (m : Master) (t : Nat) : State := if m.id = 118 then s.coreReaches m.die t else s
/-- A management core's load of lines at their home (07 R163). -/
def State.firmLoads (s : State) (m : Master) (pa n : Nat) : State :=
  if m.id = 118 then (linesOf pa n).foldl (fun s l => let (k, s) := s.grantLease l (s.coreTime m.die); s.coreReaches m.die k.wts) s
  else s

/-- Bytes of one page; a denial of the firmware is logged. -/
def State.pageRead (s : State) (m : Master) (engine : Bool) (a n : Nat) : Except Bad (List W8) × State :=
  if a ≥ 2 ^ 64 then (.error (Bad.at_ .permission (BitVec.ofNat 64 a)), s)
  else match s.checkNow m engine (BitVec.ofNat 64 a) 1 .read with
    | (.device pa _ _, s) =>
      if s.poisoned pa n then (.error (Bad.at_ .memoryUncorrectable (BitVec.ofNat 64 a)), s) else (.ok (s.bytes .dev pa n), s.firmLoads m pa n)
    | (.host pa _, s) => match s.hostLoad pa n with
      | (some l, s) => (.ok l, s)
      | (none, s) => (.error (Bad.at_ .hostDetached (BitVec.ofNat 64 a)), s)
    | (.bad b, s) => (.error b, if m.isFirmware ∧ b.cause = .accessTableDenied then s.logFirmware m.die a else s)
    | (_, s) => (.error (Bad.at_ .permission (BitVec.ofNat 64 a)), s)

def State.piecesRead (s : State) (m : Master) (engine : Bool) : List (Nat × Nat) → List W8 → Except Bad (List W8) × State
  | [], acc => (.ok acc, s)
  | (a, n) :: t, acc => match s.pageRead m engine a n with
    | (.error b, s) => (.error b, s)
    | (.ok l, s) => s.piecesRead m engine t (acc ++ l)

/-- n bytes from a virtual address, read now. -/
def State.fwRead (s : State) (m : Master) (engine : Bool) (va n : Nat) : Except Bad (List W8) × State :=
  s.piecesRead m engine (pagePieces va n) []

/-- Bytes of one page, written in the store order by the firmware; a denial of it is logged (08 Table 8.9). -/
def State.pageWrite (s : State) (m : Master) (a : Nat) (l : List W8) : Option Bad × State :=
  if a ≥ 2 ^ 64 then (some (Bad.at_ .permission (BitVec.ofNat 64 a)), s)
  else match s.checkNow m true (BitVec.ofNat 64 a) 1 .write with
    | (.device pa _ e, s) =>
      (none, ((linesOf pa l.length).foldl (fun s line =>
        let lo := max pa (128 * line)
        let hi := min (pa + l.length) (128 * line + 128)
        let (t, s) := s.devStore (s.firmTime m) lo ((l.drop (lo - pa)).take (hi - lo)) (some e)
        s.firmReaches m t) s))
    | (.host pa _, s) => (none, s.hostStore pa l (2 ^ 65 + m.id))
    | (.bad b, s) => (some b, if m.isFirmware ∧ b.cause = .accessTableDenied then s.logFirmware m.die a else s)
    | (_, s) => (some (Bad.at_ .permission (BitVec.ofNat 64 a)), s)

def State.piecesWrite (s : State) (m : Master) : List (Nat × Nat) → List W8 → Option Bad × State
  | [], _ => (none, s)
  | (a, n) :: t, l => match s.pageWrite m a (l.take n) with
    | (some b, s) => (some b, s)
    | (none, s) => s.piecesWrite m t (l.drop n)

def State.fwWrite (s : State) (m : Master) (va : Nat) (l : List W8) : Option Bad × State :=
  s.piecesWrite m (pagePieces va l.length) l

/-- The leaf that covers an address, whatever its permissions. -/
def State.leafAt (s : State) (die va : Nat) : Option TlbEntry :=
  if va ≥ 2 ^ 57 then none
  else match s.tlbHit die va with
    | some e => some e
    | none => match s.walk die va with
      | (.page e, _) => some e
      | _ => none

/-! ## Region control blocks (03 Table 3.1) -/

structure Rcb where
  parent : Nat
  inherit : Nat
  priority : Nat
  flags : Nat
  domain : Nat
  mincols : Nat
  maxcols : Nat
  lmem : Nat
  ways : Nat
  tiles : Nat
  ageing : Nat
  faultstage : Nat
  emuhandler : Nat
  traphandler : Nat
  savearea : Nat
  stagetable : Nat
  stagecount : Nat
  stackbase : Nat
  stacksize : Nat
  genlist : Nat
  gencount : Nat
  reserved : Nat
  deriving DecidableEq, Repr

def Rcb.ofBytes (l : List W8) : Rcb :=
  { parent := fieldAt l 0 8, inherit := fieldAt l 8 4, priority := fieldAt l 0xC 1, flags := fieldAt l 0xD 1
    domain := fieldAt l 0xE 2, mincols := fieldAt l 0x10 2, maxcols := fieldAt l 0x12 2, lmem := fieldAt l 0x14 4
    ways := fieldAt l 0x18 1, tiles := fieldAt l 0x19 1, ageing := fieldAt l 0x1C 4, faultstage := fieldAt l 0x20 2
    emuhandler := fieldAt l 0x28 8, traphandler := fieldAt l 0x30 8, savearea := fieldAt l 0x38 8
    stagetable := fieldAt l 0x40 8, stagecount := fieldAt l 0x48 2, stackbase := fieldAt l 0x50 8
    stacksize := fieldAt l 0x58 4, genlist := fieldAt l 0x60 8, gencount := fieldAt l 0x68 2
    reserved := fieldAt l 0x1A 2 + fieldAt l 0x22 6 + fieldAt l 0x4A 6 + fieldAt l 0x5C 4 + fieldAt l 0x6A 22 }

def Rcb.inherits (r : Rcb) (k : Nat) : Bool := r.inherit.testBit k

/-- Reserved fields, and those no inheritance covers (03 R49). -/
def Rcb.clean (r : Rcb) : Bool :=
  decide (r.reserved = 0 ∧ r.inherit < 2 ^ 13 ∧ r.priority < 64 ∧ r.flags < 16 ∧ 1 ≤ r.stagecount ∧ r.stagecount ≤ 1024)
    && decide (r.stagetable % 64 = 0) && (r.parent != 0 || r.inherit == 0)

/-- The effective values (03 Table 3.2); the fault stage is an index of the table it is resolved in. -/
def Rcb.effective (r : Rcb) (rcb : Nat) (p : Effective) : Effective :=
  { priority := if r.inherits 0 then p.priority else r.priority
    restartable := if r.inherits 1 then p.restartable else r.flags.testBit 0
    hostDependent := if r.inherits 1 then p.hostDependent else r.flags.testBit 1
    detachable := if r.inherits 1 then p.detachable else r.flags.testBit 2
    faultsToHost := if r.inherits 1 then p.faultsToHost else r.flags.testBit 3
    domain := if r.inherits 2 then p.domain else BitVec.ofNat 16 r.domain
    mincols := if r.inherits 3 then p.mincols else r.mincols
    maxcols := if r.inherits 3 then p.maxcols else r.maxcols
    lmem := if r.inherits 4 then p.lmem else r.lmem
    ways := if r.inherits 5 then p.ways else r.ways
    tiles := if r.inherits 6 then p.tiles else r.tiles
    ageing := if r.inherits 7 then p.ageing else if r.ageing = 0 then 4096 else r.ageing
    faultstage := if r.inherits 8 then p.faultstage
      else if r.faultstage = 0xFFFF then none else some ⟨rcb, r.faultstage⟩
    emuhandler := if r.inherits 9 then p.emuhandler else BitVec.ofNat 64 r.emuhandler
    traphandler := if r.inherits 10 then p.traphandler else BitVec.ofNat 64 r.traphandler
    stackbase := if r.inherits 11 then p.stackbase else r.stackbase
    stacksize := if r.inherits 11 then p.stacksize else r.stacksize
    genlist := if r.inherits 12 then p.genlist else r.genlist
    gencount := if r.inherits 12 then p.gencount else r.gencount }

/-- The ranges of 03 Table 3.1, on effective values. -/
def Effective.inRange (e : Effective) : Bool :=
  decide (e.priority < 64 ∧ e.mincols ≤ 104 ∧ 1 ≤ e.maxcols ∧ e.maxcols ≤ 104 ∧ e.mincols ≤ e.maxcols)
    && decide (e.lmem % 4096 = 0 ∧ e.lmem ≤ 0x100000 ∧ e.ways ≤ 16 ∧ e.tiles ≤ 8)
    && decide (256 ≤ e.ageing ∧ e.ageing ≤ 65536 ∧ e.stacksize % 256 = 0 ∧ e.gencount ≤ 256)

/-! ## Stage descriptors (03 Table 3.3) -/

def StageDesc.ofBytes (l : List W8) : StageDesc :=
  let rule := fieldAt l 0xB 1
  { entry := BitVec.ofNat 64 (fieldAt l 0 8), recsize := 16 * (fieldAt l 8 1 % 16 + 1), crewsize := fieldAt l 9 1
    stripeCode := fieldAt l 0xA 1, timed := rule.testBit 0, paired := rule.testBit 1, persistent := rule.testBit 2
    capacity := fieldAt l 0xC 4, timer := fieldAt l 0x10 4, lsize := fieldAt l 0x14 4
    lmode := BitVec.ofNat 8 (fieldAt l 0x18 1), rangeunit := fieldAt l 0x19 1, nbind := fieldAt l 0x1A 1
    tiles := fieldAt l 0x1B 1, die := fieldAt l 0x1C 1, bindings := fieldAt l 0x20 8
    outs := (List.range 4).map fun k => fieldAt l (0x28 + 2 * k) 2 }

/-- A reserved bit or field of the bytes is set. -/
def stageReserved (l : List W8) : Bool :=
  decide (fieldAt l 8 1 ≥ 16 ∨ fieldAt l 0xB 1 ≥ 8 ∨ fieldAt l 0x18 1 ≥ 16 ∨ fieldAt l 0x1D 3 ≠ 0 ∨ fieldAt l 0x30 16 ≠ 0)

def StageDesc.tile (d : StageDesc) : Bool := d.lmode.getLsbD 0
def StageDesc.span (d : StageDesc) : Nat := d.lmode.toNat / 2 % 8
def StageDesc.registers (d : StageDesc) : Nat := d.crewsize * stripeSize d.stripeCode

/-- A malformed descriptor, for the effective values of its region and its number of stages (03 R52). -/
def StageDesc.malformed (d : StageDesc) (e : Effective) (stagecount : Nat) : Bool :=
  decide (d.entry.toNat % 4 ≠ 0 ∨ d.crewsize = 0 ∨ d.crewsize > 32 ∨ d.stripeCode > 4 ∨ d.capacity = 0 ∨ d.capacity > 65536)
    || (if d.timed then d.timer == 0 else d.timer != 0)
    || decide (d.lsize % (if d.tile then 16384 else 4096) ≠ 0 ∨ d.lsize > e.lmem ∨ d.lsize < d.crewsize * d.recsize)
    || decide (d.span > 5 ∨ (d.tile ∧ d.span ≠ 0) ∨ (if d.persistent then d.rangeunit > 15 else d.rangeunit ≠ 0))
    || decide (d.nbind > 8 ∨ d.tiles > e.tiles ∨ d.die > 1 ∨ (d.paired ∧ d.persistent))
    || decide (d.registers * (if d.paired then 2 else 1) > Config.columnRegisters)
    || d.outs.any fun o => o != 0xFFFF && decide (stagecount ≤ o)

def Stage.empty : Stage :=
  { desc := none, capacity := none, queue := [], formed := [], saved := [], start := none, grant := [], waiting := none }

/-- The stages of a table; a descriptor that cannot be read is malformed. -/
def State.readStages (s : State) (e : Effective) (table count : Nat) : Nat → Nat → List Stage × State
  | 0, _ => ([], s)
  | n + 1, i =>
    let (r, s) := s.fwRead (schedulerOf 0) true (table + 64 * i) 64
    let st : Stage := match r with
      | .error _ => Stage.empty
      | .ok l =>
        let d := StageDesc.ofBytes l
        { Stage.empty with
          desc := if stageReserved l || d.malformed e count then none else some d
          capacity := some d.capacity }
    let (rest, s) := s.readStages e table count n (i + 1)
    (st :: rest, s)

/-- A stage that can be a region's fault stage (03 R49, 11 R224). -/
def faultStageOk (stages : List Stage) (i : Nat) : Bool :=
  match (stages[i]?).bind Stage.desc with
  | none => false
  | some d => d.recsize == 64 && !d.paired && !d.persistent

/-! ## Reading a region (03 R48) -/

/-- The save area lies in pinned pages (03 R49): 4,096 entries of 8 bytes. -/
def State.pinned (s : State) (va n : Nat) : Bool :=
  (pagesOf va n).all fun p => match s.leafAt 0 (4096 * p) with
    | some e => leafPinned e.leaf
    | none => false

/-- Read an RCB, and those above it that are not live; none when it, or one above it, is malformed or cannot be read.
The fuel is the number of blocks from it to the root, at most nine. -/
def State.readRegion (s : State) : Nat → Nat → Option Region × State
  | 0, _ => (none, s)
  | n + 1, rcb =>
    match s.region? rcb with
    | some r => (some r, s)
    | none =>
      if rcb % 128 ≠ 0 then (none, s)
      else match s.fwRead (schedulerOf 0) true rcb 128 with
        | (.error _, s) => (none, s)
        | (.ok l, s) =>
          let r := Rcb.ofBytes l
          if !r.clean then (none, s)
          else
            let (up, s) := if r.parent = 0 then (some Effective.zero, s) else
              match s.readRegion n r.parent with
              | (some p, s) => (some p.eff, s)
              | (none, s) => (none, s)
            match up with
            | none => (none, s)
            | some p =>
              let e := r.effective rcb p
              let (stages, s) := s.readStages e r.stagetable r.stagecount r.stagecount 0
              let faultOk := r.inherits 8 || r.faultstage == 0xFFFF || faultStageOk stages r.faultstage
              if e.inRange && faultOk && s.pinned r.savearea 32768 then
                let g : Region := { rcb, parent := r.parent, eff := e, savearea := r.savearea, stages }
                (some g, { s with regions := s.regions ++ [g] })
              else (none, s)

/-- The number of regions above a live one. -/
def State.depthAbove (s : State) : Nat → Nat → Nat
  | 0, _ => 0
  | n + 1, rcb => match s.region? rcb with
    | some r => if r.parent = 0 then 0 else s.depthAbove n r.parent + 1
    | none => 0

/-- The region that an RCB names, live from then on: its tree is at most eight levels deep above it (03 R49). -/
def State.openRegion (s : State) (rcb : Nat) : Option Region × State :=
  match s.readRegion 9 rcb with
  | (some r, s1) => if s1.depthAbove 16 rcb > 8 then (none, { s1 with regions := s.regions }) else (some r, s1)
  | (none, s1) => (none, { s1 with regions := s.regions })

/-! ## Regions that are live (03 R48) -/

def Stage.idle (t : Stage) : Bool := t.queue == [] && t.formed == [] && t.saved == [] && t.start.isNone

/-- Work of the region itself stands: records, crews, saved crews, or a record of a fault bound for one of its stages. -/
def State.busy (s : State) (r : Region) : Bool :=
  r.stages.any (fun t => !t.idle) || (s.crews.any fun c => c.at_.rcb = r.rcb)
    || (s.outgoing.any fun o => match o.dest with
      | .stage a => a.rcb == r.rcb
      | .ring _ => false)
    || (s.transit.any fun t => t.stage.rcb = r.rcb) || (s.launching.any fun l => l.at_.rcb = r.rcb)

/-- The regions from one to its root. -/
def State.lineage (s : State) : Nat → Nat → List Nat
  | 0, _ => []
  | n + 1, rcb => match s.region? rcb with
    | none => [rcb]
    | some r => if r.parent = 0 then [rcb] else rcb :: s.lineage n r.parent

/-- Regions retire that have no work and no descendant with work. -/
def State.retire (s : State) : State :=
  let live := (s.regions.filter fun r => s.busy r).flatMap fun r => s.lineage 10 r.rcb
  { s with regions := s.regions.filter fun r => live.contains r.rcb }

def State.killed (s : State) (rcb : Nat) : Bool := s.kills.contains rcb

/-- The region lies at or below one of a list. -/
def State.under (s : State) (top rcb : Nat) : Bool := (s.lineage 10 rcb).contains top

end Sys2Proof.Machine
end

