-- ==== Sys2Proof/Machine/Queues.lean ====
section
/-! DEFINITION. Stage queues: appending, gathering, ENQ, QSTAT, RANGE (03 R56 to R59, R66 to R70; 15 R309; 16 R357;
17 R360); the end of a crew's residence, restarts and kills (11 R226, R230); fault records and their disposition
(11 R223 to R225); the host rings (12 R243). -/

namespace Sys2Proof.Machine

open Sys2Proof

/-! ## Gathering (03 R58, R59) -/

def evens : List α → List α
  | [] => []
  | x :: t => x :: (match t with
    | [] => []
    | _ :: r => evens r)
def odds : List α → List α
  | [] => []
  | _ :: t => evens t

/-- Form one crew, or pair, of k threads from the head of the queue. -/
def Stage.form (t : Stage) (paired : Bool) (k now : Nat) : Stage :=
  let n := if paired then 2 * k else k
  let l := t.queue.take n
  let f : Formed := if paired then ⟨evens l, some (odds l), now⟩ else ⟨l, none, now⟩
  { t with queue := t.queue.drop n, formed := t.formed ++ [f], waiting := some (t.waiting.getD now) }

/-- Form every crew whose records wait in full. -/
def Stage.gather (d : StageDesc) (now : Nat) : Nat → Stage → Stage
  | 0, t => t
  | n + 1, t =>
    if d.persistent ∨ d.crewsize = 0 then t
    else if t.queue.length ≥ (if d.paired then 2 * d.crewsize else d.crewsize) then
      Stage.gather d now n (t.form d.paired d.crewsize now)
    else t

def State.gather (s : State) (a : StageAt) : State :=
  s.modStage a fun t => match t.desc with
    | some d => t.gather d s.ns t.queue.length
    | none => t

/-- Records appended as one block: one event of the store order (03 R55, R56). -/
def State.append (s : State) (a : StageAt) (rs : List (List W8)) : State :=
  ({ s.modStage a (fun t => { t with queue := t.queue ++ rs.map fun b => (⟨b, s.ns, 0⟩ : QRec) }) with store := s.store + 1 }).gather a

def leastOf : List Nat → Nat
  | [] => 0
  | x :: t => t.foldl min x
/-- The append time of the oldest waiting record: a record that was put back keeps its own (03 R58). -/
def Stage.oldest (t : Stage) : Nat := leastOf (t.queue.map QRec.ns)

/-- The timer of a stage has lapsed for the records that wait (03 R58, R59): the number of threads that it launches. -/
def Stage.lapsed (t : Stage) (now : Nat) : Nat :=
  match t.desc with
  | some d =>
    let k := if d.paired then t.queue.length / 2 else t.queue.length
    if d.timed ∧ !d.persistent ∧ t.queue ≠ [] ∧ t.oldest + d.timer ≤ now then min k d.crewsize else 0
  | none => 0

/-- When a record came to the queue, or came back. -/
def QRec.came (r : QRec) : Nat := max r.ns r.back

/-- The latest time at which a lapsed stage forms its crew: 20 ns after the first of its records' lapses, of a record that
came back lapsed after its return; of a pair, 20 ns after the partner's arrival where that is later (03 R58, R59). -/
def Stage.lapseBy (t : Stage) : Nat :=
  match t.desc with
  | some d =>
    let came := t.queue.map QRec.came
    let partner := if d.paired then leastOf (came.erase (leastOf came)) else 0
    max (leastOf (t.queue.map fun r => max (r.ns + d.timer) r.back)) partner + 20
  | none => 0

/-- CREW_TIMER_LAPSE (03 R58). -/
def execCrewTimerLapse (a : StageAt) (s : State) : Host.Outcome State Fault Refusal :=
  .next (s.modStage a fun t =>
    if t.lapsed s.ns = 0 then t else t.form ((t.desc.map StageDesc.paired).getD false) (t.lapsed s.ns) s.ns)

/-! ## ENQ (03 R56, R57; 15 R309) -/

def Stage.full (t : Stage) : Bool :=
  match t.desc with
  | some d => decide (d.capacity ≤ t.queue.length)
  | none => false

/-- A stage that an ENQ may name: well formed, not persistent, of a region that is not killed. -/
def State.enqTarget (s : State) (a : StageAt) : Option StageDesc :=
  match (s.stage? a).bind Stage.desc with
  | some d => if d.persistent || s.killed a.rcb then none else some d
  | none => none

def State.enqThread (x y : VReg) (nb : Bool) (s : State) (tid : Nat) : State :=
  s.withThread tid fun c t =>
    let at_ : StageAt := ⟨c.at_.rcb, (t.v x.toNat).toNat⟩
    match s.enqTarget at_ with
    | none => s.raise tid .badStage
    | some d =>
      let a := (t.v y.toNat).toNat
      if a % 16 ≠ 0 then s.raiseBad tid (Bad.local_ .alignment a)
      else match s.localReady c a d.recsize 16 true with
        | .go =>
          let s := s.seeLocal c tid a d.recsize
          let record := s.localBytes c a d.recsize
          if d.die ≠ c.place.die then
            let x : Transit := ⟨at_, record, some ⟨c.place, tid⟩, nb⟩
            { s with transit := s.transit ++ [x] }.park c.place tid .remoteEnq
          else if ((s.stage? at_).map Stage.full).getD false then
            if nb then (s.modThread c.place tid fun t => t.setC 6 true).finish tid
            else s.park c.place tid (.queue at_.stage record)
          else
            let s := s.append at_ [record]
            (if nb then s.modThread c.place tid fun t => t.setC 6 false else s).finish tid
        | g => s.localStop tid g

/-- ENQ. -/
def execEnq (x y : VReg) (s : State) : Host.Outcome State Fault Refusal := .next (s.inOrder (State.enqThread x y false))
/-- ENQ.nb. -/
def execEnqNb (x y : VReg) (s : State) : Host.Outcome State Fault Refusal := .next (s.inOrder (State.enqThread x y true))

/-- ENQ_QUEUE_ROOM: a parked ENQ looks at its queue again, and appends its record when there is room. -/
def execEnqQueueRoom (t : ThreadAt) (s : State) : Host.Outcome State Fault Refusal :=
  match s.crew? t.crew, (s.thread? t.crew t.tid).map Thread.wait with
  | some c, some (.queue i record) =>
    let a : StageAt := ⟨c.at_.rcb, i⟩
    match s.stage? a with
    | none => .next s
    | some st =>
      if c.running ∧ !st.full then .next ((s.append a [record]).modThread t.crew t.tid fun th => { th with wait := .ready, pc := th.pc + 4 })
      else .next s
  | _, _ => .next s

/-! ## QSTAT and RANGE -/

/-- What QSTAT answers of a stage: the records that wait, and the capacity; the capacity of a descriptor that could not be
read is not stated. -/
def State.qstat (s : State) (a : StageAt) (st : Stage) : W32 × W32 × State :=
  let n := if s.killed a.rcb ∨ (st.desc.map StageDesc.persistent) = some true then 0 else st.queue.length
  match st.capacity with
  | some k => (BitVec.ofNat 32 n, BitVec.ofNat 32 k, s)
  | none =>
    let (w, s) := s.anyWord
    (BitVec.ofNat 32 n, w, s)

/-- One thread of QSTAT; of a stage on the other die the answer comes later (16 R357). -/
def State.qstatThread (x y : VReg) (s : State) (tid : Nat) : State :=
  s.withThread tid fun c t =>
    let a : StageAt := ⟨c.at_.rcb, (t.v y.toNat).toNat⟩
    match s.stage? a with
    | none => s.raise tid .badStage
    | some st =>
      if (st.desc.any fun d => d.die ≠ c.place.die) then s.park c.place tid (.remoteQstat a.stage x.toNat)
      else
        let (n, k, s) := s.qstat a st
        (s.modThread c.place tid fun t => (t.setV x.toNat n).setV (x.toNat + 1) k).finish tid
/-- QSTAT (03 R69, 16 R357). -/
def execQstat (x y : VReg) (s : State) : Host.Outcome State Fault Refusal := .next (s.inOrder (State.qstatThread x y))

/-- The other die's queue manager answers a QSTAT: a snapshot of its queue as it stands. -/
def State.answerQstat (s : State) (c : Crew) (tid : Nat) : State :=
  match (c.threads[tid]?).map Thread.wait with
  | some (.remoteQstat i x) => match s.stage? ⟨c.at_.rcb, i⟩ with
    | none => s
    | some st =>
      let (n, k, s) := s.qstat ⟨c.at_.rcb, i⟩ st
      s.modThread c.place tid fun t => { (t.setV x n).setV (x + 1) k with wait := .ready, pc := t.pc + 4 }
  | _ => s
/-- Each QSTAT on its way is answered in this cycle or in a later one (log 4). -/
def State.answerQstats (s : State) : State :=
  let waiting := s.crews.flatMap fun c => (c.threads.zipIdx.filterMap fun x => match x.1.wait with
    | .remoteQstat _ _ => some (c, x.2)
    | _ => none)
  waiting.foldl (fun s x =>
    let (i, s) := s.pick 2
    if i = 0 then s.answerQstat x.1 x.2 else s) s

/-- Crews of a stage that are resident and have not ended. -/
def State.active (s : State) (a : StageAt) : Nat := (s.crews.filter fun c => c.at_ = a ∧ c.phase ≠ .ended).length

def RangeUnit.count (r : RangeUnit) (active : Nat) : Nat :=
  min (max r.minChunk (ceilDiv r.remaining.toNat (r.divisor * max 1 active))) r.remaining.toNat

/-- One thread of RANGE: the unit is one of the issuing crew's die, for which the spec names no die (DESIGN CHOICE, log
85). -/
def State.rangeUnitThread (x : VReg) (unit : Nat) (s : State) (tid : Nat) : State :=
  s.withThread tid fun c _ =>
    match (s.die c.place.die).ranges.find? fun r => r.1 = unit with
    | none => s.raise tid .badStage
    | some (_, r) =>
      if r.stage.rcb ≠ c.at_.rcb then s.raise tid .badStage
      else
        let n := BitVec.ofNat 32 (r.count (s.active r.stage))
        let r' : RangeUnit := { r with next := r.next + n, remaining := r.remaining - n }
        let s := s.modDie c.place.die fun d => { d with ranges := d.ranges.map fun q => if q.1 = unit then (unit, r') else q }
        (s.modThread c.place tid fun t => (t.setV x.toNat r.next).setV (x.toNat + 1) n).finish tid
/-- RANGE (03 R68). -/
def execRange (x : VReg) (unit : BitVec 4) (s : State) : Host.Outcome State Fault Refusal :=
  .next (s.inOrder (State.rangeUnitThread x unit.toNat))

/-! ## The end of a residence -/

/-- The sectors of a transfer that were counted off before they were written are written, up to one that cannot be (07
R157, 10 R214). -/
def State.flushLate (s : State) (c : Crew) (t : Transfer) : List LateSector → State
  | [] => s
  | x :: l =>
    if !t.gdst ∧ (s.checkLocal c x.addr (extentOf x.cells) 1).isSome then s
    else match s.writeAt c t x.cells x.goal with
      | (.done pts, s) => s.flushLate c { t with pts } l
      | (_, s) => s

/-- Those of a crew's transfers that pass a test stop (10 R214), one after another. -/
def State.stopTransfers (s : State) (c : Crew) (which : Transfer → Bool) : State :=
  let ts := (s.col c.place.die c.place.col).transfers.filter fun t => t.uid = c.uid ∧ which t
  ts.foldl (fun s t => match (s.col c.place.die c.place.col).transfers.find? fun u => u.tag = t.tag with
    | some u => (s.flushLate c u u.late).abortTransfer c { u with late := [] } (Bad.plain .columnFenced)
    | none => s) s

/-- The object of an aborted command is marked. -/
def State.abortObject (s : State) (c : Crew) (b pts : Nat) (phase : Bool) : State :=
  if (s.barrierBad c b).isSome then s else s.updBarrier c b (pts + 1) (Barrier.abort phase)

/-- Those of a crew's drains that the engine has not begun, and that pass a test, stop as transfers do, and are gone (10
R214, 16 R337). -/
def State.stopDrains (s : State) (c : Crew) (which : MatOp → Bool := fun _ => true) : State :=
  let mine (o : MatOp) : Bool := o.uid == c.uid && o.drain.isSome && which o
  let os := (s.col c.place.die c.place.col).ops.filter mine
  let s := os.foldl (fun s o => match o.drain with
    | some (d, phase) => s.abortObject c d.barrier.toNat o.pts phase
    | none => s) s
  s.modCol c.place.die c.place.col fun k => { k with ops := k.ops.filter fun (o : MatOp) => !mine o }

/-- Those of a crew's RAST requests that are accepted, and pass a test, stop as transfers do, and are gone (10 R214, 17
R362). -/
def State.stopRasters (s : State) (c : Crew) (which : FfRequest → Bool := fun _ => true) : State :=
  let mine (r : FfRequest) : Bool := r.uid == c.uid && r.unit == .rast && r.step != .waiting && which r
  let rs := (s.col c.place.die c.place.col).ff.filter mine
  let s := rs.foldl (fun s r => s.abortObject c (BinRec.ofBytes r.record).barrier r.pts r.phase) s
  s.modCol c.place.die c.place.col fun k => { k with ff := k.ff.filter fun (r : FfRequest) => !mine r }

/-- A crew's requests, loads and PEALs are dropped, and those of its operations of which a test does not hold; the queue
entries that this frees go to those that wait (03 R71). -/
def State.dropWork (s : State) (c : Crew) (keep : MatOp → Bool) : State :=
  let drop (k : Column) : Column :=
    { k with ops := k.ops.filter fun o => o.uid ≠ c.uid ∨ keep o
             ff := k.ff.filter fun (r : FfRequest) => r.uid ≠ c.uid
             loads := k.loads.filter fun (l : LoadReply) => l.uid ≠ c.uid
             peals := k.peals.filter fun (r : PealRun) => r.place ≠ c.place }
  (s.modCol c.place.die c.place.col drop).ffServeAll c.place.die c.place.col

/-- A crew's transfers stop, its matrix operations and requests are dropped. -/
def State.stopEngines (s : State) (c : Crew) : State :=
  (((s.stopTransfers c fun _ => true).stopDrains c).stopRasters c).dropWork c fun _ => false

/-- No crew of the scratchpad's owner is left on the column: its ways return at once (06 R131). -/
def State.settleOwner (s : State) (die col : Nat) : State :=
  let k := s.col die col
  match k.owner with
  | none => s
  | some r =>
    if s.crews.any fun c => c.place.die = die ∧ c.place.col = col ∧ c.at_.rcb = r then s else s.recount die col 0 none

/-- A crew leaves its column: its slot, stripes, allocation, ranges, tiles and LUT tags are free (15 R311, 10 R219). -/
def State.freeCrew (s : State) (c : Crew) : State :=
  let p := c.place
  let head := (s.col p.die p.col).reefs.head?
  let clear (k : Column) : Column :=
    { k with luts := k.luts.map fun (l : LutSlot) => if l.owner = some c.uid then { l with owner := none } else l
             transfers := k.transfers.filter fun (t : Transfer) => t.uid ≠ c.uid
             ops := k.ops.filter fun (o : MatOp) => o.uid ≠ c.uid
             ff := k.ff.filter fun (r : FfRequest) => r.uid ≠ c.uid
             loads := k.loads.filter fun (l : LoadReply) => l.uid ≠ c.uid
             peals := k.peals.filter fun (r : PealRun) => r.place ≠ p
             reefs := k.reefs.filter fun (r : ReefReq) => r.thread.crew ≠ p }
  let s : State := { s.modCol p.die p.col clear with
    crews := s.crews.filter fun k => k.place ≠ p
    victims := s.victims.filter fun q => q ≠ p
    transit := s.transit.filter fun x => (x.thread.map ThreadAt.crew) ≠ some p
    past := s.past.filter fun x => x.space ≠ .loc c.uid
    linePast := s.linePast.filter fun x => x.space ≠ .loc c.uid
    damage := s.damage.filter fun
      | .loc u _ => u ≠ c.uid
      | .scr _ _ _ => true }
  let s := s.settleOwner p.die p.col
  let s := if (s.col p.die p.col).reefs.head?.map ReefReq.thread = head.map ReefReq.thread then s else s.beginReef p.die p.col
  s.ffServeAll p.die p.col

/-- The twin of a crew that is gone goes on alone (last row of 09 Table 9.7). -/
def State.leaveTwin (s : State) (c : Crew) : State :=
  match c.twin with
  | some q => if c.widowed ∨ c.phase = .ended then s else s.widow q
  | none => s

/-- CREW_END (15 R311): the present set is empty and everything the crew has accepted is complete, and so is its twin's
guided drain of the two together (09 R204). -/
def State.crewDone (s : State) (c : Crew) : Bool :=
  let k := s.col c.place.die c.place.col
  c.phase == .ended && k.transfers.all (fun t => t.uid != c.uid) && k.ops.all (fun o => o.uid != c.uid && o.twin != some c.uid)
    && k.ff.all fun r => r.uid != c.uid
def execCrewEnd (p : CrewAt) (s : State) : Host.Outcome State Fault Refusal :=
  match s.crew? p with
  | none => .next s
  | some c => .next (if s.crewDone c then (s.freeCrew c).retire else s)

/-- Records put back at the head of a stage's queue, in order, with their append times (11 R230). -/
def State.putBack (s : State) (a : StageAt) (rs : List QRec) : State :=
  if (s.desc a).persistent then s
  else (s.modStage a fun t => { t with queue := rs.map (fun r => { r with back := s.ns }) ++ t.queue }).gather a

/-- A crew that is left only for the tiles that its twin's guided drain takes (09 R204): none of its threads is present, its
requests are dropped, and CREW_END frees it once that drain has taken them. -/
def Crew.remains (c : Crew) : Crew :=
  { c with
    present := 0, phase := .ended, held := [], records := [], bindPage := none
    threads := c.threads.map fun (t : Thread) =>
      { t with wait := .ready, tag := false, awaiting := [], next := none, missed := none, peal := false } }
def State.leaveTiles (s : State) (c : Crew) : State :=
  let p := c.place
  let s := ((((s.stopTransfers c fun t => !t.isFill).stopDrains c).stopRasters c).dropWork c fun _ => true).modCrew p Crew.remains
  let head := (s.col p.die p.col).reefs.head?
  let s : State := { s.modCol p.die p.col (fun k => { k with reefs := k.reefs.filter fun (r : ReefReq) => r.thread.crew ≠ p }) with
    victims := s.victims.filter fun q => q ≠ p
    transit := s.transit.filter fun x => (x.thread.map ThreadAt.crew) ≠ some p }
  if (s.col p.die p.col).reefs.head?.map ReefReq.thread = head.map ReefReq.thread then s else s.beginReef p.die p.col

/-- CREW_RESTART (11 R230): the crew's resources are freed, and its launch records wait again. While a guided drain that
its ended twin has accepted is still to take its tiles, they stay (09 R204; DESIGN CHOICE, log 42). -/
def State.restartCrew (s : State) (c : Crew) : State :=
  let taken := (s.col c.place.die c.place.col).ops.any fun o => o.uid != c.uid && o.twin == some c.uid
  ((if taken then s.leaveTiles c else (s.stopEngines c).freeCrew c).leaveTwin c).putBack c.at_ c.records

/-- The records of two twins, in record order (03 R59, 11 R230). -/
def interleave : List α → List α → List α
  | x :: t, y :: r => x :: y :: interleave t r
  | l, [] => l
  | [], r => r
def pairRecords (c d : Crew) : List QRec := if c.first then interleave c.records d.records else interleave d.records c.records

/-- Both twins are restarted: their records go back together. -/
def State.restartPair (s : State) (c d : Crew) : State :=
  ((((s.stopEngines c).freeCrew c).stopEngines d).freeCrew d).putBack c.at_ (pairRecords c d)

/-- A crew and its twin, which leave and come back together (09 R205). -/
def State.withTwin (s : State) (c : Crew) : List Crew :=
  match c.twin.bind s.crew? with
  | some q => if c.widowed ∨ q.phase = .ended then [c] else [c, q]
  | none => [c]

/-- A crew is restarted, together with a twin that has not ended (11 R230; DEDUCED, log 42). -/
def State.restartAll (s : State) (c : Crew) : State :=
  match s.withTwin c with
  | [a, b] => s.restartPair a b
  | _ => s.restartCrew c

/-- A CONTEXT_LOST record of each crew, with ticket 0 unless it asks for a reply (11 R230). -/
def State.tellLost (s : State) (cs : List Crew) (reply : Bool) : State :=
  cs.foldl (fun s c => s.crewRecord c (some .contextLost) 1 0 0 0 0 reply) s

/-- A restart under 11 R230, with its records. -/
def State.restartTold (s : State) (c : Crew) : State := (s.tellLost (s.withTwin c) false).restartAll c

/-! ## Kills (11 R226) -/

def State.killRegion (s : State) (rcb : Nat) : State :=
  let dead := ((s.regions.map Region.rcb).filter fun r => s.under rcb r)
  let dead := if dead.contains rcb then dead else rcb :: dead
  let gone := s.crews.filter fun c => dead.contains c.at_.rcb
  let s := gone.foldl (fun s c => (s.stopEngines c).freeCrew c) s
  let clean (d : Die) : Die := { d with ranges := d.ranges.filter fun r => !dead.contains r.2.stage.rcb }
  let s : State := { s with
    kills := s.kills.filter (fun r => !dead.contains r) ++ dead
    die0 := clean s.die0, die1 := clean s.die1
    tickets := s.tickets.filter fun t => !dead.contains t.rcb
    transit := s.transit.filter fun x => !dead.contains x.stage.rcb
    outgoing := s.outgoing.filter fun o => match o.dest with
      | .stage a => !dead.contains a.rcb
      | .ring _ => true
    regions := s.regions.map fun r => if dead.contains r.rcb then
      { r with stages := r.stages.map fun t =>
          { t with queue := [], formed := [], saved := [], start := none, waiting := none } } else r }
  s.retire

/-! ## Dispositions (11 R225, Table 11.3) -/

/-- A ticket whose record has reached its destination. -/
def State.delivered (s : State) (t : Ticket) : Bool := !(s.outgoing.any fun o => le32 o.bytes == t.ticket && o.dest == t.dest)

def parkedOn (k : W32) (t : Thread) : Bool := t.wait == .faultDomain k

/-- A saved crew by its serial. -/
def State.savedCrew? (s : State) (uid : Nat) : Option (StageAt × Saved) :=
  s.regions.findSome? fun r => r.stages.zipIdx.findSome? fun t =>
    (t.1.saved.find? fun x => x.crew.uid = uid).map fun x => (⟨r.rcb, t.2⟩, x)

def State.modSaved (s : State) (uid : Nat) (f : Saved → Saved) : State :=
  { s with regions := s.regions.map fun r => { r with stages := r.stages.map fun t =>
      { t with saved := t.saved.map fun x => if x.crew.uid = uid then f x else x } } }
def State.dropSaved (s : State) (uid : Nat) : State :=
  { s with regions := s.regions.map fun r => { r with stages := r.stages.map fun t =>
      { t with saved := t.saved.filter fun x => x.crew.uid ≠ uid } } }

/-- The thread goes on by an action: 0 retry, 1 skip, 2 end; behind the stores of who disposed of it, up to a timestamp
(11 R225). -/
def State.goOn (s : State) (p : CrewAt) (tid a pts : Nat) : State :=
  if a = 2 then s.endThread p tid
  else s.modThread p tid fun t =>
    { t with wait := .ready, next := none, pc := if a = 0 then t.epc else t.epc + 4, pts := max t.pts pts }

/-- The saved crews that leave and come back together. -/
def Stage.together (t : Stage) (x : Saved) : List Saved :=
  x :: (match x.pair with
    | some u => (t.saved.find? fun y => y.crew.uid = u).toList
    | none => [])
/-- Saved crews of a stage that come back together are restarted under 11 R230: their images are not used again. -/
def State.restartSaved (s : State) (a : StageAt) (xs : List Saved) : State :=
  let records := match xs with
    | [x, y] => pairRecords x.crew y.crew
    | _ => xs.flatMap fun x => x.crew.records
  (xs.foldl (fun s x => s.dropSaved x.crew.uid) (s.tellLost (xs.map Saved.crew) false)).putBack a records

/-- Apply an action to the record of a ticket, by an agent of a timestamp; none when it is refused. -/
def State.applyAction (s : State) (t : Ticket) (a pts : Nat) : Option State :=
  let tid := t.tid
  if a = 3 then some (s.killRegion t.rcb)
  else if t.rkind ≠ 0 then (if a = 2 then some s else none)
  else match s.crewByUid? t.uid with
    | some c =>
      let stands := c.has tid && ((c.threads[tid]?).map (parkedOn t.ticket)).getD false
      if a ≤ 1 then (if stands then some (s.goOn c.place tid a pts) else none)
      else if a = 2 then some (if stands then s.goOn c.place tid a pts else s)
      else if a = 4 then (if stands ∧ (s.eff t.rcb).restartable then some (s.restartTold c) else none)
      else none
    | none => match s.savedCrew? t.uid with
      | some (_, x) =>
        let stands := x.crew.has tid && ((x.crew.threads[tid]?).map (parkedOn t.ticket)).getD false
          && !(x.disposed.any fun d => d.1 = tid)
        let note := s.modSaved t.uid fun x => { x with disposed := x.disposed ++ [(tid, a, pts)] }
        if a ≤ 1 then (if stands ∧ !x.lost then some note else none)
        else if a = 2 then some (if stands then note else s)
        else if a = 4 then (if stands ∧ (s.eff t.rcb).restartable then some note else none)
        else none
      | none => if a = 2 then some s else none

/-- A disposition by the crews of a stage, or by the host (none), at a timestamp: whether it is refused. -/
def State.dispose (s : State) (ticket : W32) (a : Nat) (from_ : Option StageAt) (pts : Nat) : Bool × State :=
  let mine (t : Ticket) : Bool := match t.dest, from_ with
    | .stage x, some y => x == y
    | .ring _, none => true
    | _, _ => false
  match s.tickets.find? fun t => t.ticket = ticket ∧ mine t ∧ s.delivered t with
  | none => (true, s)
  | some t => match s.applyAction t a pts with
    | none => (true, s)
    | some s => (false, { s with tickets := s.tickets.filter fun x => x.ticket ≠ ticket })

/-- SYSC #16 (11 R225). The thread's own crew may end by its action. -/
def execSyscDispose (s : State) : Host.Outcome State Fault Refusal :=
  .next (s.inOrder fun s tid => s.withThread tid fun c t =>
    let (refused, s) := s.dispose (t.v 0) (t.v 1).toNat (some c.at_) (s.ptsOf c.place tid)
    if ((s.crew? c.place).map Crew.uid) = some c.uid then
      (s.modThread c.place tid fun t => t.setC 6 refused).finish tid
    else s)

/-! ## Records on their way (11 R224, 12 R243) -/

/-- The first record of a die for each stage, in order. -/
def firstStageRecords (die : Nat) : List Outgoing → List StageAt → List (Outgoing × StageAt)
  | [], _ => []
  | o :: t, seen => match o.dest with
    | .stage a => if o.die = die ∧ !seen.contains a then (o, a) :: firstStageRecords die t (a :: seen)
      else firstStageRecords die t seen
    | .ring _ => firstStageRecords die t seen

def State.deliverable (s : State) (die : Nat) : List (Outgoing × StageAt) :=
  (firstStageRecords die s.outgoing []).filter fun x => match s.stage? x.2 with
    | some t => !t.full
    | none => false

/-- FAULT_RECORD_APPEND (11 R224): the die's oldest record whose stage has room is appended; records for one stage keep
their order. -/
def execFaultRecordAppend (die : Nat) (s : State) : Host.Outcome State Fault Refusal :=
  match s.deliverable die with
  | (o, a) :: _ => .next ({ s with outgoing := s.outgoing.erase o }.append a [o.bytes])
  | [] => .next s

/-- rtail as it will stand when the entries already posted have been transmitted. -/
def State.ringTail (s : State) (k : Nat) : Nat :=
  let r := s.host.rings.getD k HostRing.reset
  let n := (s.hostOut.filter fun
    | .entry j _ _ _ => j = k
    | _ => false).length
  (r.tail.toNat + n) % 2 ^ (r.size.toNat % 32)

def State.ringRoom (s : State) (k : Nat) : Bool :=
  let r := s.host.rings.getD k HostRing.reset
  s.attached && r.size.getLsbD 8 && (s.ringTail k + 1) % 2 ^ (r.size.toNat % 32) != r.head.toNat % 2 ^ (r.size.toNat % 32)

/-- HOST_RING_ENTRY_WRITE (12 R243): the oldest record for the ring is posted to its tail, which advances as the entry is
transmitted; then the message of its vector. -/
def execHostRingEntryWrite (k : Nat) (s : State) : Host.Outcome State Fault Refusal :=
  match s.outgoing.find? fun o => o.dest = .ring k with
  | none => .next s
  | some o =>
    if !s.ringRoom k then .next s
    else
      let r := s.host.rings.getD k HostRing.reset
      let size := if k = 0 then 32 else 64
      let s := { s with
        outgoing := s.outgoing.erase o, store := s.store + 1
        hostOut := s.hostOut ++ [.entry k (r.base.toNat + size * s.ringTail k) o.bytes s.store] }
      .next (if r.size.getLsbD 9 then s.sendMsi (k + 1) else s)

end Sys2Proof.Machine
end

