-- ==== Sys2Proof/Machine/Launch.lean ====
section
/-! DEFINITION. Host launch (03 R54, R55, R66, R67), the grants of columns (03 R50, R63, R64), the placing of crews
(03 R53, R60, 02 R22, R31, R33, 04 R81), and their prologue and start (03 R61, R62, 10 R221). -/

namespace Sys2Proof.Machine

open Sys2Proof

/-! ## Launch packets -/

/-- 03 Table 3.4. -/
structure Packet where
  rcb : Nat
  records : Nat
  done : Nat
  stage : Nat
  count : Nat
  flags : Nat
  reserved : Nat
  deriving DecidableEq, Repr

def Packet.ofBytes (l : List W8) : Packet :=
  { rcb := fieldAt l 0 8, records := fieldAt l 8 8, done := fieldAt l 0x10 8, stage := fieldAt l 0x18 2
    count := if fieldAt l 0x1A 2 = 0 then 65536 else fieldAt l 0x1A 2, flags := fieldAt l 0x1C 2
    reserved := fieldAt l 0x1E 2 }

/-- Bring-up has ended and the schedulers run (12 R260). -/
def State.ready (s : State) : Bool := s.host.bringup &&& 3 == 2

/-- Die 0's scheduler takes packets (03 R54, 11 R238, 12 R253, R260); the packet in progress goes on whatever sqctl says,
but while its records are on their way to die 1 (12 Table 12.3). -/
def State.takesPackets (s : State) : Bool :=
  s.ready && !s.die0.frozen && s.fatal.isNone && (match s.launching with
    | some l => !l.forwarded || s.killed l.at_.rcb
    | none => s.host.sqctl.getLsbD 0 && s.host.sqhead != s.host.sqtail)

def State.packetAddr (s : State) : Nat := s.host.sqbase.toNat + 32 * s.host.sqhead.toNat

/-- The packet at the head of the ring; none when its read is refused. -/
def State.readPacket (s : State) : Option Packet × State :=
  let a := s.packetAddr
  if homeOf a ≠ some 0 ∨ homeOf (a + 31) ≠ some 0 then (none, s)
  else match s.devGate (schedulerOf 0) .read a 32 0 with
    | (false, s) => (none, s)
    | (true, s) => if s.poisoned a 32 then (none, s) else (some (Packet.ofBytes (s.bytes .dev a 32)), s)

/-- What the checks of a packet give: a status, or the stage and the records to append. -/
inductive Verdict where
  | status (n : Nat)
  | records (d : StageDesc) (rs : List (List W8))
  deriving DecidableEq, Repr

/-- A list of bytes as records of n bytes. -/
def chunks (n : Nat) : Nat → List W8 → List (List W8)
  | 0, _ => []
  | k + 1, l => l.take n :: chunks n k (l.drop n)

/-- A range unit that is bound to a stage. -/
def State.unitBound (s : State) (die unit : Nat) : Bool := (s.die die).ranges.any fun r => r.1 = unit

/-- The checks of 03 R55, in their order. -/
def State.judgePacket (s : State) (p : Packet) : Verdict × State :=
  match s.openRegion p.rcb with
  | (none, s) => (.status 1, s)
  | (some r, s) =>
    if (s.lineage 10 p.rcb).any s.killed then (.status 5, s)
    else match (r.stages[p.stage]?).bind Stage.desc with
      | none => (.status 2, s)
      | some d =>
        if p.count > d.capacity ∨ p.flags ≥ 2 ∨ p.reserved ≠ 0 ∨ (d.persistent ∧ p.count ≠ 1) then (.status 3, s)
        else if d.persistent ∧ ((s.stage? ⟨p.rcb, p.stage⟩).bind Stage.start).isSome then (.status 6, s)
        else match s.fwRead (schedulerOf 0) true p.records (p.count * d.recsize) with
          | (.error _, s) => (.status 4, s)
          | (.ok l, s) =>
            if d.persistent ∧ (fieldAt l 8 2 = 0 ∨ fieldAt l 10 2 = 0 ∨ s.unitBound d.die d.rangeunit) then (.status 7, s)
            else (.records d (chunks d.recsize p.count l), s)

/-- A persistent stage starts: its range unit takes the first 12 bytes of its record (03 R67). -/
def State.startStage (s : State) (a : StageAt) (d : StageDesc) (l : List W8) : State :=
  let unit : RangeUnit :=
    { stage := a, next := BitVec.ofNat 32 (fieldAt l 4 4), remaining := BitVec.ofNat 32 (fieldAt l 0 4)
      minChunk := fieldAt l 8 2, divisor := fieldAt l 10 2 }
  (s.modStage a fun t => { t with start := some l, waiting := some s.ns }).modDie d.die fun k =>
    { k with ranges := k.ranges ++ [(d.rangeunit, unit)] }

/-- COMPLETION_WORD_WRITE: dropped and logged when it is refused. -/
def State.completeWord (s : State) (va status index : Nat) : State :=
  let l := leBytes 8 (status + 2 ^ 32 * index)
  match s.checkNow (schedulerOf 0) true (BitVec.ofNat 64 va) 8 .write with
  | (.device pa _ e, s) => (s.devStore s.die0.floor pa l (some e)).2
  | (.host pa _, s) => s.hostStore pa l (2 ^ 65 + 117)
  | (.register d o, s) => s.regWrite (schedulerOf 0) d o l
  | (_, s) => s.logFirmware 0 va

/-- The packet is complete: its completion word, its message, and the head moves on. -/
def State.finishPacket (s : State) (done flags status : Nat) : State :=
  let s := if done = 0 then s else s.completeWord done status s.host.sqhead.toNat
  let s := if flags % 2 = 1 then s.sendMsi 0 else s
  let head := BitVec.ofNat 32 ((s.host.sqhead.toNat + 1) % 2 ^ s.host.sqsize.toNat)
  { s with host := { s.host with sqhead := head }, launching := none }.retire

def Stage.room (t : Stage) (d : StageDesc) : Nat := d.capacity - t.queue.length
/-- A packet's records have room; a persistent stage queues none. -/
def State.roomFor (s : State) (l : Launching) : Bool :=
  match s.stage? l.at_ with
  | some t => match t.desc with
    | some d => d.persistent || decide (l.records.length ≤ t.room d)
    | none => false
  | none => false

/-- The records of a packet reach the queue manager: appended as one block, or the start of a persistent stage. -/
def State.deliverLaunch (s : State) (l : Launching) : State :=
  let d := s.desc l.at_
  (if d.persistent then s.startStage l.at_ d l.records.flatten else s.append l.at_ l.records).finishPacket l.done l.flags 0

/-- The packet in progress: ended by a kill, forwarded to die 1 behind the records sent before it, appended, or waiting
for room (03 R55, 12 R247). -/
def State.advanceLaunch (s : State) (l : Launching) : State :=
  if s.killed l.at_.rcb then s.finishPacket l.done l.flags 5
  else if l.forwarded then s
  else if (s.desc l.at_).die = 1 then
    { s with transit := s.transit ++ [⟨l.at_, [], none, false⟩], launching := some { l with forwarded := true } }
  else if s.roomFor l then s.deliverLaunch l else s

/-- LAUNCH_PACKET (03 R55): the packet in progress goes on, or the next one of the ring is taken. -/
def execLaunchPacket (s : State) : Host.Outcome State Fault Refusal :=
  if !s.takesPackets then .next s
  else match s.launching with
    | some l => .next (s.advanceLaunch l)
    | none => match s.readPacket with
      | (none, s) => .next ({ s with host := { s.host with sqctl := 0 } }.logFirmware 0 s.packetAddr)
      | (some p, s) => match s.judgePacket p with
        | (.status n, s) => .next (s.finishPacket p.done p.flags n)
        | (.records _ rs, s) =>
          let l : Launching := ⟨⟨p.rcb, p.stage⟩, rs, p.done, p.flags, false⟩
          .next ({ s with launching := some l }.advanceLaunch l)

/-- An item that has crossed to a die: an ENQ's record, or the records of a launch packet whose room there is. -/
def State.arrived (s : State) (die : Nat) (x : Transit) : Bool :=
  decide ((s.desc x.stage).die = die) && (x.thread.isSome || s.launching.any s.roomFor)

/-- REMOTE_ENQ_ACCEPT (03 R57): a die's queue manager meets the next record from the other die: appended, or refused by a
full queue, when the thread parks or sets c6 by its form; or the records of a launch packet. -/
def execRemoteEnqAccept (die : Nat) (s : State) : Host.Outcome State Fault Refusal :=
  match s.transit.find? (s.arrived die) with
  | none => .next s
  | some x =>
    let s := { s with transit := s.transit.erase x }
    match x.thread, s.launching with
    | none, some l => .next (s.deliverLaunch l)
    | none, none => .next s
    | some th, _ =>
      let full := ((s.stage? x.stage).map Stage.full).getD true
      let s := if full then s else s.append x.stage [x.bytes]
      if (s.thread? th.crew th.tid).map Thread.wait ≠ some .remoteEnq then .next s
      else if full ∧ !x.nb then .next (s.park th.crew th.tid (.queue x.stage.stage x.bytes))
      else .next (s.modThread th.crew th.tid fun t =>
        { (if x.nb then t.setC 6 full else t) with wait := .ready, pc := t.pc + 4 })

/-! ## Grants -/

def State.usable (s : State) (die col : Nat) : Bool := (s.col die col).enabled && !(s.col die col).fenced

/-- Columns on which a region or a descendant has a crew, or is granted one now (03 R50). -/
def State.regionCols (s : State) (die rcb : Nat) (given : List (StageAt × Nat)) : List Nat :=
  (((s.crews.filter fun c => c.place.die = die ∧ s.under rcb c.at_.rcb).map fun c => c.place.col)
    ++ (given.filter fun g => s.under rcb g.1.rcb).map Prod.snd).eraseDups

/-- No region from this one up to its root exceeds its maximum by the column. -/
def State.mayHave (s : State) (die rcb : Nat) (given : List (StageAt × Nat)) (col : Nat) : Bool :=
  (s.lineage 10 rcb).all fun r =>
    (s.regionCols die r given).contains col || decide ((s.regionCols die r given).length < (s.eff r).maxcols)

/-- A stage with launchable or saved crews: its priority, demand, and whole milliseconds of wait (03 R63, R64). -/
structure Claim where
  at_ : StageAt
  priority : Nat
  demand : Nat
  waited : Nat
  deriving DecidableEq, Repr

def Formed.count (f : Formed) : Nat := f.records.length + (f.second.map List.length).getD 0
def Stage.demand (t : Stage) (d : StageDesc) : Nat :=
  t.queue.length + t.formed.foldl (fun n f => n + f.count) 0 + t.saved.foldl (fun n x => n + x.crew.threads.length) 0
    + (if t.start.isSome then d.crewsize else 0)

/-- An output stage has a full queue (03 R63). -/
def State.outFull (s : State) (rcb : Nat) (d : StageDesc) : Bool :=
  d.outs.any fun o => o != 0xFFFF && ((s.stage? ⟨rcb, o⟩).map Stage.full).getD false

/-- A detachment holds the launches of a region, or its resumptions (12 Table 12.3). -/
def State.launchHeld (s : State) (rcb : Nat) : Bool :=
  s.heldLaunch && !((s.eff rcb).detachable && !(s.eff rcb).hostDependent)
def State.resumeHeld (s : State) (rcb : Nat) : Bool :=
  s.heldLaunch && !(s.eff rcb).detachable && !(s.eff rcb).hostDependent

def State.claim? (s : State) (die : Nat) (r : Region) (t : Stage × Nat) : Option Claim :=
  match t.1.desc with
  | none => none
  | some d =>
    if d.die ≠ die ∨ (t.1.formed = [] ∧ t.1.saved = [] ∧ t.1.start.isNone) ∨ s.outFull r.rcb d
        ∨ (s.launchHeld r.rcb ∧ (t.1.saved = [] ∨ s.resumeHeld r.rcb)) then none
    else some ⟨⟨r.rcb, t.2⟩, r.eff.priority, t.1.demand d, (s.ns - t.1.waiting.getD s.ns) / 1000000⟩

/-- The stages of a die in the order of 03 R64: the longer wait first, then from the stage after the one last served. -/
def insertClaim (c : Claim) : List Claim → List Claim
  | [] => [c]
  | x :: t => if c.waited > x.waited then c :: x :: t else x :: insertClaim c t
/-- A stage comes after another in the table's order: of regions as they became live, then of their stages. -/
def State.stageAfter (s : State) (a b : StageAt) : Bool :=
  let i (x : StageAt) : Nat := s.regions.findIdx fun r => r.rcb = x.rcb
  decide (i a < i b) || (decide (i a = i b) && decide (a.stage < b.stage))
/-- The table's order from the stage after one, whether or not that one has a claim now. -/
def State.afterServed (s : State) (last : Option StageAt) (l : List Claim) : List Claim :=
  match last with
  | none => l
  | some a => l.filter (fun c => s.stageAfter a c.at_) ++ l.filter fun c => !s.stageAfter a c.at_
def State.claims (s : State) (die : Nat) : List Claim :=
  let l := s.regions.flatMap fun r => r.stages.zipIdx.filterMap (s.claim? die r)
  (s.afterServed (s.die die).lastServed l).foldl (fun acc c => insertClaim c acc) []

structure Granting where
  pool : List Nat
  given : List (StageAt × Nat)
  deriving DecidableEq, Repr

/-- One column for a stage; with fresh, one on which the region named has nothing. -/
def Granting.give (s : State) (die : Nat) (a : StageAt) (fresh : Option Nat) (g : Granting) : Option Granting :=
  let ok (c : Nat) : Bool := s.mayHave die a.rcb g.given c
    && (match fresh with
      | some r => !(s.regionCols die r g.given).contains c
      | none => true)
  (g.pool.find? ok).map fun c => ⟨g.pool.erase c, g.given ++ [(a, c)]⟩

def Granting.giveN (s : State) (die : Nat) (a : StageAt) : Nat → Granting → Granting
  | 0, g => g
  | n + 1, g => match g.give s die a none with
    | some g => g.giveN s die a n
    | none => g

/-- One turn through the stages, each taking one column it may take. -/
def Granting.turn (s : State) (die : Nat) (fresh : Option Nat) (g : Granting) (cs : List Claim) : Granting :=
  cs.foldl (fun g c => match fresh with
    | some r =>
      if (s.regionCols die r g.given).length < (s.eff r).mincols then (g.give s die c.at_ fresh).getD g else g
    | none => (g.give s die c.at_ none).getD g) g
/-- Turns until no column moves. -/
def Granting.turns (s : State) (die : Nat) (fresh : Option Nat) (cs : List Claim) : Nat → Granting → Granting
  | 0, g => g
  | n + 1, g =>
    let h := g.turn s die fresh cs
    if h.pool = g.pool then g else h.turns s die fresh cs n

/-- Step 1: the minima, highest priority first; regions of one priority in the order in which they became live (DESIGN
CHOICE, log 81). -/
def Granting.minima (s : State) (die : Nat) (cs : List Claim) (g : Granting) : Granting :=
  ((List.range 64).map fun i => 63 - i).foldl (fun g p =>
    (s.regions.filter fun r => r.eff.priority = p).foldl (fun g r =>
      g.turns s die (some r.rcb) (cs.filter fun c => s.under r.rcb c.at_.rcb) 104) g) g

/-- Step 2, of one priority: the floors of the proportional shares, at least one each, then one at a time. Each stage is
dealt its floor, or its one column, before the next stage (DESIGN CHOICE, log 81). -/
def Granting.share (s : State) (die : Nat) (cs : List Claim) (g : Granting) : Granting :=
  let total := cs.foldl (fun n c => n + c.demand) 0
  let pool := g.pool.length
  let g := cs.foldl (fun g c => g.giveN s die c.at_ (max 1 (pool * c.demand / max 1 total))) g
  g.turns s die none cs 104
def Granting.shares (s : State) (die : Nat) (cs : List Claim) (g : Granting) : Granting :=
  ((List.range 64).map fun i => 63 - i).foldl (fun g p => g.share s die (cs.filter fun c => c.priority = p)) g

/-- A message is sent on a halyard link, or waits for a permit (12 R252). -/
def HalyardLink.send (m : Halyard) (l : HalyardLink) : HalyardLink :=
  if l.permits = 0 then { l with waiting := l.waiting ++ [m] }
  else { l with permits := l.permits - 1, flight := l.flight ++ [m] }
/-- The oldest message is consumed: its permit comes back, and the oldest message that waits for one is sent. -/
def HalyardLink.consume (l : HalyardLink) : HalyardLink :=
  match l.flight, l.waiting with
  | [], _ => l
  | _ :: f, [] => { l with permits := l.permits + 1, flight := f }
  | _ :: f, m :: w => { l with flight := f ++ [m], waiting := w }

/-- The columns of a cluster that each stage is granted. -/
def clusterGrants (given : List (StageAt × Nat)) (cluster : Nat) : List (StageAt × List Nat) :=
  let mine := given.filter fun g => g.2 / 8 = cluster
  (mine.map Prod.fst).eraseDups.map fun a => (a, (mine.filter fun g => g.1 = a).map Prod.snd)
/-- The global scheduler sends its grants to every leaf controller; a leaf controller reports its launches. -/
def State.sendDown (s : State) (die : Nat) (given : List (StageAt × Nat)) : State :=
  s.modDie die fun d => { d with down := d.down.zipIdx.map fun l => l.1.send (.grant (clusterGrants given l.2)) }
def State.sendUp (s : State) (die cluster : Nat) (m : Halyard) : State :=
  s.modDie die fun d => { d with up := d.up.modify cluster (HalyardLink.send m) }

/-- A leaf controller takes its grants: they replace those of its cluster's columns. -/
def State.takeGrants (s : State) (die cluster : Nat) (l : List (StageAt × List Nat)) : State :=
  let one (r : Region) (t : Stage × Nat) : Stage :=
    if (t.1.desc.map StageDesc.die) = some die then
      { t.1 with grant := (t.1.grant.filter fun c => c / 8 ≠ cluster)
          ++ ((l.find? fun x => x.1 = ⟨r.rcb, t.2⟩).map Prod.snd).getD [] }
    else t.1
  { s with regions := s.regions.map fun r => { r with stages := r.stages.zipIdx.map (one r) } }

/-- HALYARD_MESSAGE (12 R252): the oldest message of a link is consumed: grants are the leaf's from then on, a launch is
the scheduler's latest service (03 R64). -/
def execHalyardMessage (die cluster : Nat) (dir : HalyardDir) (s : State) : Host.Outcome State Fault Refusal :=
  match dir with
  | .toLeaf =>
    let m := ((s.die die).down[cluster]?).bind fun l => l.flight.head?
    let s := s.modDie die fun d => { d with down := d.down.modify cluster HalyardLink.consume }
    .next (match m with
      | some (.grant l) => s.takeGrants die cluster l
      | _ => s)
  | .toGlobal =>
    let m := ((s.die die).up[cluster]?).bind fun l => l.flight.head?
    let s := s.modDie die fun d => { d with up := d.up.modify cluster HalyardLink.consume }
    .next (match m with
      | some (.launched a) => s.modDie die fun d => { d with lastServed := some a }
      | _ => s)

/-- The columns of a die, in an order the spec leaves open, go to its stages (03 R63, R64), and the leaf controllers are
told. -/
def State.grantColumns (s : State) (die : Nat) : State :=
  let cols := (List.range Config.columns).filter (s.usable die)
  let cs := s.claims die
  let (pool, s) := if cs = [] then (cols, s) else State.shuffle cols.length s cols
  let g := ((⟨pool, []⟩ : Granting).minima s die cs).shares s die cs
  let wants (a : StageAt) : Bool := (s.stage? a).any fun t => t.formed ≠ [] || t.start.isSome
  let s := { s with targets := s.targets.filter fun x => wants x.1 }
  (s.modDie die fun d => { d with watchdog := s.ns }).sendDown die g.given

/-! ## Placing crews -/

def State.onColumn (s : State) (die col : Nat) : List Crew := s.crews.filter fun c => c.place.die = die ∧ c.place.col = col
def freeSlots (cs : List Crew) : List Nat := (List.range Config.crewSlots).filter fun i => !cs.any fun c => c.place.slot = i

/-- n crews of a stage have room beside the crews of a list: slots, registers, local memory and tiles (03 R60). -/
def State.fits (s : State) (d : StageDesc) (n : Nat) (cs : List Crew) : Bool :=
  let sum (f : StageDesc → Nat) : Nat := cs.foldl (fun k c => k + f (s.desc c.at_)) (n * f d)
  decide (cs.length + n ≤ Config.crewSlots ∧ sum StageDesc.registers ≤ Config.columnRegisters
    ∧ sum StageDesc.lsize ≤ Config.localBytes ∧ sum StageDesc.tiles ≤ Config.poolTiles)

/-- Crew numbers that crews of the region, resident or saved, hold (04 R81). -/
def State.numbersUsed (s : State) (rcb : Nat) : List Nat :=
  ((s.crews.filter fun c => c.at_.rcb = rcb).map Crew.crewno)
    ++ ((s.region? rcb).map fun r => r.stages.flatMap fun t => t.saved.map fun x => x.crew.crewno).getD []
def State.freeNumber (s : State) (rcb : Nat) : Option Nat := (List.range 4096).find? fun n => !(s.numbersUsed rcb).contains n

/-- The registers and special registers of a thread at launch (02 R22). -/
def Thread.launched (pc : W64) (stripe recAddr pts fence : Nat) : Thread :=
  { pc, cond := 0, stripe := List.replicate stripe 0, fb := 0, sm := 0, lk := 0, rstack := [], rsd := 0, emu := false,
    fpf := 0, cause := 0, epc := 0, ebad := 0, eword := 0, clkHi := 0, nsHi := 0, recAddr := BitVec.ofNat 32 recAddr,
    age := 0, aged := false, tag := false, wait := .ready, pts, fence, awaiting := [], bad := [], peal := false, missed := none,
    entry := none, next := none, fbuf := none }

/-- A crew at launch (02 R31 to R33, 03 R53, 09 R198); a pair launches bound (09 R203). -/
def State.newCrew (s : State) (p : CrewAt) (a : StageAt) (d : StageDesc) (crewno : Nat) (records : List QRec)
    (twin : Option CrewAt) (first : Bool) : Crew :=
  let k := records.length
  let present := BitVec.ofNat 32 (2 ^ k - 1)
  { place := p, uid := s.serial, at_ := a, crewno, present
    threads := (List.range k).map fun i =>
      Thread.launched d.entry (stripeSize d.stripeCode) (i * d.recsize) (s.die p.die).floor s.store
    g := List.replicate 32 0, fp4x := 0, cv := List.replicate 8 ⟨present, 0, none⟩, ob := List.replicate 16 none
    tiles := List.replicate d.tiles ⟨[], false, false, false⟩, lsize := d.lsize, lmode := d.lmode
    mem := Memory.writeL [] 0 (records.flatMap QRec.bytes), empty := [], tracked := [], records, phase := .placed
    bindNext := 0, bindPage := none, bindMissed := none, bindErr := none, twin, first, bound := d.paired, widowed := false, held := []
    launchNs := s.ns }

def State.pickSlot (s : State) (die col : Nat) : Nat × State :=
  let l := freeSlots (s.onColumn die col)
  let (i, s) := s.pick l.length
  (l.getD i 0, s)

/-- A crew takes its place; none when the region has no crew number left. -/
def State.placeCrew (s : State) (a : StageAt) (d : StageDesc) (col : Nat) (records : List QRec) (first : Bool) :
    Option (CrewAt × State) :=
  match s.freeNumber a.rcb with
  | none => none
  | some n =>
    let (slot, s) := s.pickSlot d.die col
    let p : CrewAt := ⟨d.die, col, slot⟩
    some (p, { s with crews := s.crews ++ [s.newCrew p a d n records none first], serial := s.serial + 1 })

/-- A crew, or the two of a pair as twins. -/
def State.placeFormed (s : State) (a : StageAt) (d : StageDesc) (col : Nat) (f : Formed) : Option (List CrewAt × State) :=
  match s.placeCrew a d col f.records true, f.second with
  | none, _ => none
  | some (p, s), none => some ([p], s)
  | some (p, s), some l => match s.placeCrew a d col l false with
    | none => none
    | some (q, s) =>
      some ([p, q], (s.modCrew p fun c => { c with twin := some q }).modCrew q fun c => { c with twin := some p })

/-! ## The prologue -/

/-- 03 Table 3.6. -/
structure Binding where
  desc : Nat
  srcoff : Nat
  flags : Nat
  reserved : Nat
  deriving DecidableEq, Repr

def Binding.ofBytes (l : List W8) : Binding := ⟨fieldAt l 0 8, fieldAt l 8 2, fieldAt l 0xA 2, fieldAt l 0xC 4⟩
def Binding.perThread (b : Binding) : Bool := b.flags % 2 = 1

/-- A binding fails (03 R62), or waits for a page. -/
def State.bindStop (s : State) (c : Crew) (i tid : Nat) (b : Bad) : State :=
  let fails (s : State) : State := s.modCrew c.place (Crew.bindFails ⟨i, tid, b.cause, b.ebad.getD 0, b.syn, b.entry⟩)
  if b.cause = .pageNotPresent then
    match s.askPage c.place.die (pageOf b.ebad) c.place.col c.at_.rcb true b with
    | (true, s) => s.modCrew c.place fun c => { c with bindPage := some ⟨(b.ebad.getD 0).toNat, 0, false, b.syn, b.entry, (s.eff c.at_.rcb).faultsToHost⟩ }
    | (false, s) => fails s
  else fails s

/-- The copy's descriptor, for the thread it is made for. -/
def bindDesc (b : Binding) (d : StageDesc) (record : List W8) (tid : Nat) (c : CopyDesc) : CopyDesc :=
  let c := if b.srcoff = 0xFFFF then c else { c with src := fieldAt record b.srcoff 8 }
  if b.perThread then { c with dst := (c.dst + tid * d.recsize) % 2 ^ 64 } else c

/-- The command of a prologue copy (10 R221). -/
def bindCommand (d : CopyDesc) (i tid pts fence : Nat) : Command :=
  { sub := 3, acquire := d.bflags.testBit 1, release := d.bflags.testBit 0
    scope := (Scope.ofCode (d.bflags / 4 % 8)).getD .crew, track := d.bflags.testBit 5, barrier := none
    bind := some (i, tid), pts, fence }

/-- The first page of a range that no TLB holds: the prologue engine waits for its walk (08 R181). -/
def State.bindMiss (s : State) (c : Crew) (a n : Nat) : Option Nat :=
  ((pagePieces a n).map Prod.fst).find? fun x => decide (x < 2 ^ 57) && s.lookup c.place.die c.place.col x == .miss
def State.bindWalk (s : State) (c : Crew) (a : Nat) : State :=
  (s.queueWalkFor c.place.die c.place.col c.at_.rcb (BitVec.ofNat 64 a) .read true).modCrew c.place fun c =>
    { c with bindPage := some (EnginePage.missed a .read) }
/-- The serial of the issue of a prologue's read: of one that has waited for a walk, that of its first try (08 R188). -/
def Crew.bindIssued (c : Crew) (a : Nat) : Option Nat :=
  c.bindMissed.bind fun m => if m.va.toNat = a then some m.serial else none

/-- n bytes that the prologue engine reads: its master's, with its walk first. -/
def State.bindRead (s : State) (c : Crew) (i tid a n : Nat) (f : List W8 → State → State) : State :=
  match s.bindMiss c a n with
  | some x =>
    let m : Missed := ⟨BitVec.ofNat 64 a, (c.bindIssued a).getD s.serial, BitVec.ofNat 64 a⟩
    { (s.bindWalk c x).modCrew c.place fun c => { c with bindMissed := some m } with serial := s.serial + 1 }
  | none => match s.fwRead ⟨c.place.die, c.place.col, 3, c.bindIssued a⟩ true a n with
    | (.error b, s) => s.bindStop c i tid b
    | (.ok l, s) => f l s

/-- One copy of a binding is issued (03 R61). The source address of srcoff is read from the thread's record area as it is
then (DESIGN CHOICE, log 85), once its lines are full (06 R126). -/
def State.bindOne (s : State) (c : Crew) (d : StageDesc) (i tid : Nat) : State :=
  s.bindRead c i tid (d.bindings + 16 * i) 16 fun l s =>
    let b := Binding.ofBytes l
    let bad := Bad.plain .operandFormat
    if b.flags ≥ 2 ∨ b.reserved ≠ 0 ∨ (b.srcoff ≠ 0xFFFF ∧ b.srcoff + 8 > d.recsize) then s.bindStop c i tid bad
    else if b.desc % 64 ≠ 0 then s.bindStop c i tid (Bad.at_ .alignment (BitVec.ofNat 64 b.desc))
    else s.bindRead c i tid b.desc 192 fun k s =>
        let record := s.bytes (.loc c.uid) (tid * d.recsize) d.recsize
        if b.srcoff ≠ 0xFFFF ∧ !s.linesFull c (tid * d.recsize + b.srcoff) 8 then s else
        let k := bindDesc b d record tid (CopyDesc.ofBytes k)
        if k.malformed (s.sourceSpan c k) true (c.lmode.getLsbD 0) c.lsize ∨ k.xform = 2 then s.bindStop c i tid bad
        else
          let fence := ((c.threads[tid]?).map Thread.fence).getD 0
          let s := s.acceptCopy c (bindCommand k i tid (s.ptsOf c.place tid) fence) k
          let next := if b.perThread ∧ tid + 1 < c.threads.length then 32 * i + tid + 1 else 32 * (i + 1)
          s.modCrew c.place fun c => { c with bindNext := next, bindMissed := none }

/-- The prologue engine issues copies, in binding order, while the column has fewer than 64 in flight; after an error,
none. -/
def State.prologue : Nat → CrewAt → State → State
  | 0, _, s => s
  | n + 1, p, s => match s.crew? p with
    | none => s
    | some c =>
      let d := s.desc c.at_
      if c.phase ≠ .placed ∨ c.bindErr.isSome ∨ c.bindPage.isSome ∨ d.nbind ≤ c.bindNext / 32
          ∨ (s.col p.die p.col).inFlight ≥ Config.transfersPerColumn then s
      else State.prologue n p (s.bindOne c d (c.bindNext / 32) (c.bindNext % 32))
def State.runPrologue (s : State) (p : CrewAt) : State := State.prologue 257 p s

/-! ## Launch -/

/-- The columns that a stage is granted, with those that pre-emption makes room on for it (03 R65). -/
def State.grants (s : State) (a : StageAt) (t : Stage) : List Nat :=
  (t.grant ++ (s.targets.filter fun x => x.1 = a).map Prod.snd).eraseDups

/-- A crew may be launched on a column now (03 R60, R63, 12 R253). -/
def State.mayLaunch (s : State) (a : StageAt) (t : Stage) (d : StageDesc) (col : Nat) : Bool :=
  s.fatal.isNone && !(s.die d.die).frozen && t.saved.isEmpty && (s.grants a t).contains col && s.usable d.die col
    && !s.launchHeld a.rcb && s.fits d (if d.paired then 2 else 1) (s.onColumn d.die col) && s.mayHave d.die a.rcb [] col

/-- The crew that a stage has for a column: the oldest it has formed, or for a persistent stage one for each column that
has none (03 R66). -/
def State.nextFormed (s : State) (a : StageAt) (t : Stage) (d : StageDesc) (col : Nat) : Option Formed :=
  if d.persistent then
    match t.start with
    | none => none
    | some l =>
      if (s.onColumn d.die col).any fun c => c.at_ = a then none
      else some ⟨List.replicate d.crewsize ⟨l, s.ns, 0⟩, none, s.ns⟩
  else t.formed.head?

/-- The stage has launched its oldest crew. A started persistent stage counts from here as one that holds a launchable crew,
also while every column it is granted has its crew (03 R64; DESIGN CHOICE, log 38). -/
def Stage.launched (persistent : Bool) (now : Nat) (t : Stage) : Stage :=
  let rest := if persistent then t.formed else t.formed.drop 1
  { t with formed := rest, waiting := if rest = [] ∧ !persistent then none else some now }

/-- What CREW_LAUNCH would launch. -/
def State.launchable (s : State) (a : StageAt) (col : Nat) : Option (StageDesc × Formed) :=
  match s.stage? a with
  | none => none
  | some t => match t.desc with
    | none => none
    | some d => if s.mayLaunch a t d col then (s.nextFormed a t d col).map fun f => (d, f) else none

/-- CREW_LAUNCH (03 R60). -/
def execCrewLaunch (a : StageAt) (col : Nat) (s : State) : Host.Outcome State Fault Refusal :=
  match s.launchable a col with
  | none => .next s
  | some (d, f) => match s.placeFormed a d col f with
    | none => .next s
    | some (ps, s) =>
      let s := (s.modStage a (Stage.launched d.persistent s.ns)).sendUp d.die (col / 8) (.launched a)
      let s := { s with targets := s.targets.erase (a, col) }
      .next (ps.foldl State.runPrologue s)

/-- Every copy of the prologue has been issued and has landed. -/
def State.prologueDone (s : State) (c : Crew) : Bool :=
  decide ((s.desc c.at_).nbind ≤ c.bindNext / 32) && (s.col c.place.die c.place.col).transfers.all fun t => t.uid != c.uid

/-- BINDING_ERROR (03 R62): the crew is gone, and its record is sent. -/
def State.bindingError (s : State) (c : Crew) (e : BindError) : State :=
  (((s.crewRecord c (some e.cause) 2 e.index e.ebad e.syn e.entry true).freeCrew c).leaveTwin c).retire

/-- CREW_START (02 R22, 03 R61, R62): the threads start once every copy has landed; a crew with a binding error ends
once its copies have. -/
def execCrewStart (p : CrewAt) (s : State) : Host.Outcome State Fault Refusal :=
  let s := s.runPrologue p
  match s.crew? p with
  | none => .next s
  | some c =>
    if c.phase ≠ .placed then .next s
    else match c.bindErr with
      | some e =>
        if (s.col p.die p.col).transfers.any fun t => t.uid = c.uid then .next s else .next (s.bindingError c e)
      | none => if s.prologueDone c then .next (s.modCrew p fun c => { c with phase := .running }) else .next s

end Sys2Proof.Machine
end

