-- ==== Sys2Proof/Machine/Misses.lean ====
section
/-! DEFINITION. The translation misses that wait for a walk, of threads, engines and prefetches, and how they go on once
a page is found (08 R181, 07 R153). -/

namespace Sys2Proof.Machine

open Sys2Proof

def accOf : Nat → AccKind
  | 0 => .read
  | 1 => .write
  | 2 => .atomic
  | _ => .fetch

/-- A thread that waits for a walk: its place, tid, address, kind and word, whose access it is, and its serial. -/
structure Missing where
  place : CrewAt
  tid : Nat
  va : W64
  kind : AccKind
  word : W32
  who : WalkFor
  serial : Nat
  deriving DecidableEq, Repr

def State.missing (s : State) (die : Nat) : List Missing :=
  (s.crews.filter fun c => c.place.die = die).flatMap fun c => c.threads.zipIdx.filterMap fun x => match x.1.wait with
    | .walk va kind word who => some ⟨c.place, x.2, va, accOf kind, word, who, (x.1.missed.map Missed.serial).getD 0⟩
    | _ => none

/-- Engines, prologues and fixed-function requests of a die go on whose page a test holds for. -/
def State.engineGo (s : State) (die : Nat) (f : EnginePage → Bool) : State :=
  let go (p : Option EnginePage) : Option EnginePage := if p.any f then none else p
  { s with
    cols := s.cols.zipIdx.map fun k => if k.2 / 104 = die then
      { k.1 with
        transfers := k.1.transfers.map fun t => { t with waiting := go t.waiting }
        ff := k.1.ff.map fun r => { r with waiting := go r.waiting } } else k.1
    crews := s.crews.map fun c => if c.place.die = die then { c with bindPage := go c.bindPage } else c }

/-- The pipe of a word: the U pipe, or an L pipe (02 R25, 13 R261). -/
def pipeOf (w : W32) : Nat := if w.getLsbD 31 then 2 else 0

/-- The access that waited is performed now (07 R153): the threads, all of one issue group, run the instruction, or make a
trap entry, again by themselves; a fetch goes on, and so does the PEAL that holds them. -/
def State.performWalked (s : State) (ms : List Missing) : State :=
  match ms with
  | [] => s
  | m :: _ =>
    if m.kind = .fetch then ms.foldl (fun s m => s.park m.place m.tid .fetch) s
    else
      let s := ms.foldl (fun s m => s.modThread m.place m.tid fun t =>
        { t with wait := .ready, next := some ⟨t.pc, m.word⟩ }) s
      match s.thread? m.place m.tid with
      | none => s
      | some t =>
        if t.peal then s
        else { s with pending := s.pending ++ [⟨m.place, ms.map Missing.tid, t.pc, pipeOf m.word⟩] }

/-- The misses of one access are performed together (02 R32). -/
def State.performAll (s : State) (l : List Missing) : State :=
  ((l.map fun m => (m.place, m.serial)).eraseDups).foldl
    (fun s x => s.performWalked (l.filter fun m => (m.place, m.serial) = x)) s

/-- The prefetch goes on. -/
def State.hintGo (s : State) (die col : Nat) (h : Hint) : State :=
  match h.level with
  | some level => s.prefetch level ⟨die, col, 0⟩ h.pts (BitVec.ofNat 64 h.va)
  | none => s.prefetchCode ⟨die, col, 0⟩ h.va h.len
/-- The prefetches of a die whose page a test holds for go on. -/
def State.hintsGo (s : State) (die : Nat) (f : Nat → Bool) : State :=
  ((s.cols.zipIdx.filter fun k => k.2 / 104 = die ∧ k.1.hints ≠ []).map fun k => k.2 % 104).foldl (fun s c =>
    let go := (s.col die c).hints.filter fun h => f h.va
    go.foldl (fun s h => s.hintGo die c h)
      (s.modCol die c fun k => { k with hints := k.hints.filter fun h => !f h.va })) s

/-- Every miss of a die whose page a test holds for ends. -/
def State.missesGo (s : State) (die : Nat) (f : Nat → Bool) : State :=
  let s := s.performAll ((s.missing die).filter fun m => f m.va.toNat)
  (s.engineGo die fun p => p.walk && f p.va).hintsGo die f

/-- Misses that a page of the die's TLB covers by now, whoever had it installed, end (08 R181). -/
def State.missesMet (s : State) : State :=
  let met (d : Nat) (va : Nat) : Bool := (s.tlbHit d va).isSome
  (s.missesGo 0 (met 0)).missesGo 1 (met 1)

end Sys2Proof.Machine
end

