-- ==== Sys2Proof/Machine/Cycle.lean ====
section
/-! DEFINITION. One cycle of issue: what the part does by itself in it, and the issue groups it forms (02 R23 to R30, 07 R160,
R165, R168, 10 R212, 11 R231, 13 R265). -/

namespace Sys2Proof.Machine

open Sys2Proof

/-! ## Time -/

/-- Time goes on by one cycle: five twelfths of a nanosecond (log 1). -/
def State.tickClock (s : State) : State :=
  let q := s.nsPart + 5
  let up (d : Die) : Die := { d with clk := d.clk + 1 }
  { s with die0 := up s.die0, die1 := up s.die1, ns := s.ns + q / 12, nsPart := q % 12 }

/-- A fill, or a drain's stores, that waits on no page fault, and not on an earlier fill, is one cycle further without
progress (11 R231). -/
def Transfer.tickIdle (t : Transfer) : Transfer :=
  if t.isMatrix && !(t.waiting.any fun p => !p.walk) && !(t.isFill && t.reads == []) then { t with idle := t.idle + 1 } else t

/-- An engine with an operation that waits for no fill is one cycle further without progress (11 R231). -/
def Column.tickHang (k : Column) : Column :=
  let k := { k with transfers := k.transfers.map Transfer.tickIdle }
  if k.ops = [] ∨ k.resetting then { k with hang := 0 }
  else if k.ops.any k.canRun then { k with hang := k.hang + 1 } else k

/-- One cycle of a column's bank and of its matrix engine. -/
def Column.tick (k : Column) : Column := k.tickReef.tickHang

/-! ## The link -/

/-- The agent whose stores an item is one of. -/
def Posted.agent? : Posted → Option Nat
  | .store _ _ a _ => some a
  | .sector _ a _ => some a
  | .entry _ _ _ _ => none
  | .msi _ => none

/-- Whether an item on the outbound path keeps a later one behind it: stores of one agent, entries and messages in their
order, a message behind the write it announces (07 R160, 12 R242, R243). -/
def keepsBehind (first later : Posted) : Bool :=
  match first.agent?, later.agent? with
  | some a, some b => a == b
  | none, none => true
  | some a, none => (match later with
    | .msi _ => decide (2 ^ 65 ≤ a)
    | _ => false)
  | none, some _ => false

/-- Places of the items that may be transmitted next. -/
def sendable (l : List Posted) : List Nat :=
  (List.range l.length).filter fun i => match l[i]? with
    | some x => !(l.take i).any fun y => keepsBehind y x
    | none => false

/-- The link transmits one of the items that may come next, or none in this cycle. -/
def State.linkCycle (s : State) : State :=
  let next := sendable s.hostOut
  if next = [] then s
  else
    let (i, s) := s.pick (next.length + 1)
    match (next[i]?).bind (fun k => (s.hostOut[k]?).map fun x => (k, x)) with
    | some (k, x) => { s with hostOut := s.hostOut.eraseIdx k }.transmit x
    | none => s

/-! ## Waits that end by themselves -/

/-- The threads of a column that wait, in issue order, at an XCOPY or at an XLUT: serial, place, tid, word, empty line. -/
def State.waitingIn (s : State) (die col : Nat) (f : Wait → Option (Nat × W32 × Option W32)) :
    List (Nat × CrewAt × Nat × W32 × Option W32) :=
  (s.crews.filter fun c => c.running ∧ c.place.die = die ∧ c.place.col = col).flatMap fun c =>
    c.threads.zipIdx.filterMap fun x => (f x.1.wait).map fun w => (w.1, c.place, x.2, w.2)
def copyWait : Wait → Option (Nat × W32 × Option W32)
  | .copySlot n w l => some (n, w, l)
  | _ => none
def lutWait : Wait → Option (Nat × W32 × Option W32)
  | .lutSlot n w l => some (n, w, l)
  | _ => none

/-- The line that a waiter waits for, if it waits for one, is no longer empty. -/
def State.lineCame (s : State) (p : CrewAt) (line : Option W32) : Bool :=
  match line, s.crew? p with
  | some a, some c => s.linesFull c a.toNat 1
  | _, _ => true

/-- The one that has waited longest goes on, when its line has come. -/
def State.serveOldest (s : State) (die col : Nat) (f : Wait → Option (Nat × W32 × Option W32))
    (run : State → Nat → W32 → Nat → State) : State :=
  let l := s.waitingIn die col f
  match l.find? fun x => l.all fun y => decide (x.1 ≤ y.1) with
  | none => s
  | some (n, p, tid, w, line) =>
    if (s.col die col).fenced ∨ !s.lineCame p line then s
    else
      let pc := ((s.thread? p tid).map Thread.pc).getD 0
      run { s.park p tid .ready with cur := ⟨p, [tid], pc, w, 0, false, []⟩ } n w tid

/-- The column accepts the copy that has waited longest (10 R212). -/
def State.serveCopy (s : State) (die col : Nat) : State :=
  s.serveOldest die col copyWait fun s n w tid => match decode w with
    | .ok (.xcopy ft scope acq rel x y) => s.xcopyThread ft scope acq rel x y (some n) tid
    | _ => s

/-- The XLUT that has waited longest goes on (10 R218). -/
def State.serveLut (s : State) (die col : Nat) : State :=
  s.serveOldest die col lutWait fun s n w tid => match decode w with
    | .ok (.xlut x slot z) => s.xlutThread x slot z (some n) tid
    | _ => s

/-- The prologues of crews that are placed go on (03 R61). -/
def State.prologues (s : State) : State :=
  ((s.crews.filter fun c => c.phase = .placed).map Crew.place).foldl State.runPrologue s

/-- The oldest waits of the columns, the sets and the prologues whose wait ends because the line they wait for is full: their
accesses are performed at once (06 R126, 15 R319). -/
def State.lineServed (s : State) : State :=
  let came (f : Wait → Option (Nat × W32 × Option W32)) (x : Nat × Nat) : Bool :=
    (s.waitingIn x.1 x.2 f).any fun y => y.2.2.2.2.isSome && s.lineCame y.2.1 y.2.2.2.2
  let on (s : State) (f : Wait → Option (Nat × W32 × Option W32)) (serve : State → Nat → Nat → State) : State :=
    (((s.crews.map fun c => (c.place.die, c.place.col)).eraseDups).filter (came f)).foldl (fun s x => serve s x.1 x.2) s
  (on (on s copyWait State.serveCopy) lutWait State.serveLut).setsServed.prologues

/-- What every step ends with: waits at a line that has come end, and the threads that it has brought to one PC clear
their tags; what the step noted of walks is forgotten. -/
def meeting : Host.Outcome State Fault Refusal → Host.Outcome State Fault Refusal
  | .next s => .next { s.lineServed.meetAll with walkedFor := [], missedPage := none }
  | o => o

/-- Columns on which a crew is resident. -/
def State.busyColumns (s : State) : List (Nat × Nat) := (s.crews.map fun c => (c.place.die, c.place.col)).eraseDups

/-- What the part's units do at the start of a cycle. -/
def State.settle (s : State) : State :=
  let s := s.missesMet.wakeLines.wakeBarriers.retrySets.answerQstats
  (s.busyColumns.foldl (fun s x => (s.serveCopy x.1 x.2).serveLut x.1 x.2) s).prologues

/-! ## The cycle -/

/-- ISSUE_CYCLE: every column forms its groups, which then run one after another, behind the accesses whose misses ended at
the cycle's start; the columns come in an order the spec
leaves open, and within a column pipe 0 before pipe 1 before the U pipe (02 R25, R26; 13 R265). Every 256 cycles the
timestamps tick, and every microsecond the quiescence counter is recomputed (07 R165, R168). No core issues after a
fatal error (11 R238). -/
def execIssueCycle (s : State) : Host.Outcome State Fault Refusal :=
  if s.fatal.isSome then .next s.linkCycle.tickClock
  else
    let s := s.settle.linkCycle
    let s := s.meetAll.fetchAll
    let places := ((s.crews.filter Crew.running).map fun c => (c.place.die, c.place.col)).eraseDups
    let sets := (places.map fun x => s.groupsOf x.1 x.2).filter fun l => l ≠ []
    let (sets, s) := State.shuffle sets.length s sets
    let groups := sets.flatten
    let now := s.ns
    let s := { s with
      crews := s.crews.map (ageThreads groups)
      cols := s.cols.map Column.tick
      pending := s.pending ++ groups }
    let s := s.tickClock
    let events := (if s.die0.clk % 256 = 0 then [Instr.ptsTick] else [])
      ++ (if s.ns / 1000 ≠ now / 1000 then [Instr.quiescenceUpdate] else [])
    .next { s with agenda := events ++ s.agenda }

end Sys2Proof.Machine
end

