-- ==== Sys2Proof/Machine/Display.lean ====
section
/-! DEFINITION. Scan-out (12 R248, R249), and the sensor link with the pose mailbox (12 R250, R251). -/

namespace Sys2Proof.Machine

open Sys2Proof

/-! ## Scan-out -/

/-- The LUT index of an FP16 phase in units of π (12 R249): the floor of 2048 φ, modulo 4096; 0 for NaN and infinity. -/
def phaseIndex (p : W16) : Nat :=
  let e := (p >>> 10).toNat % 32
  let f := p.toNat % 1024
  if e = 31 then 0
  else
    let m : Nat := if e = 0 then 2 * f else (1024 + f) * 2 ^ e
    -- φ is ± m / 2^25
    let x : Int := if p.getLsbD 15 then -(m : Int) else m
    ((x / 16384) % 4096).toNat

/-- The code of a phase: bits [9:0] of its LUT entry. -/
def modulatorCode (lut : List (Nat × W16)) (colour : Nat) (p : W16) : W16 :=
  lutEntry lut (4096 * colour + phaseIndex p) &&& 0x3FF

/-- The codes of a field from its bytes, by pixel, that are not 0. -/
def fieldCodes (lut : List (Nat × W16)) (colour : Nat) : Nat → List W8 → List (Nat × W16)
  | i, a :: b :: t =>
    let c := modulatorCode lut colour (le16 [a, b])
    if c = 0 then fieldCodes lut colour (i + 1) t else (i, c) :: fieldCodes lut colour (i + 1) t
  | _, _ => []

def scanOutOf (d : Nat) : Master := ⟨d, 121, 0, none⟩
/-- Bytes of a field: 4096 rows of 8,192 bytes. -/
def fieldBytes : Nat := 0x2000000

/-- The frame that starts with a red field: its pointer, and the LUTs of this field. -/
def ScanOut.begin (o : ScanOut) : ScanOut :=
  let o := { o with lutNow := o.lut }
  if o.colour = 0 then { o with shown := o.pointer, parts := [], abandoned := false } else o

/-- The field shown repeats the last complete frame. -/
def ScanOut.repeats (o : ScanOut) : ScanOut := { o with field := o.frame.getD o.colour [], abandoned := true }
/-- The field shown is one of the frame in progress, which the blue field completes. -/
def ScanOut.shows (f : List (Nat × W16)) (o : ScanOut) : ScanOut :=
  let parts := o.parts ++ [f]
  { o with field := f, parts, frame := if o.colour = 2 then parts else o.frame }
def ScanOut.advance (o : ScanOut) : ScanOut := { o with colour := (o.colour + 1) % 3, started := o.started + 1 }

/-- SCANOUT_FIELD_START (12 R248, R249; 08 Table 8.9; 11 R238): the next field of a die, and the NAP event of bit 1. A
frame that cannot be read, and every frame after a fatal error, repeats the last complete one. -/
def execScanoutFieldStart (die : Nat) (s : State) : Host.Outcome State Fault Refusal :=
  let put_ (s : State) (f : ScanOut → ScanOut) : State := s.modDie die fun d => { d with scan := f d.scan }
  let s := put_ s ScanOut.begin
  let o := (s.die die).scan
  let s :=
    if s.fatal.isSome ∨ o.abandoned then put_ s ScanOut.repeats
    else if o.shown = 0 then put_ s (ScanOut.shows [])
    else match s.fwRead (scanOutOf die) true (o.shown.toNat + o.colour * fieldBytes) fieldBytes with
      | (.error _, s) => put_ s ScanOut.repeats
      | (.ok l, s) => put_ s (ScanOut.shows (fieldCodes o.lutNow o.colour 0 l))
  .next ((put_ s ScanOut.advance).napEvent (some die) 1)

/-! ## Pose -/

def sensorLink : Master := ⟨0, 122, 0, none⟩

/-- One update of the pose mailbox: seq is odd while it is written, and even after it (12 Table 12.4). -/
def Pose.update (now : Nat) (x : PoseData) (p : Pose) : Pose :=
  { seq := p.seq + 2, ns := BitVec.ofNat 64 now, gaze := (x.gaze ++ [0, 0, 0, 0]).take 4
    pos := (x.pos ++ [0, 0, 0]).take 3, quat := (x.quat ++ [0, 0, 0, 0]).take 4 }

def State.countSensor (s : State) : State := s.modDie 0 fun d => { d with sensorDrops := d.sensorDrops + 1 }

/-- The distinct addresses in the lists of the live regions; none where a list's read is denied. A list that cannot be
read otherwise is counted (DESIGN CHOICE, log 81). -/
def State.generationWords (s : State) : Option (List Nat) × State :=
  (s.regions.filter fun r => r.eff.genlist ≠ 0).foldl (fun (x : Option (List Nat) × State) r =>
    match x.1, x.2.fwRead sensorLink true r.eff.genlist (8 * r.eff.gencount) with
    | none, _ => x
    | some ws, (.ok l, s) => (some (ws ++ (List.range r.eff.gencount).map fun i => fieldAt l (8 * i) 8).eraseDups, s)
    | some ws, (.error b, s) => if b.cause = .accessTableDenied then (none, s) else (some ws, s.countSensor)) (some [], s)

/-- GENERATION_BUMP of one word: an atomic add of 1, with its timestamp; a word that cannot be updated is skipped and
counted. -/
def State.bumpWord (s : State) (va : Nat) : Nat × State :=
  match s.checkNow sensorLink true (BitVec.ofNat 64 va) 4 .atomic with
  | (.device pa _ e, s) =>
    if s.poisoned pa 4 then (0, s.countSensor)
    else s.devStore s.die0.floor pa (bytes32 (le32 (s.bytes .dev pa 4) + 1)) (some e)
  | (.host pa _, s) =>
    if s.attached && Config.hostAtomics then
      let s := s.drainOut
      let (t, s) := s.passStore .host pa 4 s.die0.floor
      (t, s.storeBytes .host pa (bytes32 (le32 (s.bytes .host pa 4) + 1)))
    else (0, s.countSensor)
  | (_, s) => (0, s.countSensor)

/-- Every word once; the latest of their timestamps. -/
def State.bumpWords (s : State) (ws : List Nat) : Nat × State :=
  ws.foldl (fun x va => let (t, s) := x.2.bumpWord va; (max x.1 t, s)) (0, s)

/-- The words are bumped, the mailbox is on its way to die 1, and die 0's threads wake behind them (12 R251). -/
def State.poseUpdate (s : State) (x : PoseData) (ws : List Nat) : State :=
  let s := { s.modDie 0 (fun d => { d with pose := d.pose.update s.ns x }) with store := s.store + 1 }
  let (t, s) := s.bumpWords ws
  (s.modDie 0 fun d => { d with poseSend := d.poseSend ++ [(d.pose, t)] }).napEvent (some 0) 0 t

/-- SENSOR_PACKET (12 R250, R251): a bad or unknown packet, and one for which a list's read is denied (08 Table 8.9), is
dropped and counted, and so is one of another length than R250's (DESIGN CHOICE, log 87); another updates die 0's mailbox,
bumps the generation words, sends the mailbox to die 1 and wakes die 0's threads. -/
def execSensorPacket (p : SensorPacket) (s : State) : Host.Outcome State Fault Refusal :=
  if p.length < 8 ∨ 256 < p.length ∨ !p.crcGood then .next s.countSensor
  else match p.kind with
    | .unknown => .next s.countSensor
    | .gazeOrPose x => .next (match s.generationWords with
      | (none, s) => s.countSensor
      | (some ws, s) => s.poseUpdate x ws)

/-- POSE_MIRROR (12 R251, R247): die 1 writes the oldest update on its way, and wakes its threads. -/
def execPoseMirror (s : State) : Host.Outcome State Fault Refusal :=
  match s.die0.poseSend with
  | [] => .next s
  | (p, t) :: rest =>
    let s := s.modDie 0 fun d => { d with poseSend := rest }
    let s := { s.modDie 1 (fun d => { d with pose := p }) with store := s.store + 1 }
    .next (s.napEvent (some 1) 0 t)

end Sys2Proof.Machine
end

