-- ==== Sys2Proof/Machine/Save.lean ====
section
/-! DEFINITION. Saving crews to their region's save area, and resuming them (02 R38, 03 R60, R65, 06 R132, 07 R153,
11 R227 to R230), and the choice of victims. -/

namespace Sys2Proof.Machine

open Sys2Proof

/-! ## The image (11 Tables 11.4 and 11.5) -/

/-- The wait code, and what the wait names: an address, a deadline or a ticket; of a queue the stage, of a convergence
register its number, of FENCE.host the place in the store order (DESIGN CHOICE, log 44). -/
def waitCode : Wait → Nat
  | .line _ _ _ | .copySlot _ _ (some _) | .lutSlot _ _ (some _) => 1
  | .barrier _ _ _ => 2
  | .nap _ _ => 3
  | .queue _ _ => 4
  | .pageFault _ _ _ _ _ _ => 5
  | .faultDomain _ => 6
  | .convergence _ _ => 8
  | .hostTx _ => 10
  | _ => 0
def waitArg : Wait → Nat
  | .line a _ _ | .copySlot _ _ (some a) | .lutSlot _ _ (some a) => a.toNat
  | .barrier o _ _ => o.toNat
  | .nap t _ => t
  | .queue i _ => i
  | .pageFault _ va _ _ _ _ => va.toNat
  | .faultDomain k => k.toNat
  | .convergence k _ => k
  | .hostTx p => p
  | _ => 0

/-- The wait of a code and an argument that were saved; what the image does not hold of it stayed outside. One that the
part's own units served is asked for again, and an instruction that waited on a line runs again (15 R329). -/
def Wait.saved (code arg : Nat) (w : Wait) : Wait :=
  if waitCode w ≠ code then .ready
  else match w with
    | .barrier _ ph w => .barrier (BitVec.ofNat 32 arg) ph w
    | .queue _ r => .queue arg r
    | .pageFault d _ syn entry word h => .pageFault d (BitVec.ofNat 64 arg) syn entry word h
    | .faultDomain _ => .faultDomain (BitVec.ofNat 32 arg)
    | .convergence _ k => .convergence arg k
    | .hostTx _ => .hostTx arg
    | .nap _ m => .nap arg m
    | _ => .ready

/-- A thread block. -/
def Thread.block (present : Bool) (t : Thread) : List W8 :=
  if !present then (zeros 0x1E ++ [9] ++ zeros 512).take 512
  else
    bytes64 t.pc ++ leBytes 8 t.pts ++ bytes32 t.fb ++ bytes32 t.sm ++ bytes32 t.lk ++ [t.cond]
      ++ [BitVec.ofNat 8 (t.emu.toNat + 2 * t.tag.toNat + 4 * t.aged.toNat), BitVec.ofNat 8 (waitCode t.wait),
        BitVec.ofNat 8 t.rstack.length]
      ++ leBytes 4 t.age ++ leBytes 4 t.fpf.toNat ++ bytes64 t.epc ++ bytes64 t.ebad ++ bytes32 t.eword ++ [t.cause]
      ++ zeros 3 ++ bytes32 t.clkHi ++ bytes32 t.nsHi ++ leBytes 8 (waitArg t.wait) ++ zeros 0xB0
      ++ (t.rstack.reverse.flatMap REntry.toBytes ++ zeros 256).take 256

/-- Full/empty bits of n lines, bit 1 for full. -/
def lineBits (empty : List Nat) (n : Nat) : List W8 :=
  (List.range (n / 8)).map fun i =>
    BitVec.ofNat 8 ((List.range 8).foldl (fun v b => if empty.contains (8 * i + b) then v else v + 2 ^ b) 0)
def emptyOf (l : List W8) : List Nat :=
  (List.range (8 * l.length)).filter fun i => !((l.getD (i / 8) 0).getLsbD (i % 8))

def Tile.toBytes (t : Tile) : List W8 := t.list.flatMap fun x => leBytes 6 x.toNat
def tileState (t : Tile) : W8 := BitVec.ofNat 8 (t.vector.toNat + 2 * t.i48q2.toNat)

def Crew.obBytes (c : Crew) : Nat := c.ob.foldl (fun n r => n + (r.map fun x => 256 * x.oblen).getD 0) 0

/-- Offsets of the variable sections: registers, ranges, tiles, local memory, its bits, scratchpad, its bits. -/
structure Layout where
  reg : Nat
  ob : Nat
  acc : Nat
  lmem : Nat
  fe : Nat
  scr : Nat
  scrfe : Nat
  size : Nat
  deriving DecidableEq, Repr

/-- With n mebibytes of scratchpad. -/
def Crew.layout (c : Crew) (d : StageDesc) (n : Nat) : Layout :=
  let reg := 0x500 + 512 * d.crewsize
  let ob := reg + 4 * d.registers
  let acc := ob + c.obBytes
  let lmem := acc + 24576 * c.tiles.length
  let fe := lmem + c.lsize
  let scr := fe + c.lsize / 1024
  let scrfe := scr + n * 0x100000
  { reg, ob, acc, lmem, fe, scr := if n = 0 then 0 else scr, scrfe := if n = 0 then 0 else scrfe
    size := scrfe + n * 1024 }

def whyCode : SaveWhy → Nat
  | .preemption => 0
  | .migration => 1
  | .fencing => 2

/-- What a save records besides the crew: its reason, the mebibytes of scratchpad it takes, a scratchpad that is lost. -/
structure SaveOf where
  why : SaveWhy
  scratch : Nat
  lost : Bool
  deriving DecidableEq, Repr

def SaveOf.flags (o : SaveOf) (c : Crew) (committed : Bool) : Nat :=
  committed.toNat + (if c.twin.isNone then 0 else if c.first then 2 else 4) + (if o.scratch = 0 then 0 else 8)
    + 16 * o.lost.toNat + (if o.why = .fencing then 32 else 0)

/-- The kinds of a paired operation that waits at the twin register. -/
def twinKind : Instr → Nat
  | .obld _ _ _ _ => 1
  | .mma _ _ _ _ => 2
  | .mmac _ _ _ _ => 3
  | .mdrn _ _ _ => 4
  | .mtwn _ => 5
  | _ => 0

/-- The twin field of 11 Table 11.4: the state (0 without a twin, 1 bound, 2 split, 3 widowed), the kind of the operation
that waits, 6 bytes of 0, its PC (the layout a DESIGN CHOICE, log 44). -/
def Crew.twinField (c : Crew) : List W8 :=
  let w := c.held.find? fun h => h.why = .twin
  [if c.widowed then 3 else if c.twin.isNone then 0 else if c.bound then 1 else 2,
    BitVec.ofNat 8 ((w.map fun h => twinKind h.instr).getD 0)] ++ zeros 6 ++ bytes64 ((w.map Held.pc).getD 0)

/-- The header and the fixed sections. -/
def Crew.head (c : Crew) (d : StageDesc) (o : SaveOf) (y : Layout) (now : Nat) : List W8 :=
  leBytes 4 0x5653564F ++ leBytes 2 1 ++ [BitVec.ofNat 8 d.crewsize, BitVec.ofNat 8 d.stripeCode] ++ bytes32 c.present
    ++ leBytes 2 c.at_.stage ++ leBytes 2 c.crewno ++ leBytes 2 (o.flags c false)
    ++ [BitVec.ofNat 8 o.scratch, BitVec.ofNat 8 c.tiles.length] ++ leBytes 4 c.lsize
    ++ [c.lmode, BitVec.ofNat 8 (whyCode o.why)] ++ zeros 6 ++ leBytes 8 c.at_.rcb
    ++ [y.reg, y.ob, y.acc, y.lmem, y.fe, y.scr, y.scrfe].flatMap (leBytes 4) ++ zeros 4 ++ leBytes 8 now ++ zeros 0xB0
    ++ c.g.flatMap bytes32
    ++ (c.cv.flatMap fun v => bytes32 v.declared ++ bytes32 v.signed ++ bytes64 (v.pc.getD 0))
    ++ (c.ob.flatMap fun r => match r with
      | some x => (x.raw ++ zeros 32).take 32
      | none => zeros 32)
    ++ c.twinField ++ bytes16 c.fp4x ++ zeros 6 ++ ((c.tiles.map tileState) ++ zeros 8).take 8 ++ zeros 0xE0
    ++ (List.range d.crewsize).flatMap fun i => match c.threads[i]? with
      | some t => t.block (c.has i)
      | none => (zeros 0x1E ++ [9] ++ zeros 512).take 512

/-- The registers of the threads, in stripe-slot order. -/
def Crew.stripes (c : Crew) (d : StageDesc) : List W8 :=
  let n := stripeSize d.stripeCode
  (List.range d.crewsize).flatMap fun i => match c.threads[i]? with
    | some t => (t.stripe ++ List.replicate n 0).take n |>.flatMap bytes32
    | none => zeros (4 * n)

/-- The whole image, not yet committed. -/
def State.imageOf (s : State) (c : Crew) (o : SaveOf) : List W8 :=
  let d := s.desc c.at_
  let k := s.col c.place.die c.place.col
  c.head d o (c.layout d o.scratch) s.ns ++ c.stripes d
    ++ (c.ob.flatMap fun r => (r.map Reservation.bytes).getD [])
    ++ c.tiles.flatMap Tile.toBytes ++ denseFrom c.lsize 0 c.mem ++ lineBits c.empty (c.lsize / 128)
    ++ denseFrom (o.scratch * 0x100000) 0 k.scratch ++ lineBits k.empty (o.scratch * 8192)

/-! ## Sealing (11 R229 step 1) -/

/-- An access of the thread is issued and not performed (07 R153). -/
def holdsSeal (t : Thread) : Bool :=
  t.peal || (match t.wait with
    | .cacheOp _ _ | .remoteEnq | .remoteQstat _ _ | .reef _ | .walk _ _ _ _ => true
    | _ => false)

/-- The conditions of R38, R46, R71, R90, R134 and R153 hold for a crew. -/
def State.sealable (s : State) (c : Crew) : Bool :=
  let k := s.col c.place.die c.place.col
  c.phase == .running && c.held.all (fun h => h.why == .twin) && k.loads.all (fun l => l.uid != c.uid)
    && k.ops.all (fun o => o.uid != c.uid) && k.ff.all (fun r => r.uid != c.uid || r.step == .waiting)
    && k.transfers.all (fun t => t.uid != c.uid || !t.isRaster) && k.peals.all (fun r => r.place != c.place)
    && k.reefs.all (fun r => r.thread.crew != c.place) && c.tidsPresent.all fun i => match c.threads[i]? with
      | some t => !holdsSeal t
      | none => true

/-- Requests that still wait for a queue entry are given up, and their threads issue them again; the crew's LUT tags
clear (10 R219). -/
def dropWaiting (uid : Nat) (k : Column) : Column :=
  { k with ff := k.ff.filter fun (r : FfRequest) => r.uid ≠ uid
           luts := k.luts.map fun (l : LutSlot) => if l.owner = some uid then { l with owner := none } else l }
def unqueue (t : Thread) : Thread :=
  match t.wait with
  | .ffQueue _ => retry t
  | _ => t

def State.sealCrew (s : State) (why : SaveWhy) (c : Crew) : State :=
  let s := s.modCol c.place.die c.place.col (dropWaiting c.uid)
  s.modCrew c.place fun k => { k with phase := .sealed why s.ns, threads := k.threads.map unqueue }

def State.unseal (s : State) (c : Crew) : State :=
  { s.modCrew c.place (fun k => match k.phase with
      | .sealed _ _ => { k with phase := .running }
      | _ => k) with victims := s.victims.filter fun p => p ≠ c.place }

/-- The drain is over (11 R229 step 2): of the crew's transfers, and of fills of its ranges that its twin began (16 R349). -/
def State.drained (s : State) (c : Crew) : Bool :=
  let k := s.col c.place.die c.place.col
  k.transfers.all (fun t => t.uid != c.uid && t.into.all fun x => x.uid != c.uid)
    && k.ops.all fun o => o.uid != c.uid && o.twin != some c.uid

/-! ## The check (11 R227, R229 step 3) -/

/-- The address of the crew's image: entry n of the save area; none when the table cannot be read. -/
def State.saveEntry (s : State) (c : Crew) : Except Bad Nat × State :=
  let area := ((s.region? c.at_.rcb).map Region.savearea).getD 0
  match s.fwRead (leafOf c.place.die c.place.col) true (area + 8 * c.crewno) 8 with
  | (.ok l, s) => (.ok (leNat l), s)
  | (.error b, s) => (.error b, s)

/-- The cause that a leaf which is not pinned gives is not stated. -/
def anyCause (n : Nat) : Cause :=
  [Cause.illegalInsn, .illegalPealWord, .nestedEmulation, .pageNotPresent, .permission, .reservedBit, .alignment,
    .accessTableDenied, .memoryUncorrectable, .tokenViolation, .partialConvergence, .twinSplit, .returnUnderflow,
    .stackSpillFault, .operandFormat, .hostDetached, .matrixEngineReset, .columnFenced, .contextLost, .softwareTrap,
    .breakpoint, .scratchShrunk, .badStage].getD n .permission

/-- Every page takes a write and is pinned. -/
def State.checkImage (s : State) (m : Master) : List Nat → Option Bad × State
  | [] => (none, s)
  | a :: t =>
    match s.checkNow m true (BitVec.ofNat 64 a) 1 .write with
    | (.bad b, s) => (some b, s)
    | (.register _ _, s) => (some (Bad.at_ .permission (BitVec.ofNat 64 a)), s)
    | (.walk, s) => (some (Bad.at_ .pageNotPresent (BitVec.ofNat 64 a)), s)
    | (_, s) =>
      match s.leafAt m.die a with
      | some e =>
        if leafPinned e.leaf then s.checkImage m t
        else
          let (i, s) := s.pick 23
          (some (Bad.at_ (anyCause i) (BitVec.ofNat 64 a)), s)
      | none => (some (Bad.at_ .pageNotPresent (BitVec.ofNat 64 a)), s)

/-- The mebibytes of scratchpad that a save takes: those of the column when no crew of its owner stays (06 R132). -/
def State.scratchFor (s : State) (c : Crew) (leaving : List CrewAt) : Nat :=
  let k := s.col c.place.die c.place.col
  if k.owner = some c.at_.rcb ∧ leaving.getLast? = some c.place
      ∧ !(s.onColumn c.place.die c.place.col).any (fun x => x.at_.rcb = c.at_.rcb ∧ !leaving.contains x.place) then k.count
  else 0

/-- An uncorrectable error stands in state that the image takes (11 R230). -/
def State.stateDamaged (s : State) (c : Crew) (scratch : Nat) : Bool :=
  (c.threads.any fun t => t.bad ≠ []) || c.tiles.any Tile.bad || (c.ob.any fun r => r.any Reservation.bad)
    || s.damage.any fun
      | .loc u _ => u = c.uid
      | .scr d k _ => d = c.place.die ∧ k = c.place.col ∧ scratch ≠ 0

/-! ## Ways a save ends -/

/-- CONTEXT_LOST of a crew, or of two twins, which are lost together (11 R230; DEDUCED, log 44): each has its record; of
a restartable region's the launch records wait again, any other region is killed. -/
def State.contextLost (s : State) (cs : List Crew) : State :=
  match cs with
  | [] => s
  | [c] => if (s.eff c.at_.rcb).restartable then (s.tellLost cs false).restartCrew c else (s.tellLost cs true).killRegion c.at_.rcb
  | c :: d :: _ => if (s.eff c.at_.rcb).restartable then (s.tellLost cs false).restartPair c d else (s.tellLost cs true).killRegion c.at_.rcb

/-- The crew ends with one record (11 R233). -/
def State.endFenced (s : State) (c : Crew) : State :=
  let s := s.crewRecord c (some .columnFenced) 1 0 0 0 0 true
  (((s.stopEngines c).freeCrew c).leaveTwin c).retire

/-- An abandoned save (11 R229): the crew runs on, and a record is sent and logged. -/
def State.abandonSave (s : State) (c : Crew) (b : Option Bad) : State :=
  let bad (f : Bad → W64) : W64 := (b.map f).getD 0
  let a := bad fun x => x.ebad.getD 0
  let s := s.crewRecord c (b.map Bad.cause) 3 0 a ((b.map Bad.syn).getD 0) (bad Bad.entry) false
  let s : State := { s with targets := s.targets.filter fun x => !(x.2 = c.place.col && (s.desc x.1).die = c.place.die) }
  (s.unseal c).logFirmware c.place.die a.toNat

/-! ## Victims (03 R65) -/

/-- The state without crews that are taken. -/
def State.without (s : State) (taken : List CrewAt) : State := { s with crews := s.crews.filter fun c => !taken.contains c.place }

/-- Taking crews keeps their region, and those above it, at or above their minimum. -/
def State.keepsMinimum (s : State) (die rcb : Nat) (taken : List CrewAt) : Bool :=
  (s.lineage 10 rcb).all fun r => decide ((s.eff r).mincols ≤ ((s.without taken).regionCols die r []).length)

/-- Candidates of lower priority on a die, lowest first, then latest launch first; of a pair one stands for both. A crew
whose prologue is not finished is none (DESIGN CHOICE, log 81). -/
def State.candidates (s : State) (die priority : Nat) (excluded : List CrewAt) : List Crew :=
  let before (a b : Crew) : Bool :=
    let p := (s.eff a.at_.rcb).priority
    let q := (s.eff b.at_.rcb).priority
    decide (p < q) || (p == q && decide (a.launchNs > b.launchNs))
  let insert (c : Crew) (l : List Crew) : List Crew := l.takeWhile (fun x => before x c) ++ c :: l.dropWhile fun x => before x c
  let saved (c : Crew) : Bool := match (s.saveEntry c).1 with
    | .ok a => a ≠ 0
    | .error _ => false
  (s.crews.filter fun c => c.place.die = die ∧ c.phase = .running ∧ (s.eff c.at_.rcb).priority < priority
    ∧ !excluded.contains c.place ∧ !(s.col die c.place.col).fenced ∧ (s.withTwin c).all saved).foldr insert []

/-- Candidates of a column are taken in order until the new crew fits; a candidate's column on which it fits already becomes
the target with no victim (03 R65; DESIGN CHOICE, log 46). -/
def State.takeUntil (s : State) (d : StageDesc) (rcb die col : Nat) : List Crew → List CrewAt → Option (List CrewAt)
  | cs, taken =>
    let room := (s.without taken).fits d (if d.paired then 2 else 1) ((s.without taken).onColumn die col)
      && (s.without taken).mayHave die rcb [] col
    if room then some taken
    else match cs with
      | [] => none
      | c :: t =>
        let more := (s.withTwin c).map Crew.place
        if taken.contains c.place then s.takeUntil d rcb die col t taken
        else if s.keepsMinimum die c.at_.rcb (taken ++ more) then s.takeUntil d rcb die col t (taken ++ more)
        else s.takeUntil d rcb die col t taken

/-- The columns of the candidates, each once, in their order: the first that can hold the new crew, with the victims that
it takes. -/
def State.victimColumn (s : State) (d : StageDesc) (rcb die : Nat) (cs : List Crew) : List Nat → Option (Nat × List CrewAt)
  | [] => none
  | col :: t => match s.takeUntil d rcb die col (cs.filter fun c => c.place.col = col) [] with
    | some vs => some (col, vs)
    | none => s.victimColumn d rcb die cs t

/-- A column on which the stage has no crew yet, where it takes one for each (03 R66). -/
def State.lacks (s : State) (a : StageAt) (d : StageDesc) (col : Nat) : Bool :=
  !d.persistent || !(s.onColumn d.die col).any fun c => c.at_ = a

/-- The columns of a stage by the latest grants that are sent to the leaf controllers of a die, and those on which room is
made for it (03 R65). -/
def State.newGrants (s : State) (a : StageAt) (t : Stage) (die : Nat) : List Nat :=
  let ofCluster (l : HalyardLink × Nat) : List Nat :=
    match (l.1.flight ++ l.1.waiting).reverse.findSome? (fun m => match m with
        | .grant g => some g
        | .launched _ => none) with
    | some g => ((g.find? fun x => x.1 = a).map Prod.snd).getD []
    | none => t.grant.filter fun c => c / 8 = l.2
  ((s.die die).down.zipIdx.flatMap ofCluster ++ (s.targets.filter fun x => x.1 = a).map Prod.snd).eraseDups

/-- The stage has a launchable crew: one formed, or, started, one for a column that lacks it. -/
def State.wants (s : State) (a : StageAt) (t : Stage) (d : StageDesc) : Bool :=
  if d.persistent then
    t.start.isSome && ((s.newGrants a t d.die).any (s.lacks a d) || !s.crews.any fun c => c.at_ = a)
  else t.formed ≠ []

/-- Pre-emption for one stage: the victims and the column it then may use. -/
def State.preemptFor (s : State) (a : StageAt) (excluded : List CrewAt) : Option (Nat × List CrewAt) :=
  match s.stage? a with
  | none => none
  | some t => match t.desc with
    | none => none
    | some d =>
      let n := if d.paired then 2 else 1
      let holds (c : Nat) : Bool :=
        s.lacks a d c && s.usable d.die c && s.fits d n (s.onColumn d.die c) && s.mayHave d.die a.rcb [] c
      if !s.wants a t d ∨ s.launchHeld a.rcb ∨ (s.newGrants a t d.die).any holds then none
      else
        let cs := s.candidates d.die (s.eff a.rcb).priority excluded
        let ok := cs.filter fun c => s.lacks a d c.place.col && s.keepsMinimum d.die c.at_.rcb ((s.withTwin c).map Crew.place)
        s.victimColumn d a.rcb d.die ok (ok.map fun c => c.place.col).eraseDups

/-- The first stage of a die, highest priority first, that needs and finds victims, while none are being saved. -/
def State.preempt (s : State) (die : Nat) (excluded : List CrewAt) : State :=
  if (s.die die).frozen ∨ s.fatal.isSome ∨ (s.victims.any fun p => p.die = die) then s
  else
    let l := s.claims die
    let order := ((List.range 64).map fun i => 63 - i).flatMap fun p => l.filter fun c => c.priority = p
    match order.findSome? fun c => (s.preemptFor c.at_ excluded).map fun x => (c.at_, x) with
    | none => s
    | some (a, col, vs) => { s with victims := s.victims ++ vs, targets := s.targets ++ [(a, col)] }

/-- COLUMN_GRANT (03 R63 to R65): the grants of a die, and the victims of a launchable crew that finds no room. -/
def execColumnGrant (die : Nat) (s : State) : Host.Outcome State Fault Refusal :=
  let s := if die = 1 then { s with grantNs := s.ns } else s
  if s.fatal.isSome ∨ (s.die die).frozen then .next s else .next ((s.grantColumns die).preempt die [])

/-! ## CREW_SAVE -/

/-- Seal the crew, and its twin with it, when both can be. -/
def State.trySeal (s : State) (c : Crew) (why : SaveWhy) : State :=
  let cs := s.withTwin c
  if cs.all s.sealable then cs.foldl (fun s c => s.sealCrew why c) s else s

/-- The checks of every crew that is saved together: their images' addresses. -/
def State.checkSaves (s : State) (why : SaveWhy) (lost : Bool) : List Crew → List CrewAt →
    Except (Option Bad) (List (Crew × Nat × SaveOf)) × State
  | [], _ => (.ok [], s)
  | c :: t, leaving =>
    let m := leafOf c.place.die c.place.col
    let o : SaveOf := ⟨why, if lost then 0 else s.scratchFor c leaving, lost && (s.ownsScratch c)⟩
    match s.saveEntry c with
    | (.error b, s) => (.error (some b), s)
    | (.ok a, s) =>
      if a = 0 then (.error none, s)
      else
        let n := (c.layout (s.desc c.at_) o.scratch).size
        match s.checkImage m ((pagePieces a n).map Prod.fst) with
        | (some b, s) => (.error (some b), s)
        | (none, s) => match s.checkSaves why lost t leaving with
          | (.error e, s) => (.error e, s)
          | (.ok l, s) => (.ok ((c, a, o) :: l), s)

/-- How the writing of an image ends. -/
inductive Written where
  | good
  | lost
  | failed (b : Bad)
  deriving DecidableEq, Repr

/-- An image is written; an uncorrectable error that stands in it as it is written loses the context (11 R229, R230). -/
def State.writeImage (s : State) (c : Crew) (a : Nat) (o : SaveOf) : Written × State :=
  let m := leafOf c.place.die c.place.col
  let l := s.imageOf c o
  match s.fwWrite m a l with
  | (some b, s) => (.failed b, s)
  | (none, s) => match s.fwRead m true a l.length with
    | (.error b, s) => (if b.cause = .memoryUncorrectable then .lost else .failed b, s)
    | (.ok _, s) => (.good, s)

/-- Images are written one after another, up to one that fails. -/
def State.writeImages (s : State) : List (Crew × Nat × SaveOf) → Written × State
  | [] => (.good, s)
  | (c, a, o) :: t => match s.writeImage ((s.crew? c.place).getD c) a o with
    | (.good, s) => s.writeImages t
    | r => r

/-- Commit and free: the flags with bit 0 by one store; the crew becomes a saved crew of its stage. -/
def State.commitSave (s : State) (c : Crew) (a : Nat) (o : SaveOf) (pair : Option Nat) : State :=
  let (_, s) := s.fwWrite (leafOf c.place.die c.place.col) (a + 0x10) (leBytes 2 (o.flags c true))
  let x : Saved :=
    { crew := c, image := a, disposed := [], detach := false, scratch := o.scratch, pair, fenced := o.why == .fencing
      lost := o.lost }
  (s.freeCrew c).modStage c.at_ fun t => { t with saved := x :: t.saved }

/-- Every present thread takes COLUMN_FENCED; the records go out with the commit, which is this step (11 R233). -/
def State.fenceThreads (s : State) (c : Crew) : State :=
  c.tidsPresent.foldl (fun s t => s.fault c.place t (Bad.plain .columnFenced) none) s

/-- The crews as the state now holds them. -/
def State.nowOf (s : State) (c : Crew) : Crew := (s.crew? c.place).getD c

/-- A save fails (11 R229, R233): a fenced crew ends; another runs on, and pre-emption goes to its next candidate. -/
def State.saveFails (s : State) (cs : List Crew) (why : SaveWhy) (b : Option Bad) : State :=
  match cs with
  | [] => s
  | c :: _ =>
    if why = .fencing then cs.foldl State.endFenced s
    else
      let s := cs.foldl (fun s c => s.abandonSave c b) s
      if why = .preemption then s.preempt c.place.die (cs.map Crew.place) else s

/-- The images are written and committed. A fenced crew's threads take their causes first; their records go out with the
commit. -/
def State.writeAndCommit (s : State) (cs : List Crew) (why : SaveWhy) (l : List (Crew × Nat × SaveOf)) : State :=
  let s1 := if why = .fencing then cs.foldl State.fenceThreads s else s
  match s1.writeImages l with
  | (.good, s2) =>
    let pairOf (x : Crew) : Option Nat := (cs.find? fun y => y.uid ≠ x.uid).map Crew.uid
    l.foldl (fun s x => s.commitSave (s.nowOf x.1) x.2.1 x.2.2 (pairOf x.1)) s2
  | (.lost, s2) => { s2 with outgoing := s.outgoing, tickets := s.tickets }.contextLost cs
  | (.failed b, s2) => { s2 with outgoing := s.outgoing, tickets := s.tickets }.saveFails cs why (some b)

/-- The save goes on once the drain is over: the checks, then the write and the commit; or it fails. -/
def State.saveNow (s : State) (c : Crew) (why : SaveWhy) : State :=
  let cs := s.withTwin c
  if !cs.all s.drained then s
  else
    let lost := why == .fencing && (s.col c.place.die c.place.col).unreadable
    match s.checkSaves why lost cs (cs.map Crew.place) with
    | (.error b, s) => s.saveFails cs why b
    | (.ok l, s) =>
      if l.any fun x => s.stateDamaged x.1 x.2.2.scratch then s.contextLost cs else s.writeAndCommit cs why l

/-- CREW_SAVE (11 R229): the next of its parts that can happen. A crew whose entry is 0 is not sealed for migration; no
crew of a frozen die is pre-empted (12 R253). -/
def execCrewSave (p : CrewAt) (why : SaveWhy) (s : State) : Host.Outcome State Fault Refusal :=
  match s.crew? p with
  | none => .next s
  | some c => match c.phase with
    | .running =>
      if (why = .fencing ∧ !(s.col p.die p.col).fenced) ∨ (why = .preemption ∧ (s.die p.die).frozen) then .next s else
      let saved : Bool := why == .fencing || (match (s.saveEntry c).1 with
        | .ok a => a ≠ 0
        | .error _ => false)
      .next (if saved then s.trySeal c why else s)
    | .sealed w _ => .next (if w = .preemption ∧ (s.die p.die).frozen then s else s.saveNow c w)
    | _ => .next s

/-- SAVE_TIMEOUT (11 R229): a pre-emption not committed 200 µs after sealing is abandoned, with cause 0. -/
def execSaveTimeout (p : CrewAt) (s : State) : Host.Outcome State Fault Refusal :=
  match s.crew? p with
  | none => .next s
  | some c => match c.phase with
    | .sealed .preemption since =>
      if s.ns < since + 200000 then .next s
      else
        let cs := s.withTwin c
        .next ((cs.foldl (fun s c => s.abandonSave c none) s).preempt p.die (cs.map Crew.place))
    | _ => .next s

/-! ## CREW_RESUME -/

/-- A thread from its block and its registers; what it waits for is as it was saved, but a NAP has ended (16 R346), and a
thread that waits for a page no longer asked for tries again. -/
def restoreThread (asked : Nat → Bool → Bool) (b regs : List W8) (t : Thread) : Thread :=
  let f := BitVec.ofNat 8 (fieldAt b 0x1D 1)
  let n := fieldAt b 0x1F 1
  let entries := (List.range n).map fun i => REntry.ofBytes ((b.drop (0x100 + 16 * i)).take 16)
  let u : Thread := { t with
    pc := BitVec.ofNat 64 (fieldAt b 0 8), pts := fieldAt b 8 8, fb := BitVec.ofNat 32 (fieldAt b 0x10 4)
    sm := BitVec.ofNat 32 (fieldAt b 0x14 4), lk := BitVec.ofNat 32 (fieldAt b 0x18 4), cond := BitVec.ofNat 8 (fieldAt b 0x1C 1)
    emu := f.getLsbD 0, tag := f.getLsbD 1, aged := f.getLsbD 2, rstack := entries.reverse, age := fieldAt b 0x20 4
    fpf := BitVec.ofNat 5 (fieldAt b 0x24 4), epc := BitVec.ofNat 64 (fieldAt b 0x28 8)
    ebad := BitVec.ofNat 64 (fieldAt b 0x30 8), eword := BitVec.ofNat 32 (fieldAt b 0x38 4)
    cause := BitVec.ofNat 8 (fieldAt b 0x3C 1), clkHi := BitVec.ofNat 32 (fieldAt b 0x40 4)
    nsHi := BitVec.ofNat 32 (fieldAt b 0x44 4), stripe := wordsOf t.stripe.length regs
    wait := t.wait.saved (fieldAt b 0x1E 1) (fieldAt b 0x48 8), awaiting := [], bad := [], missed := none, next := none, fbuf := none }
  match u.wait with
  | .nap _ _ => napEnd u
  | .pageFault _ va _ _ _ h => if asked (va.toNat / 4096) h then u else retry u
  | _ => u

/-- The ranges from the image, in ascending number. -/
def restoreRanges (image : List W8) : Nat → Nat → List (Option Reservation) → List (Option Reservation)
  | _, _, [] => []
  | k, off, none :: t => none :: restoreRanges image (k + 1) off t
  | k, off, some r :: t =>
    let x := Reservation.ofBytes ((image.drop (0x200 + 32 * k)).take 32)
    let data := Memory.writeL [] 0 ((image.drop off).take (256 * r.oblen))
    some { x with data, zrows := r.zrows, vcols := r.vcols, bad := false } :: restoreRanges image (k + 1) (off + 256 * r.oblen) t

def restoreTile (image : List W8) (acc k : Nat) : Tile :=
  let l := (List.range 4096).map fun f => BitVec.ofNat 48 (fieldAt image (acc + 24576 * k + 6 * f) 6)
  let st := image.getD (0x418 + k) 0
  ⟨sparseTile l, st.getLsbD 1, st.getLsbD 0, false⟩

/-- The crew of an image, at its new place. -/
def restoreCrew (image : List W8) (d : StageDesc) (n : Nat) (asked : Nat → Bool → Bool) (p : CrewAt) (twin : Option CrewAt) (c : Crew) :
    Crew :=
  let y := c.layout d n
  let stripe := 4 * stripeSize d.stripeCode
  let cv (k : Nat) : Cv :=
    let signed := BitVec.ofNat 32 (fieldAt image (0x184 + 16 * k) 4)
    ⟨BitVec.ofNat 32 (fieldAt image (0x180 + 16 * k) 4), signed,
      if signed = 0 then none else some (BitVec.ofNat 64 (fieldAt image (0x188 + 16 * k) 8))⟩
  let thread (i : Nat) (t : Thread) : Thread :=
    if c.has i then
      restoreThread asked ((image.drop (0x500 + 512 * i)).take 512) ((image.drop (y.reg + stripe * i)).take stripe) t
    else t
  { c with
    place := p, present := BitVec.ofNat 32 (fieldAt image 8 4)
    g := (List.range 32).map fun i => BitVec.ofNat 32 (fieldAt image (0x100 + 4 * i) 4)
    fp4x := BitVec.ofNat 16 (fieldAt image 0x410 2), cv := (List.range 8).map cv
    ob := restoreRanges image 0 y.ob c.ob
    tiles := (List.range c.tiles.length).map (restoreTile image y.acc)
    threads := mapIdxFrom thread 0 c.threads
    mem := Memory.writeL [] 0 ((image.drop y.lmem).take c.lsize)
    empty := emptyOf ((image.drop y.fe).take (c.lsize / 1024)), tracked := []
    bound := image.getD 0x400 0 == 1, widowed := image.getD 0x400 0 == 3
    held := if image.getD 0x401 0 = 0 then [] else c.held.map fun h => { h with pc := BitVec.ofNat 64 (fieldAt image 0x408 8) }
    phase := .running, twin }

/-- A saved crew that fencing left waits for a retry, a skip or a restart, or the end of all its threads (11 R233). -/
def Saved.ready (x : Saved) : Bool :=
  !x.fenced || x.disposed.any (fun d => decide (d.2.1 ≤ 1 ∨ d.2.1 = 4)) || x.crew.tidsPresent.all fun i => x.disposed.any fun d => d.1 = i

/-- The saved crews that resume together. -/
def Stage.toResume (t : Stage) : List Saved :=
  match t.saved.find? fun x => (t.together x).all Saved.ready with
  | some x => t.together x
  | none => []

/-- The operand buffer of a column has room for the ranges of crews (09 R192). -/
def State.operandRoom (s : State) (die col : Nat) (cs : List Crew) : Bool :=
  decide ((s.onColumn die col ++ cs).foldl (fun n c => n + c.obBytes) 0 ≤ Config.operandBytes)

/-- A column that can take them: granted, with room, and with no scratchpad, its own region's neither, where one is to be
restored (06 R132); of a persistent stage also one that holds a crew of it already (03 R65, R66; both DESIGN CHOICE, log
86). -/
def State.mayResume (s : State) (a : StageAt) (t : Stage) (d : StageDesc) (col : Nat) : Bool :=
  let xs := t.toResume
  let k := s.col d.die col
  s.fatal.isNone && !(s.die d.die).frozen && !s.resumeHeld a.rcb && !xs.isEmpty && (s.grants a t).contains col && s.usable d.die col
    && s.fits d xs.length (s.onColumn d.die col) && s.operandRoom d.die col (xs.map Saved.crew) && s.mayHave d.die a.rcb [] col
    && (xs.all (fun x => x.scratch = 0) || (k.count = 0 && k.owner.isNone))

/-- The dispositions recorded while the crew was saved (11 R225), but for a restart; action 5 stands for a page that was
refused, 6 for a FENCE.host that a detachment ended. -/
def State.applyNoted (s : State) (p : CrewAt) (c : Crew) (l : List (Nat × Nat × Nat)) : State :=
  l.foldl (fun s d =>
    let (tid, a, pts) := d
    if a = 5 then
      match (c.threads[tid]?).map Thread.wait with
      | some (.pageFault _ va syn entry word _) => s.fault p tid ⟨.pageNotPresent, some va, syn, entry⟩ word
      | _ => s
    else if a = 6 then s.fault p tid (Bad.plain .hostDetached) (some 0x7A000004#32)
    else if a = 4 then s
    else s.goOn p tid a pts) s
/-- A restart that was recorded is applied once the crew, with its twin, has resumed (11 R225, R230). -/
def State.restartNoted (s : State) (xs : List Saved) : State :=
  match (xs.find? fun x => x.disposed.any fun d => d.2.1 = 4).bind fun x => s.crewByUid? x.crew.uid with
  | some c => s.restartTold c
  | none => s

/-- The reefed count and the scratchpad of a saved crew come back (06 R132). -/
def State.restoreScratch (s : State) (x : Saved) (d : StageDesc) (col : Nat) (image : List W8) : State :=
  if x.scratch = 0 then s
  else
    let y := x.crew.layout d x.scratch
    let s := s.recount d.die col x.scratch (some x.crew.at_.rcb)
    s.modCol d.die col fun k => { k with
      scratch := Memory.writeL [] 0 ((image.drop y.scr).take (x.scratch * 0x100000))
      empty := emptyOf ((image.drop y.scrfe).take (x.scratch * 1024)) }

/-- The images of the crews that resume together are read. -/
def State.readImages (s : State) (d : StageDesc) (col : Nat) : List Saved → Except Bad (List (List W8)) × State
  | [] => (.ok [], s)
  | x :: t => match s.fwRead (leafOf d.die col) true x.image (x.crew.layout d x.scratch).size with
    | (.error b, s) => (.error b, s)
    | (.ok l, s) => match s.readImages d col t with
      | (.error b, s) => (.error b, s)
      | (.ok r, s) => (.ok (l :: r), s)

/-- An image is lost as it is read back (11 R230): its crew, with its twin, is restarted, or its region is killed. -/
def State.savedLost (s : State) (a : StageAt) (xs : List Saved) : State :=
  if (s.eff a.rcb).restartable then s.restartSaved a xs else (s.tellLost (xs.map Saved.crew) true).killRegion a.rcb

/-- One saved crew resumes from its image: the crew is rebuilt, and bit 0 of its flags clears before it issues. -/
def State.resumeOne (s : State) (d : StageDesc) (p : CrewAt) (twin : Option CrewAt) (x : Saved) (l : List W8) : State :=
  let s := (s.dropSaved x.crew.uid).restoreScratch x d p.col l
  let asked (page : Nat) (toHost : Bool) : Bool := (s.die d.die).walks.any fun w => w.page = page ∧ w.asked ∧ w.toHost = toHost
  let c := restoreCrew l d x.scratch asked p twin x.crew
  let s : State := { s with crews := s.crews ++ [c] }
  let (_, s) := s.fwWrite (leafOf d.die p.col) (x.image + 0x10) (leBytes 2 (fieldAt l 0x10 2 / 2 * 2))
  let s := s.applyNoted p x.crew x.disposed
  if x.detach then c.tidsPresent.foldl (fun s t => s.fault p t (Bad.plain .hostDetached) none) s else s

/-- CREW_RESUME (11 R229, 03 R60): the most recently saved crew of a stage, or pair, on a granted column. An image that
cannot be read for another cause than an error in it stays saved (DESIGN CHOICE, log 44). -/
def execCrewResume (a : StageAt) (col : Nat) (s : State) : Host.Outcome State Fault Refusal :=
  match s.stage? a with
  | none => .next s
  | some t => match t.desc with
    | none => .next s
    | some d =>
      if !s.mayResume a t d col then .next s
      else match s.readImages d col t.toResume with
        | (.error b, s) => .next (if b.cause = .memoryUncorrectable then s.savedLost a t.toResume else s)
        | (.ok images, s) => match t.toResume, images with
          | [x], [l] =>
            let (slot, s) := s.pickSlot d.die col
            .next ((s.resumeOne d ⟨d.die, col, slot⟩ none x l).restartNoted [x])
          | [x, y], [l, m] =>
            let free := freeSlots (s.onColumn d.die col)
            let (i, s) := s.pick free.length
            let rest := free.eraseIdx i
            let (j, s) := s.pick rest.length
            let p : CrewAt := ⟨d.die, col, free.getD i 0⟩
            let q : CrewAt := ⟨d.die, col, rest.getD j 0⟩
            .next (((s.resumeOne d p (some q) x l).resumeOne d q (some p) y m).restartNoted [x, y])
          | _, _ => .next s

end Sys2Proof.Machine
end

