-- ==== Sys2Proof/Machine/Translation.lean ====
section
/-! DEFINITION. Page walks and what ends them (08 R181 to R183), changes of leaves and the quarantine (07 R167 to R169,
R172; 08 R184; 12 R256), the quiescence counter (07 R168). -/

namespace Sys2Proof.Machine

open Sys2Proof

/-! ## Walks -/

/-- Walkers of a die at work. -/
def Die.walking (d : Die) : Nat := (d.walks.filter fun w => !w.queued && !w.asked).length

def startFirst : List Walk → List Walk
  | [] => []
  | w :: t => if w.queued then { w with queued := false } :: t else w :: startFirst t

/-- PAGE_WALK (08 R181): the die's oldest queued miss takes a walker, when one of the 16 is idle. -/
def execPageWalk (die : Nat) (s : State) : Host.Outcome State Fault Refusal :=
  .next (s.modDie die fun d => if d.walking < Config.walkers then { d with walks := startFirst d.walks } else d)

/-- The engines' pages of a die that a test holds for: of transfers, with their crews. -/
def State.enginePages (s : State) (die : Nat) (f : EnginePage → Bool) : List (Crew × Transfer × EnginePage) :=
  (s.crews.filter fun c => c.place.die = die).flatMap fun c =>
    (s.col die c.place.col).transfers.filterMap fun t => match t.waiting with
      | some p => if t.uid = c.uid ∧ f p then some (c, t, p) else none
      | none => none
/-- The same of prologues. -/
def State.bindPages (s : State) (die : Nat) (f : EnginePage → Bool) : List (Crew × EnginePage) :=
  (s.crews.filter fun c => c.place.die = die).filterMap fun c => match c.bindPage with
    | some p => if f p then some (c, p) else none
    | none => none

/-- The same of fixed-function requests. -/
def State.ffPages (s : State) (die : Nat) (f : EnginePage → Bool) : List (Nat × FfRequest × EnginePage) :=
  (s.cols.zipIdx.filter fun k => k.2 / 104 = die).flatMap fun k => k.1.ff.filterMap fun r => match r.waiting with
    | some p => if f p then some (k.2 % 104, r, p) else none
    | none => none

/-- A prologue's page is refused. -/
def State.bindRefused (s : State) (c : Crew) (b : Bad) : State :=
  s.modCrew c.place fun c => { c.bindFails ⟨c.bindNext / 32, c.bindNext % 32, b.cause, b.ebad.getD 0, b.syn, b.entry⟩ with
    bindPage := none }

/-- A walk has found a page: it is installed, and every miss that it covers ends (08 R181). -/
def State.pageFound (s : State) (die : Nat) (e : TlbEntry) (ws : List WalkEntry) : State :=
  let s := s.install die e ws
  let s := s.modDie die fun d => { d with walks := d.walks.filter fun w => !(w.queued && e.covers (4096 * w.page)) }
  s.missesGo die e.covers

/-- What a thread takes for a walk that failed: a spill or refill takes STACK_SPILL_FAULT, but for a page that is not
present (04 R82). -/
def Missing.bad (m : Missing) (c : Cause) (level : Nat) (entry : W64) : Bad :=
  if m.who = .spill ∧ c ≠ .pageNotPresent then Bad.at_ .stackSpillFault m.va
  else ⟨c, some m.va, syndrome level m.kind (m.who == .engine) c, entry⟩
def Missing.word? (m : Missing) : Option W32 := if m.kind = .fetch then none else some m.word
def EnginePage.bad (p : EnginePage) (c : Cause) (level : Nat) (entry : W64) : Bad :=
  let va := BitVec.ofNat 64 p.va
  ⟨c, some va, syndrome level (accOf p.kind) true c, entry⟩

/-- The prefetches of a page end without it (15 R326, 16 R353). -/
def State.dropHints (s : State) (die page : Nat) : State :=
  { s with cols := s.cols.zipIdx.map fun k => if k.2 / 104 = die then
      { k.1 with hints := k.1.hints.filter fun h => h.va / 4096 ≠ page } else k.1 }

/-- Everything that waited for a walk of a page takes its cause (08 R182). -/
def State.walkStops (s : State) (die page : Nat) (c : Cause) (level : Nat) (entry : W64) : State :=
  let here (p : EnginePage) : Bool := p.walk && p.va / 4096 == page
  let s := ((s.missing die).filter fun m => m.va.toNat / 4096 = page).foldl
    (fun s m => let b := m.bad c level entry
      if c = .pageNotPresent then s.fault m.place m.tid b m.word? else s.take m.place m.tid b m.word?) s
  let s := (s.ffPages die here).foldl (fun s x => s.failFf die x.1 x.2.1 (x.2.2.bad c level entry)) s
  let s := (s.enginePages die here).foldl (fun s x => s.stopTransfer x.1 x.2.1 (x.2.2.bad c level entry)) s
  (s.bindPages die here).foldl (fun s x => s.bindRefused x.1 (x.2.bad c level entry)) s

/-- Everything that waited for a walk of a page waits for the page that has been asked for, of the host or of the
service (08 R183), a thread with the values of its cause (log 6). -/
def State.walkAsked (s : State) (die page level : Nat) (entry : W64) (toHost : Bool) : State :=
  let here (p : EnginePage) : Bool := p.walk && p.va / 4096 == page
  let ask (p : EnginePage) : EnginePage :=
    if here p then { p with walk := false, syn := (p.bad .pageNotPresent level entry).syn, entry, toHost } else p
  let s := ((s.missing die).filter fun m => m.va.toNat / 4096 = page).foldl (fun s m =>
    let b := m.bad .pageNotPresent level entry
    s.modThread m.place m.tid fun t =>
      { t.caught b m.word? with wait := .pageFault die m.va b.syn entry m.word? toHost, missed := none }) s
  { s with
    cols := s.cols.zipIdx.map fun k => if k.2 / 104 = die then
      { k.1 with
        transfers := k.1.transfers.map fun t => { t with waiting := t.waiting.map ask }
        ff := k.1.ff.map fun r => { r with waiting := r.waiting.map ask } } else k.1
    crews := s.crews.map fun c => if c.place.die = die then { c with bindPage := c.bindPage.map ask } else c }

/-- The address that a walk failed for: that of a thread, the first in the order of crews, else of an engine, else of a
prologue that waits for it (DESIGN CHOICE, log 86). -/
def State.walkVa (s : State) (die page : Nat) : W64 :=
  let here (p : EnginePage) : Bool := p.walk && p.va / 4096 == page
  let vas := (((s.missing die).filter fun m => m.va.toNat / 4096 = page).map fun m => m.va.toNat)
    ++ (s.enginePages die here).map (fun x => x.2.2.va) ++ (s.ffPages die here).map (fun x => x.2.2.va) ++ (s.bindPages die here).map fun x => x.2.va
  BitVec.ofNat 64 (vas.headD (4096 * page))

/-- A walk has failed: an invalid entry is asked for once for everything that joined it; any other cause is taken by all
of them (08 R182, R183). A walk that prefetches alone wait for asks for nothing (15 R326, 16 R353). -/
def State.walkFailed (s : State) (die : Nat) (w : Walk) (c : Cause) (level : Nat) (entry : W64) : State :=
  let s := s.dropHints die w.page
  if w.waiters = 0 then s
  else if c ≠ .pageNotPresent then s.walkStops die w.page c level entry
  else
    let va := s.walkVa die w.page
    let b : Bad := ⟨c, some va, syndrome level (accOf w.kind) w.engine c, entry⟩
    match s.askPageFor die w.page w.master w.region w.engine b w.waiters with
    | (true, s) => s.walkAsked die w.page level entry (s.eff w.region).faultsToHost
    | (false, s) => s.walkStops die w.page c level entry

/-- WALK_COMPLETE (08 R181). -/
def execWalkComplete (die page : Nat) (s : State) : Host.Outcome State Fault Refusal :=
  match (s.die die).walks.find? fun w => w.page = page ∧ !w.queued ∧ !w.asked with
  | none => .next s
  | some w =>
    let s := s.modDie die fun d => { d with walks := d.walks.erase w }
    match s.walk die (4096 * page) with
    | (.page e, ws) => .next (s.pageFound die e ws)
    | (.stop c l en dn, _) => .next ((if w.waiters = 0 then s else s.logWalk die dn).walkFailed die w c l en)

/-! ## Executable leaves (12 R256) -/

/-- The management cores have written code into the page of a leaf at a level. -/
def State.codePage (s : State) (e : W64) (level : Nat) : Bool :=
  s.codePages.any fun n => decide (entryPage e ≤ 4096 * n ∧ 4096 * n < entryPage e + 2 ^ levelBits level)

/-- The leaf as the management core installs it: executable only for pages of code. -/
def State.installable (s : State) (e : W64) (level : Nat) : W64 :=
  if e.getLsbD 0 && e.getLsbD 1 && e.getLsbD 3 && !s.codePage e level then e &&& ~~~ (8 : W64) else e

/-- The management core stores an entry of a table at a level; the store's timestamp, which is the core's after it (07
R163). -/
def State.storeEntry (s : State) (die at_ level : Nat) (e : W64) : Nat × State :=
  let e := s.installable e level
  let (t, s) := s.devStore (s.coreTime die) at_ (bytes64 e) none
  let s := s.coreReaches die t
  let rest := s.execLeaves.filter fun x => x.1 ≠ at_
  (t, { s with execLeaves := if e.getLsbD 0 && e.getLsbD 1 && e.getLsbD 3 then (at_, e, level) :: rest else rest })

/-! ## A change of an entry (07 R167) -/

/-- The entries that a walk of an address reads: level, address, entry. -/
def State.walkPath (s : State) (va : Nat) : Nat → Nat → List (Nat × Nat × W64)
  | level, table =>
    let a := table + 8 * (va / 2 ^ levelBits level % 512)
    let e := le64 (s.bytes .dev a 8)
    match level with
    | 0 => [(0, a, e)]
    | l + 1 => (l + 1, a, e) :: if e.getLsbD 0 && !e.getLsbD 1 then s.walkPath va l (entryPage e) else []
def State.pathOf (s : State) (die va : Nat) : List (Nat × Nat × W64) := s.walkPath va 4 (entryPage (s.die die).trbase)

/-- A walk-cache entry that neither is the entry at an address nor was reached by it stays (07 R167, 08 R180). -/
def State.walkEntryStays (s : State) (die at_ : Nat) (w : WalkEntry) : Bool :=
  let path := (s.pathOf die (w.key * 2 ^ levelBits w.level)).filter fun x => w.level ≤ x.1
  (path.any fun x => x.1 = w.level ∧ x.2.2 = w.entry) && path.all fun x => x.2.1 ≠ at_
/-- The same of a TLB entry, of a group too. -/
def State.tlbEntryStays (s : State) (die at_ : Nat) (e : TlbEntry) : Bool :=
  let path := s.pathOf die e.va
  (match path.getLast? with
    | some (l, a, _) => l == e.level && !decide (a ≤ at_ ∧ at_ < a + 8 * 2 ^ (e.bits - levelBits e.level))
    | none => false) && path.all fun x => x.2.1 ≠ at_

/-- Every TLB and walk cache of both dies loses what rests on the entry at an address. -/
def State.dropEntry (s : State) (at_ : Nat) : State :=
  let die (n : Nat) (d : Die) : Die :=
    { d with tlb := d.tlb.filter (s.tlbEntryStays n at_), walkCache := d.walkCache.filter (s.walkEntryStays n at_) }
  { s with
    die0 := die 0 s.die0, die1 := die 1 s.die1
    cols := s.cols.zipIdx.map fun k =>
      if k.1.l1 = [] then k.1 else { k.1 with l1 := k.1.l1.filter (s.tlbEntryStays (k.2 / 104) at_) } }

/-- The time floors of both dies rise. -/
def State.raiseFloors (s : State) (stamp : Nat) : State :=
  let up (d : Die) : Die := { d with floor := max d.floor stamp }
  { s with die0 := up s.die0, die1 := up s.die1 }

/-- An entry is changed: stored, its copies invalid, the floors raised to the change's stamp (07 R167). -/
def State.changeEntry (s : State) (die at_ level : Nat) (e : W64) : Nat × State :=
  let (t, s) := (s.dropEntry at_).storeEntry die at_ level e
  (t + 1, s.raiseFloors (t + 1))

/-- A pinned leaf stands at an address (08 R184). -/
def State.pinnedAt (s : State) (at_ : Nat) : Bool :=
  let e := le64 (s.bytes .dev at_ 8)
  e.getLsbD 0 && e.getLsbD 1 && leafPinned e

/-- The page that an entry of a table at a level maps is still in quarantine: nothing maps it before it leaves (07
R168). -/
def State.quarantined (s : State) (a n : Nat) : Bool :=
  (s.die0.quarantine ++ s.die1.quarantine).any fun x => decide (a < x.1 + x.2.1) && decide (x.1 < a + n)
def State.mapsQuarantined (s : State) (e : W64) (level : Nat) : Bool :=
  e.getLsbD 0 && e.getLsbD 1 && s.quarantined (entryPage e) (2 ^ levelBits level)

/-! ## The paging service (08 R183) -/

/-- A thread waits for a page of a die that one of the two answerers was asked for. -/
def waitsPage (die page : Nat) (toHost : Bool) (t : Thread) : Bool :=
  match t.wait with
  | .pageFault d va _ _ _ h => d = die ∧ va.toNat / 4096 = page ∧ h = toHost
  | _ => false
def EnginePage.waitsPage (page : Nat) (toHost : Bool) (p : EnginePage) : Bool :=
  !p.walk && p.va / 4096 == page && p.toHost == toHost

/-- Everything on the die that waits for the page, of the answerer, tries again. -/
def State.pageMapped (s : State) (die page : Nat) (toHost : Bool) : State :=
  let s := s.wakeWhere (fun c => c.place.die = die) (fun _ t => waitsPage die page toHost t) retry
  s.engineGo die (EnginePage.waitsPage page toHost)

/-- A thread's page is refused: it takes PAGE_NOT_PRESENT, also where the push of a trap frame or a spill has met it (08
R183 against 11 Table 11.8; DESIGN CHOICE, log 86). -/
def State.refuseThread (s : State) (p : CrewAt) (tid : Nat) (t : Thread) : State :=
  match t.wait with
  | .pageFault _ va syn entry word _ => s.fault p tid ⟨.pageNotPresent, some va, syn, entry⟩ word
  | _ => s

/-- What an engine's page that is refused gives: what was sent for it. -/
def EnginePage.refused (p : EnginePage) : Bad := ⟨.pageNotPresent, some (BitVec.ofNat 64 p.va), p.syn, p.entry⟩

/-- Everything that waits for the page, of the answerer, is refused: threads take PAGE_NOT_PRESENT, transfers end, a
prologue fails; a thread of a saved crew takes it when the crew resumes. -/
def State.pageRefused (s : State) (die page : Nat) (toHost : Bool) : State :=
  let mine := EnginePage.waitsPage page toHost
  let here := s.crews.filter fun c => c.place.die = die
  let s := here.foldl (fun s c => c.threads.zipIdx.foldl (fun s x =>
    if waitsPage die page toHost x.1 then s.refuseThread c.place x.2 x.1 else s) s) s
  let s := (s.ffPages die mine).foldl (fun s x => s.failFf die x.1 x.2.1 x.2.2.refused) s
  let s := (s.enginePages die mine).foldl (fun s x => s.stopTransfer x.1 x.2.1 x.2.2.refused) s
  let s := (s.bindPages die mine).foldl (fun s x => s.bindRefused x.1 x.2.refused) s
  let note (x : Saved) : Saved :=
    { x with disposed := x.disposed ++
        (x.crew.threads.zipIdx.filter fun t => waitsPage die page toHost t.1 ∧ x.crew.has t.2).map fun t => (t.2, 5, 0) }
  { s with regions := s.regions.map fun r => { r with stages := r.stages.map fun t => { t with saved := t.saved.map note } } }

/-- Every walk of a page on a die that has sent its request to the answerer is answered. -/
def State.answerPage (s : State) (die page : Nat) (toHost map : Bool) : State :=
  let mine (w : Walk) : Bool := decide (w.page = page) && w.asked && w.toHost == toHost
  if !(s.die die).walks.any mine then s
  else
    let s := s.modDie die fun d => { d with walks := d.walks.filter fun w => !mine w }
    if map then s.pageMapped die page toHost else s.pageRefused die page toHost

/-- The level of the entry that a page's request names (08 Table 8.4). -/
def State.askedLevel (s : State) (die page : Nat) : Nat :=
  match (s.die die).walks.find? fun w => w.page = page ∧ w.asked ∧ !w.toHost with
  | some w => fieldAt w.request 8 1 % 8
  | none => 0

/-- The service installs an entry: as a change where one that is valid stands there (07 R167). -/
def State.installEntry (s : State) (die at_ level : Nat) (e : W64) : State :=
  if (homeOf at_).isNone ∨ at_ % 8 ≠ 0 then s
  else if (le64 (s.bytes .dev at_ 8)).getLsbD 0 then (s.changeEntry die at_ level e).2
  else (s.storeEntry die at_ level e).2

/-- PAGING_SERVICE_REPLY (08 R183): the die's paging service installs an entry, never over a pinned leaf (08 R184), or
refuses. -/
def execPagingServiceReply (die page : Nat) (a : PageAnswer) (s : State) : Host.Outcome State Fault Refusal :=
  if !(s.die die).walks.any fun w => w.page = page ∧ w.asked ∧ !w.toHost then .next s
  else match a with
    | .map at_ e =>
      let level := s.askedLevel die page
      .next (if s.mapsQuarantined e level ∨ s.pinnedAt at_ then s
        else (s.installEntry die at_ level e).answerPage die page false true)
    | .refuse => .next (s.answerPage die page false false)

/-! ## LEAF_CHANGE (07 R167) -/

/-- LEAF_CHANGE: the entry is stored, every copy of it is invalid, the floors rise to the change's stamp, and a freed page
enters quarantine (07 R167, R168). A pinned leaf changes only for system software (08 R184). -/
def execLeafChange (ch : LeafChange) (s : State) : Host.Outcome State Fault Refusal :=
  match homeOf ch.at_ with
  | none => .next s
  | some h =>
    if ch.at_ % 8 ≠ 0 ∨ (s.pinnedAt ch.at_ ∧ !ch.bySystem) ∨ s.mapsQuarantined ch.value ch.level then .next s
    else
      let (t, s) := s.changeEntry h ch.at_ ch.level ch.value
      .next (match ch.freed with
        | some (a, n) => s.modDie ((homeOf a).getD h) fun d => { d with quarantine := d.quarantine ++ [(a, n, t)] }
        | none => s)

/-! ## Quiescence (07 R168, R169) -/

/-- Timestamps of the accesses in flight: misses, appends on their way to the other die, and the sectors of accepted
commands, a drain that is not begun among them. A fetch is no access (07 R151), and no other operation of the matrix
engine has sectors. -/
def State.inFlightPts (s : State) : List Nat :=
  (s.crews.flatMap fun c => c.threads.filterMap fun t => match t.wait with
    | .walk _ kind _ _ => if accOf kind = .fetch then none else some t.pts
    | .remoteEnq => some t.pts
    | _ => none)
  ++ s.cols.flatMap fun k => (k.transfers.map Transfer.pts) ++ ((k.ops.filter fun o => o.drain.isSome).map MatOp.pts)
    ++ (k.ff.filter fun r => r.step ≠ .waiting).map FfRequest.pts

def State.quietOf (s : State) (floor : Nat) : Nat := match s.inFlightPts with
  | [] => floor
  | p :: t => t.foldl min p

/-- Pages whose stamp Q passes leave quarantine, and narrowed entries whose stamp it passes are complete. -/
def Die.settle (q : Nat) (d : Die) : Die :=
  { d with quiet := q
           quarantine := d.quarantine.filter fun x => q ≤ x.2.2
           narrowed := d.narrowed.filter fun x => q ≤ x.stamp }

/-- QUIESCENCE_UPDATE. -/
def execQuiescenceUpdate (s : State) : Host.Outcome State Fault Refusal :=
  .next { s with die0 := s.die0.settle (s.quietOf s.die0.floor), die1 := s.die1.settle (s.quietOf s.die1.floor) }

end Sys2Proof.Machine
end

