-- ==== Sys2Proof/Machine/HostLink.lean ====
section
/-! DEFINITION. What the host function and the management cores write to the register space (12 R239 to R241, R248,
R249; 08 R188), the host's accesses of device memory (12 R240, 07 R161), detachment and the link's return (12 R245,
R246). -/

namespace Sys2Proof.Machine

open Sys2Proof

/-! ## Register writes -/

def hostFunction : Master := ⟨0, 119, 0, none⟩

/-- The host reaches the function: the link is up, and its BARs are assigned since it trained (12 R240, R246). -/
def State.hostReaches (s : State) : Bool := s.attached && s.enumerated

/-- A write to a die's register space by a master: an aligned one of 4 or 8 bytes that the block's access table admits;
any other is dropped (12 R239). -/
def State.registerStore (s : State) (m : Master) (d off size : Nat) (v : W64) : State :=
  if (size ≠ 4 ∧ size ≠ 8) ∨ off % size ≠ 0 ∨ off ≥ 0x10000000 ∨ (m.id = 119 ∧ (d ≠ 0 ∨ !s.hostReaches)) then s
  else if accessTableBlock off then (if m.id = 118 then s.regWrite m d off (leBytes size v.toNat) else s)
  else match regTarget off with
    | none => s
    | some t => match s.gate d t m .write (d * 0x10000000 + off) size with
      | (true, s) => s.regWrite m d off (leBytes size v.toNat)
      | (false, s) => s

/-- SUBMISSION_DOORBELL (03 R54). -/
def execSubmissionDoorbell (tail : W32) (s : State) : Host.Outcome State Fault Refusal :=
  .next (s.registerStore hostFunction 0 0x1014 4 (tail.setWidth 64))
/-- SQCTL_WRITE (12 Table 12.2, R246). -/
def execSqctlWrite (v : W32) (s : State) : Host.Outcome State Fault Refusal :=
  .next (s.registerStore hostFunction 0 0x100C 4 (v.setWidth 64))
/-- RSIZE_WRITE (12 Table 12.2). -/
def execRsizeWrite (k : Nat) (v : W32) (s : State) : Host.Outcome State Fault Refusal :=
  .next (if k < 3 then s.registerStore hostFunction 0 (0x2008 + 32 * k) 4 (v.setWidth 64) else s)
/-- DETACK (12 Table 12.2). -/
def execDetack (v : W32) (s : State) : Host.Outcome State Fault Refusal :=
  .next (s.registerStore hostFunction 0 0x3014 4 (v.setWidth 64))
/-- FRAME_POINTER_WRITE by the die's management core (12 R248). -/
def execFramePointerWrite (die : Nat) (v : W64) (s : State) : Host.Outcome State Fault Refusal :=
  .next (s.registerStore (managementOf die) die 0x8000 8 v)
/-- SCANOUT_LUT_WRITE by the die's management core (12 R249). -/
def execScanoutLutWrite (die colour entry size : Nat) (v : W64) (s : State) : Host.Outcome State Fault Refusal :=
  .next (if colour < 3 ∧ entry < 4096 ∧ 2 * entry + size ≤ 8192 then
    s.registerStore (managementOf die) die (0xA000 + 8192 * colour + 2 * entry) size v else s)
/-- ACCESS_TABLE_WRITE: one master entry, at one instant (08 R188). -/
def execAccessTableWrite (die target master : Nat) (windows : List (W64 × W64)) (s : State) :
    Host.Outcome State Fault Refusal :=
  .next (if target < 7 ∧ master < 256 then s.writeAccess die target master ((windows ++ List.replicate 4 (0, 0)).take 4) else s)
/-- REGISTER_WRITE: any agent's write at a register-space address; one at or above 0x2000_0000 has no home (12 R239). -/
def execRegisterWrite (master addr size : Nat) (v : W64) (s : State) : Host.Outcome State Fault Refusal :=
  let d := addr / 0x10000000
  .next (if d < 2 then s.registerStore ⟨if master = 119 then 0 else d, master, 0, none⟩ d (addr % 0x10000000) size v else s)

/-! ## BAR2 (12 R240) -/

/-- The device address of a BAR2 range, and its home; none outside the BAR or where it has no one home. -/
def State.bar2 (s : State) (off n : Nat) : Option (Nat × Nat) :=
  let a := s.host.apbase.toNat + off
  if off + n > 2 ^ 36 ∨ n = 0 then none
  else match homeOf a with
    | some h => if homeOf (a + n - 1) = some h then some (a, h) else none
    | none => none

/-- The check as master 119; a denial is logged. -/
def State.bar2Check (s : State) (off n : Nat) (k : AccKind) : Option (Nat × Nat) × State :=
  match s.bar2 off n with
  | none => (none, s)
  | some (a, h) => match s.devGate hostFunction k a n h with
    | (true, s) => (some (a, h), s)
    | (false, s) => (none, s)

/-- A completion, which passes no posted write (12 R243). -/
def State.reply (s : State) (r : HostReply) : State := { s.drainOut with replies := s.replies ++ [r] }

/-- The host's timestamp at a home: past the time floor (07 R167). -/
def State.hostFloor (s : State) (line : Nat) : Nat := s.floorPts ((homeOf (128 * line)).getD 0) s.hostPts

/-- The bytes that a host read returns, performed at the home; those of a poisoned line are not stated. -/
def State.bar2Bytes (s : State) (a n : Nat) : List W8 × State :=
  let s := (linesOf a n).foldl (fun s l =>
    let p := s.hostFloor l
    let (c, s) := s.grantLease l p
    { s.touch ((homeOf (128 * l)).getD 0) l false false false with hostPts := max p c.wts }) s
  if s.poisoned a n then s.anyBytes n else (s.bytes .dev a n, s)

/-- A host write, line by line in ascending address. -/
def State.bar2Store (s : State) (a : Nat) (l : List W8) : State :=
  (linesOf a l.length).foldl (fun s line =>
    let lo := max a (128 * line)
    let hi := min (a + l.length) (128 * line + 128)
    let (t, s) := s.devStore (s.hostFloor line) lo ((l.drop (lo - a)).take (hi - lo)) none
    { s with hostPts := t }) s

/-- A host read through BAR0, of die 0's register space (12 R239, R240): an aligned one of 4 or 8 bytes that the block's
access table admits; any other completes with Unsupported Request. -/
def State.bar0Read (s : State) (off n : Nat) : State :=
  if (n ≠ 4 ∧ n ≠ 8) ∨ off % n ≠ 0 ∨ off ≥ 0x10000000 ∨ accessTableBlock off then s.reply .unsupported
  else match regTarget off with
    | none => s.reply (.data (s.regRead 0 off n))
    | some t => match s.gate 0 t hostFunction .read off n with
      | (true, s) => s.reply (.data (s.regRead 0 off n))
      | (false, s) => s.reply .unsupported

/-- HOST_BAR2_READ (12 R240, 07 R161), and the host's read through BAR0 (log 54). -/
def execHostBar2Read (at_ : HostReadAt) (size : Nat) (s : State) : Host.Outcome State Fault Refusal :=
  if !s.hostReaches then .next s
  else match at_ with
    | .bar0 off => .next (s.bar0Read off size)
    | .bar2 off => match s.bar2Check off size .read with
      | (none, s) => .next (s.reply .unsupported)
      | (some (a, _), s) =>
        let (l, s) := s.bar2Bytes a size
        .next (s.reply (.data l))

/-- HOST_BAR2_WRITE (12 R240, 07 R161): dropped where it is refused. -/
def execHostBar2Write (off : Nat) (bytes : List W8) (s : State) : Host.Outcome State Fault Refusal :=
  if !s.hostReaches then .next s
  else match s.bar2Check off bytes.length .write with
    | (none, s) => .next s
    | (some (a, _), s) => .next (s.bar2Store a bytes)

/-- What an AtomicOp stores over an old value of n bytes (12 R240). -/
def pcieNew (n old : Nat) : PcieAtomic → Option Nat
  | .fetchAdd v => some ((old + v.toNat) % 2 ^ (8 * n))
  | .swap v => some (v.toNat % 2 ^ (8 * n))
  | .cas c v => some (if old = c.toNat % 2 ^ (8 * n) then v.toNat % 2 ^ (8 * n) else old)
  | .other => none

/-- HOST_ATOMICOP (12 R240): 32-bit and 64-bit FetchAdd, Swap and CAS are atomics at the home; the old value is
answered. -/
def execHostAtomicop (off size : Nat) (op : PcieAtomic) (s : State) : Host.Outcome State Fault Refusal :=
  if !s.hostReaches then .next s
  else if (size ≠ 4 ∧ size ≠ 8) ∨ op = .other ∨ off % size ≠ 0 then .next (s.reply .unsupported)
  else match s.bar2Check off size .atomic with
    | (none, s) => .next (s.reply .unsupported)
    | (some (a, _), s) =>
      let (l, s) := s.bar2Bytes a size
      let new := (pcieNew size (leNat l) op).getD 0
      .next ((s.bar2Store a (leBytes size new)).reply (.data l))

/-! ## Detachment (12 R245) -/

/-- Ring entries not transmitted: entries of rings 1 and 2 wait again (12 Table 12.3). -/
def untransmittedEntries (l : List Posted) : List Outgoing := l.filterMap fun
  | .entry k _ b _ => if k = 0 then none else some ⟨(b.getD 0x35 0).toNat, .ring k, b⟩
  | _ => none

/-- The posted writes that are dropped: stores, sectors, and entries of ring 0 (12 Table 12.2). -/
def droppedWrites (l : List Posted) : Nat := (l.filter fun
  | .store _ _ _ _ | .sector _ _ _ => true
  | .entry k _ _ _ => k == 0
  | .msi _ => false).length

/-- Places of the dropped stores that a FENCE.host covers: of threads, and the write sectors of engines (07 R158). -/
def droppedPlaces (l : List Posted) : List Nat := l.filterMap fun
  | .store _ _ a p | .sector _ a p => if fencedAgent a then some p else none
  | _ => none

def satAdd (w : W32) (n : Nat) : W32 := BitVec.ofNat 32 (min 0xFFFFFFFF (w.toNat + n))

/-- A page of n bytes at a virtual address is host memory. -/
def State.hostIn (s : State) (die a n : Nat) : Bool := (pagePieces a n).any fun x => match s.leafAt die x.1 with
  | some e => leafType e.leaf = 2
  | none => false

/-- A RAST reads host memory: its list, or the vertices that the list, as it stands, names. -/
def State.rasterHost (s : State) (c : Crew) (record : List W8) : Bool :=
  let b := BinRec.ofBytes record
  let die := c.place.die
  s.hostIn die b.tris (4 * b.count) || (s.peek c true b.tris (4 * b.count)).any fun l =>
    (b.vertexReads (b.numbers ((l.zipIdx b.tris).map fun x => (x.2, x.1)))).any fun x => s.hostIn die x.1 x.2

/-- What a transfer will read or write besides the sectors that it has planned lies in host memory: the parts of an expand's
buffer, as they stand; the capacity of a compress that is still reading; a RAST that has not read; the word of a fold. -/
def State.unplannedHost (s : State) (c : Crew) (t : Transfer) : Bool :=
  let die := c.place.die
  t.fold.any (fun a => s.hostIn die a 2) || match t.kind with
    | .copy 3 _ src _ _ _ => t.gsrc && decide (t.phase3 < 2) && (s.bufferParts c true src).any fun p => s.hostIn die (src + p.1) p.2
    | .copy 4 _ _ dst _ dcap => t.gdst && t.reads != [] && s.hostIn die dst dcap
    | .raster record => t.writes == [] && t.late == [] && s.rasterHost c record
    | _ => false

/-- A transfer still has a sector of host memory to read or to write. -/
def State.hasHostSector (s : State) (c : Crew) (t : Transfer) : Bool :=
  let host (a : Nat) : Bool := s.hostIn c.place.die a 1
  (t.gsrc && t.reads.any fun r => host r.1) || (t.gdst && ((t.writes.any fun w => host w.addr) || t.late.any fun w => host w.addr))
    || s.unplannedHost c t

/-- The work of a crew that has a host sector not yet performed is aborted: transfers, drains that are queued, of which the
fold's word alone is global, and RASTs that no engine has taken up (12 Table 12.3). -/
def State.abortHostWork (s : State) (c : Crew) : State :=
  let ts := (s.col c.place.die c.place.col).transfers.filter fun t => t.uid = c.uid ∧ s.hasHostSector c t
  let drains (o : MatOp) : Bool := o.drain.any fun d => d.1.amaxOn && s.hostIn c.place.die d.1.amax 2
  let rasters (r : FfRequest) : Bool := s.rasterHost c r.record
  let s1 := ts.foldl (fun s t => s.countDetread.abortTransfer c t (Bad.plain .hostDetached)) s
  ((s1.stopDrains c drains).stopRasters c rasters).ffServeAll c.place.die c.place.col

/-- Threads that wait in a FENCE.host covering a dropped store. -/
def covers (places : List Nat) (t : Thread) : Bool :=
  match t.wait with
  | .hostTx p => places.any fun q => q < p
  | _ => false

/-- The pages that were asked of the host are refused. -/
def State.refuseHostPages (s : State) : State :=
  [0, 1].foldl (fun s d =>
    ((s.die d).walks.filter fun w => w.asked && w.toHost).foldl (fun s w => s.answerPage d w.page true false) s) s

/-- Every present thread of the resident crews of host-dependent regions takes HOST_DETACHED; saved ones take it when
they resume. -/
def State.detachRegions (s : State) : State :=
  let dep (rcb : Nat) : Bool := (s.eff rcb).hostDependent
  let s1 := (s.crews.filter fun c => dep c.at_.rcb).foldl (fun s c =>
    c.tidsPresent.foldl (fun s t => s.fault c.place t (Bad.plain .hostDetached) none) s) s
  { s1 with regions := s1.regions.map fun r => if dep r.rcb then
      { r with stages := r.stages.map fun t => { t with saved := t.saved.map fun x => { x with detach := true } } } else r }

/-- HOST_DETACH (12 R245): the marking, one event of the store order, and its outcomes by Table 12.3. -/
def execHostDetach (s : State) : Host.Outcome State Fault Refusal :=
  if !s.attached then .next s
  else
    let places := droppedPlaces s.hostOut
    let back := untransmittedEntries s.hostOut
    let s : State := { s with
      attached := false, heldLaunch := true, store := s.store + 1, hostOut := [], hostLost := s.hostLost || !places.isEmpty
      outgoing := back ++ s.outgoing.filter fun o => o.dest != .ring 0
      host := { s.host with
        detcount := s.host.detcount + 1, detdrop := satAdd s.host.detdrop (droppedWrites s.hostOut)
        detns := BitVec.ofNat 64 s.ns, sqctl := 0 } }
    let fences := s.crews.flatMap fun c => (c.threads.zipIdx.filter fun t => covers places t.1).map fun t => (c.place, t.2)
    let s := fences.foldl (fun s x => s.fault x.1 x.2 (Bad.plain .hostDetached) (some 0x7A000004#32)) s
    let note (x : Saved) : Saved :=
      { x with disposed := x.disposed ++ (x.crew.threads.zipIdx.filter fun t => covers places t.1).map fun t => (t.2, 6, 0) }
    let s : State := { s with regions := s.regions.map fun r =>
      { r with stages := r.stages.map fun t => { t with saved := t.saved.map note } } }
    let s := s.crews.foldl State.abortHostWork s
    let s := s.refuseHostPages.detachRegions
    .next (s.napEvent none 2)

/-- LINK_RETRAIN (12 R246): the link is up, the function's configuration at its reset values, so that no BAR is assigned
until the host enumerates it; what the detachment held waits for sqctl bit 0. -/
def execLinkRetrain (s : State) : Host.Outcome State Fault Refusal := .next { s with attached := true, enumerated := false }

end Sys2Proof.Machine
end

