-- ==== Sys2Proof/Machine/Loader.lean ====
section
/-! DEFINITION. LOADCODE: Aelent containers (12 R257, R258, Tables 12.7 and 12.8), their translation and relocation (R259,
Table 12.9), and the writing of code into executable pages (07 R170, R172; 12 R256). -/

namespace Sys2Proof.Machine

open Sys2Proof

/-! ## The container -/

/-- 12 Table 12.8. -/
structure FuncEntry where
  name : Nat
  namelen : Nat
  tile : Nat × Nat
  loop : Nat × Nat
  scalar : Nat × Nat
  xref : Nat × Nat
  reserved : Nat
  deriving DecidableEq, Repr

def FuncEntry.ofBytes (l : List W8) : FuncEntry :=
  { name := fieldAt l 0 4, namelen := fieldAt l 4 4, tile := (fieldAt l 8 8, fieldAt l 0x10 4)
    loop := (fieldAt l 0x18 8, fieldAt l 0x14 4), scalar := (fieldAt l 0x20 8, fieldAt l 0x28 4)
    xref := (fieldAt l 0x30 8, fieldAt l 0x38 4), reserved := fieldAt l 0x2C 4 + fieldAt l 0x3C 4 }

/-- 12 Table 12.7, with the function table. -/
structure Container where
  magic : Nat
  version : W16
  cflags : Nat
  length : Nat
  nfunc : Nat
  functab : Nat
  strtab : Nat
  strlen : Nat
  signer : List W8
  sigoff : Nat
  reservedZero : Bool
  funcs : List FuncEntry
  deriving DecidableEq, Repr

def Container.ofBytes (l : List W8) : Container :=
  let functab := fieldAt l 0x14 4
  let nfunc := fieldAt l 0x10 4
  { magic := fieldAt l 0 4, version := BitVec.ofNat 16 (fieldAt l 4 2), cflags := fieldAt l 6 2, length := fieldAt l 8 8
    nfunc, functab, strtab := fieldAt l 0x18 4, strlen := fieldAt l 0x1C 4, signer := (l.drop 0x20).take 32
    sigoff := fieldAt l 0x40 8, reservedZero := ((l.drop 0x48).take 0x38).all fun b => b = 0
    funcs := (List.range (min nfunc 4079)).map fun i => FuncEntry.ofBytes ((l.drop (functab + 64 * i)).take 64) }

/-- Bytes are well-formed UTF-8. -/
def utf8From : Nat → List W8 → Bool
  | 0, l => l.isEmpty
  | _ + 1, [] => true
  | n + 1, b :: t =>
    let x := b.toNat
    let tail (k lo hi : Nat) : Bool :=
      decide (t.length ≥ k) && (t.take k).all (fun c => decide (0x80 ≤ c.toNat ∧ c.toNat ≤ 0xBF))
        && decide (lo ≤ (t.headD 0).toNat ∧ (t.headD 0).toNat ≤ hi) && utf8From n (t.drop k)
    if x < 0x80 then utf8From n t
    else if 0xC2 ≤ x ∧ x ≤ 0xDF then tail 1 0x80 0xBF
    else if x = 0xE0 then tail 2 0xA0 0xBF
    else if x = 0xED then tail 2 0x80 0x9F
    else if 0xE1 ≤ x ∧ x ≤ 0xEF then tail 2 0x80 0xBF
    else if x = 0xF0 then tail 3 0x90 0xBF
    else if 0xF1 ≤ x ∧ x ≤ 0xF3 then tail 3 0x80 0xBF
    else if x = 0xF4 then tail 3 0x80 0x8F
    else false
def isUtf8 (l : List W8) : Bool := utf8From l.length l

/-- A name, the presence of a level, and the lengths, in their ranges. -/
def FuncEntry.clean (strlen : Nat) (names : List W8) (f : FuncEntry) : Bool :=
  decide (f.reserved = 0 ∧ 1 ≤ f.namelen ∧ f.namelen ≤ 255 ∧ f.name + f.namelen ≤ strlen ∧ f.xref.2 % 12 = 0)
    && isUtf8 ((names.drop f.name).take f.namelen)
    && [f.tile, f.loop, f.scalar].any (fun x => decide (x.1 ≠ 0))
    && [f.tile, f.loop, f.scalar].all (fun x => decide ((x.1 = 0) = (x.2 = 0))) && decide (f.xref.1 = 0 → f.xref.2 = 0)

/-- A tile or loop section begins with its header (12 R259). -/
def formHeaderOk (tile : Bool) (l : List W8) : Bool :=
  decide (16 ≤ l.length ∧ fieldAt l 0 4 = (if tile then 0x4C544D44 else 0x504C4D44) ∧ fieldAt l 8 8 = l.length)

/-- 12 R259: the scalar section of the Lygar die. -/
structure ScalarSection where
  words : List W32
  entry : Nat
  relocs : List (List W8)
  ok : Bool
  deriving DecidableEq, Repr

def lygarCode : Nat := 0x4C590001

def ScalarSection.ofBytes (l : List W8) : ScalarSection :=
  let n := fieldAt l 4 4
  let r := fieldAt l 0xC 4
  let size := ceilDiv (4 * n) 8 * 8
  { words := wordsOf (min n l.length) (l.drop 16), entry := fieldAt l 8 4
    relocs := (List.range (min r l.length)).map fun i => (l.drop (16 + size + 16 * i)).take 16
    ok := decide (16 + size + 16 * r ≤ l.length ∧ fieldAt l 8 4 < n) && ((l.drop (16 + 4 * n)).take (size - 4 * n)).all fun b => b = 0 }

/-- No two ranges of a list overlap. -/
def disjointRanges : List (Nat × Nat) → Bool
  | [] => true
  | x :: t => t.all (fun y => decide (x.1 + x.2 ≤ y.1 ∨ y.1 + y.2 ≤ x.1)) && disjointRanges t

def part (l : List W8) (x : Nat × Nat) : List W8 := (l.drop x.1).take x.2

/-- The sections that the functions name; one that several of them name as the same part counts once (log 58). -/
def Container.sections (c : Container) : List (Nat × Nat) :=
  let once (f : FuncEntry → Nat × Nat) : List (Nat × Nat) := ((c.funcs.map f).filter fun x => x.1 ≠ 0).eraseDups
  once FuncEntry.tile ++ once FuncEntry.loop ++ once FuncEntry.scalar ++ once FuncEntry.xref

/-- The malformed containers of 12 R258 and R259. -/
def Container.malformed (c : Container) (l : List W8) : Bool :=
  let sections := ((c.functab, 64 * c.nfunc) :: (c.strtab, c.strlen) :: c.sections).filter fun x => x.2 ≠ 0
  let names := part l (c.strtab, c.strlen)
  decide (c.magic ≠ 0x4E4C4541 ∨ c.cflags ≠ 0 ∨ c.nfunc = 0 ∨ c.nfunc > 4079 ∨ c.functab % 64 ≠ 0
      ∨ c.length < 3309 ∨ c.sigoff + 3309 ≠ c.length)
    || !c.reservedZero || sections.any (fun x => decide (x.1 < 128 ∨ c.sigoff < x.1 + x.2)) || !disjointRanges sections
    || c.funcs.any (fun f => !f.clean c.strlen names)
    || c.funcs.any fun f =>
      (f.tile.1 ≠ 0 && !formHeaderOk true (part l f.tile)) || (f.loop.1 ≠ 0 && !formHeaderOk false (part l f.loop))
        || (f.scalar.1 ≠ 0 && (f.scalar.2 < 16 ||
          (fieldAt (part l f.scalar) 0 4 == lygarCode && !(ScalarSection.ofBytes (part l f.scalar)).ok)))

/-- The bytes of a digest of n bytes. -/
def digest (data : List W8) (n : Nat) : List W8 := (List.range n).map (Config.shake256 data)

/-- The signature verifies against the trust-list key that the header names, and the version is known (12 R257, R258). -/
def Container.trusted (c : Container) (l : List W8) : Bool :=
  let message := digest (l.take c.sigoff) 64
  let signature := (l.drop c.sigoff).take 3309
  ((List.range Config.trustCount.val).any fun i =>
    digest (Config.trustKeys i) 32 == c.signer && Config.mlDsaVerifies (Config.trustKeys i) message signature)
  && (List.range 5).any fun i => if h : i < 5 then Config.knownVersion ⟨i, h⟩ == c.version else false

/-! ## Translation and placement (12 R259) -/

/-- A function as it is loaded: its words, the index of its entry, its relocations, its level. -/
structure Loaded where
  words : List W32
  entry : Nat
  relocs : List (List W8)
  level : Nat
  deriving DecidableEq, Repr

/-- From the highest level that damtx understands; none when it understands none. -/
def FuncEntry.translate (l : List W8) (f : FuncEntry) : Option Loaded :=
  let form (tile : Bool) (x : Nat × Nat) : Option Loaded :=
    if x.1 ≠ 0 ∧ Config.damtxKnows tile (BitVec.ofNat 32 (fieldAt (part l x) 4 4)) then
      let r := Config.damtxWords tile ((part l x).drop 16)
      some ⟨r.1, r.2, [], if tile then 0 else 1⟩
    else none
  match form true f.tile with
  | some x => some x
  | none => match form false f.loop with
    | some x => some x
    | none =>
      if f.scalar.1 ≠ 0 ∧ fieldAt (part l f.scalar) 0 4 = lygarCode then
        let s := ScalarSection.ofBytes (part l f.scalar)
        some ⟨s.words, s.entry, s.relocs, 2⟩
      else none

def allOf : List (Option α) → Option (List α)
  | [] => some []
  | none :: _ => none
  | some x :: t => (allOf t).map fun r => x :: r

/-- The address of each function: multiples of 64, in order. -/
def placeFrom (a : Nat) : List Loaded → List Nat
  | [] => []
  | f :: t => let p := ceilDiv a 64 * 64
    p :: placeFrom (p + 4 * f.words.length) t

/-- An offset in words as a field of n bits; none out of its range (13 R277). -/
def branchField (n : Nat) (target at_ : Int) : Option Nat :=
  let d := target - at_
  if d % 4 ≠ 0 ∨ d / 4 < -(2 ^ (n - 1) : Nat) ∨ d / 4 ≥ (2 ^ (n - 1) : Nat) then none
  else some ((d / 4) % (2 ^ n : Nat)).toNat

/-- One relocation of a function at an address, on its bytes (12 Table 12.9). -/
def relocate (places : List Nat) (base : Nat) (l r : List W8) : Option (List W8) :=
  let at_ := fieldAt r 0 4
  let target := fieldAt r 6 2
  if places.length ≤ target then none
  else
    let va : Int := (places.getD target 0 : Nat) + signedNat 64 (fieldAt r 8 8)
    let patch (n : Nat) (majors : List Nat) : Option (List W8) :=
      let w := fieldAt l at_ 4
      if at_ % 4 ≠ 0 ∨ l.length < at_ + 4 ∨ !majors.contains (w / 2 ^ 24) then none
      else (branchField n va (base + at_ : Nat)).map fun f =>
        l.take at_ ++ leBytes 4 (w / 2 ^ n * 2 ^ n + f) ++ l.drop (at_ + 4)
    match fieldAt r 4 2 with
    | 0 => if l.length < at_ + 8 then none else some (l.take at_ ++ leBytes 8 (va % (2 ^ 64 : Nat)).toNat ++ l.drop (at_ + 8))
    | 1 => patch 18 [0x62]
    | 2 => patch 19 [0x60, 0x61]
    | _ => none

def relocateAll (places : List Nat) (base : Nat) : List (List W8) → List W8 → Option (List W8)
  | [], l => some l
  | r :: t, l => (relocate places base l r).bind (relocateAll places base t)

/-- What LOADCODE writes: addresses and bytes, and the result of Table 12.10. -/
structure LoadPlan where
  blocks : List (Nat × List W8)
  result : List W8
  deriving DecidableEq, Repr

def Container.plan (c : Container) (l : List W8) (va length : Nat) : Option LoadPlan :=
  match allOf (c.funcs.map (FuncEntry.translate l)) with
  | none => none
  | some fs =>
    let places := placeFrom va fs
    let fits := (places.zip fs).all fun x => decide (x.1 + 4 * x.2.words.length ≤ va + length)
    match allOf ((places.zip fs).map fun x => relocateAll places x.1 x.2.relocs (x.2.words.flatMap bytes32)) with
    | none => none
    | some bs =>
      if !fits then none
      else
        let used := bs.foldl (fun n b => n + b.length) 0
        some
          { blocks := places.zip bs
            result := leBytes 4 c.nfunc ++ leBytes 4 used
              ++ (places.zip fs).flatMap fun x => leBytes 8 (x.1 + 4 * x.2.entry) ++ leBytes 8 x.2.level }

/-! ## Writing code -/

/-- The address and value of the leaf that maps an address, whatever its permissions; none where no leaf is valid. -/
def State.leafFrom (s : State) (va : Nat) : Nat → Nat → Option (Nat × W64 × Nat)
  | level, table =>
    let a := table + 8 * (va / 2 ^ levelBits level % 512)
    let e := le64 (s.bytes .dev a 8)
    if (homeOf a).isNone ∨ !e.getLsbD 0 ∨ entryBad e level then none
    else if e.getLsbD 1 then some (a, e, level)
    else match level with
      | 0 => none
      | n + 1 => s.leafFrom va n (entryPage e)
def State.leafOfVa (s : State) (va : Nat) : Option (Nat × W64 × Nat) :=
  if va ≥ 2 ^ 57 then none else s.leafFrom va 4 (entryPage s.die0.trbase)

/-- A page that code is written into: its virtual page number, its leaf's address, value and level, its physical
address. -/
structure CodePage where
  page : Nat
  at_ : Nat
  leaf : W64
  level : Nat
  pa : Nat
  deriving DecidableEq, Repr

/-- The pages of a plan, each with its leaf; none when one of them is not mapped to device memory. -/
def State.codeLeaves (s : State) (p : LoadPlan) : Option (List CodePage) :=
  allOf ((p.blocks.flatMap fun b => pagesOf b.1 b.2.length).eraseDups.map fun page =>
    match s.leafOfVa (4096 * page) with
    | some (a, e, level) =>
      let pa := entryPage e + 4096 * page % 2 ^ levelBits level
      if leafType e ≤ 1 ∧ (homeOf pa).isSome then some ⟨page, a, e, level, pa⟩ else none
    | none => none)

/-- The management core writes bytes of one page. -/
def State.writeCode (s : State) (leaves : List CodePage) (a : Nat) (l : List W8) : State :=
  match leaves.find? fun x => x.page = a / 4096 with
  | none => s
  | some x =>
    let pa := x.pa + a % 4096
    (linesOf pa l.length).foldl (fun s line =>
      let lo := max pa (128 * line)
      let hi := min (pa + l.length) (128 * line + 128)
      let (t, s) := s.devStore (s.coreTime 0) lo ((l.drop (lo - pa)).take (hi - lo)) none
      s.coreReaches 0 t) s

def State.writeBlock (s : State) (leaves : List CodePage) (b : Nat × List W8) : State :=
  ((pagePieces b.1 b.2.length).foldl (fun (x : State × List W8) piece =>
    (x.1.writeCode leaves piece.1 (x.2.take piece.2), x.2.drop piece.2)) (s, b.2)).1

/-- The range leaves every instruction cache of both dies, pinned lines included (07 R170). -/
def State.invalidateCode (s : State) (b : Nat × List W8) : State :=
  let ls := linesOf b.1 b.2.length
  { s with cols := s.cols.map fun k => { k with icache := k.icache.filter fun x => !ls.contains x.line } }

/-- The leaves of the pages become executable: a change under 07 R167. -/
def State.makeExecutable (s : State) (leaves : List CodePage) : State :=
  let one (x : Nat × State) (l : CodePage) : Nat × State :=
    let e := l.leaf ||| 8
    let s := x.2.dropEntry l.at_
    let (t, s) := s.devStore (s.coreTime 0) l.at_ (bytes64 e) none
    (max x.1 t, { s.coreReaches 0 t with
      execLeaves := (l.at_, e, l.level) :: s.execLeaves.filter fun y => y.1 ≠ l.at_
      codePages := insertN (l.pa / 4096) s.codePages })
  let (t, s) := leaves.foldl one (0, s)
  s.raiseFloors (t + 1)

/-- How LOADCODE ends: refused; waiting for pages in quarantine; or done, with its result. -/
inductive LoadEnd where
  | refused
  | waits
  | done (result : List W8)
  deriving DecidableEq, Repr

def State.loadCode (s : State) (container va length : Nat) : LoadEnd × State :=
  if container % 64 ≠ 0 then (.refused, s)
  else match s.fwRead (managementOf 0) true container 128 with
    | (.error _, s) => (.refused, s)
    | (.ok h, s) =>
      let n := fieldAt h 8 8
      if n > 2 ^ 40 then (.refused, s)
      else match s.fwRead (managementOf 0) true container n with
        | (.error _, s) => (.refused, s)
        | (.ok l, s) =>
          let c := Container.ofBytes l
          if c.malformed l ∨ !c.trusted l then (.refused, s)
          else match c.plan l va length with
            | none => (.refused, s)
            | some p => match s.codeLeaves p with
              | none => (.refused, s)
              | some leaves =>
                if leaves.any fun x => s.quarantined x.pa 4096 then (.waits, s)
                else
                  let s := p.blocks.foldl (fun s b => s.writeBlock leaves b) s
                  let s := p.blocks.foldl State.invalidateCode s
                  (.done p.result, s.makeExecutable leaves)

end Sys2Proof.Machine
end

