-- ==== Sys2Proof/Machine/Mailbox.lean ====
section
/-! DEFINITION. The commands of the recovery mailbox (12 R254 to R257, Tables 12.5 and 12.6). The arguments stand in the
order of Table 12.6, a VA in two words and every other in one (log 13). -/

namespace Sys2Proof.Machine

open Sys2Proof

def State.argWord (s : State) (off : Nat) : Nat := leNat (s.mailbox.args.readN off 4)
def State.argVa (s : State) (off : Nat) : Nat := leNat (s.mailbox.args.readN off 8)

/-- The command in progress is the one of a code. -/
def State.commanded (s : State) (code : Nat) : Bool :=
  decide (s.mailbox.status.toNat % 256 = 1) && decide (s.mailbox.cmd.toNat % 256 = code)

/-- The command ends with a status and its sequence number, and vector 7 is raised (12 R242). -/
def State.endCommand (s : State) (status : Nat) : State :=
  let m := { s.mailbox with status := BitVec.ofNat 32 (status + s.mailbox.cmd.toNat / 65536 * 65536) }
  { s with mailbox := m }.sendMsi 7
/-- Done, with result bytes. -/
def State.endWith (s : State) (l : List W8) : State :=
  { s with mailbox := { s.mailbox with result := Memory.writeL s.mailbox.result 0x100 l } }.endCommand 2
def State.command (s : State) (code : Nat) (f : State → State) : Host.Outcome State Fault Refusal :=
  .next (if s.commanded code then f s else s)

/-- DISPOSE: a record of a host ring; the result is the c6 value. -/
def execDispose (s : State) : Host.Outcome State Fault Refusal :=
  s.command 1 fun s =>
    let (refused, s) := s.dispose (BitVec.ofNat 32 (s.argWord 0)) (s.argWord 4) none s.hostPts
    s.endWith (leBytes 4 refused.toNat)

/-- PAGEREPLY: every walk of the page on the die is answered (08 R183). -/
def execPagereply (s : State) : Host.Outcome State Fault Refusal :=
  s.command 2 fun s =>
    let die := s.argWord 8
    let refuse := s.argWord 12
    if die > 1 ∨ refuse > 1 then s.endCommand 3
    else
      let page := s.argVa 0 % 2 ^ 57 / 4096
      ((s.answerPage die page true (refuse = 0)).answerPage die page false (refuse = 0)).endCommand 2

/-- CLEARKILL (11 R226). -/
def execClearkill (s : State) : Host.Outcome State Fault Refusal :=
  s.command 3 fun s =>
    let rcb := s.argVa 0
    { s with kills := s.kills.filter fun r => r ≠ rcb }.endCommand 2

/-- The stage that the arguments name: the die, the region, the index. -/
def State.argStage (s : State) : Nat × StageAt := (s.argWord 0, ⟨s.argVa 4, s.argWord 12⟩)

/-- QREAD: records waiting, launchable crews, saved crews, and the grant as a mask of columns. -/
def execQread (s : State) : Host.Outcome State Fault Refusal :=
  s.command 4 fun s =>
    let (die, a) := s.argStage
    match s.stage? a with
    | none => s.endCommand 3
    | some t =>
      if (t.desc.map StageDesc.die) ≠ some die then s.endCommand 3
      else s.endWith (leBytes 4 t.queue.length ++ leBytes 4 t.formed.length ++ leBytes 4 t.saved.length ++ zeros 4
        ++ leBytes 16 (t.grant.foldl (fun n c => n ||| 2 ^ c) 0))

/-- QDRAIN: frozen only; up to n records leave the head of the queue for the result area. -/
def execQdrain (s : State) : Host.Outcome State Fault Refusal :=
  s.command 5 fun s =>
    let (die, a) := s.argStage
    match s.stage? a with
    | none => s.endCommand 3
    | some t =>
      if die > 1 ∨ !(s.die die).frozen ∨ (t.desc.map StageDesc.die) ≠ some die then s.endCommand 3
      else
        let size := (s.desc a).recsize
        let k := min (min (s.argWord 16) t.queue.length) ((0xFF00 - 16) / size)
        let s := s.modStage a fun t => { t with queue := t.queue.drop k }
        (s.endWith (leBytes 4 k ++ zeros 12 ++ (t.queue.take k).flatMap QRec.bytes)).retire

/-- The crews that QLAUNCH forms from n records. -/
def formedOf (d : StageDesc) (now : Nat) (rs : List (List W8)) : Formed :=
  let l := rs.map fun b => (⟨b, now, 0⟩ : QRec)
  if d.paired then ⟨evens l, some (odds l), now⟩ else ⟨l, none, now⟩

/-- QLAUNCH: frozen only; one crew of the records, launched on a column within its budgets. -/
def execQlaunch (s : State) : Host.Outcome State Fault Refusal :=
  s.command 6 fun s =>
    let (die, a) := s.argStage
    let col := s.argWord 16
    let n := s.argWord 28
    if die > 1 ∨ !(s.die die).frozen ∨ col ≥ Config.columns then s.endCommand 3
    else match s.openRegion a.rcb with
      | (none, s) => s.endCommand 3
      | (some r, s) => match (r.stages[a.stage]?).bind Stage.desc with
        | none => (s.endCommand 3).retire
        | some d =>
          let k := if d.paired then 2 else 1
          if d.die ≠ die ∨ d.persistent ∨ n = 0 ∨ n % k ≠ 0 ∨ n > k * d.crewsize ∨ (s.lineage 10 a.rcb).any s.killed
              ∨ s.fatal.isSome ∨ !s.usable die col ∨ !s.fits d k (s.onColumn die col) ∨ !s.mayHave die a.rcb [] col then
            (s.endCommand 3).retire
          else match s.fwRead (managementOf 0) true (s.argVa 20) (n * d.recsize) with
            | (.error _, s) => (s.endCommand 3).retire
            | (.ok l, s) => match s.placeFormed a d col (formedOf d s.ns (chunks d.recsize n l)) with
              | none => (s.endCommand 3).retire
              | some (ps, s) =>
                let s := ps.foldl State.runPrologue s
                { s with mailbox := { s.mailbox with driving := true } }.endCommand 2

/-- GSRESET: the die's scheduler starts anew; queues, saved crews and grants are kept. -/
def execGsreset (s : State) : Host.Outcome State Fault Refusal :=
  s.command 7 fun s =>
    let die := s.argWord 0
    if die > 1 then s.endCommand 3
    else
      let s := s.modDie die fun d => { d with frozen := false, watchdog := s.ns }
      { s with mailbox := { s.mailbox with driving := false }
               victims := s.victims.filter fun p => p.die ≠ die
               targets := s.targets.filter fun x => (s.desc x.1).die ≠ die }.endCommand 2

/-- COLSTATE: 0 enabled, 1 spare, 2 fenced; and the resident crews. -/
def execColstate (s : State) : Host.Outcome State Fault Refusal :=
  s.command 8 fun s =>
    let die := s.argWord 0
    let col := s.argWord 4
    if die > 1 ∨ col ≥ Config.columns then s.endCommand 3
    else
      let k := s.col die col
      s.endWith (leBytes 4 (if k.fenced then 2 else if k.enabled then 0 else 1) ++ leBytes 4 (s.onColumn die col).length)

/-- COUNTS: the corrected errors by structure, of die 0 and then of die 1. -/
def execCounts (s : State) : Host.Outcome State Fault Refusal :=
  s.command 9 fun s => s.endWith ((s.die0.corrected ++ s.die1.corrected).flatMap (leBytes 4))

/-- The attestation report (12 R255). -/
def State.report (s : State) (nonce : List W8) : List W8 :=
  nonce ++ s.die0.digest ++ s.die1.digest
    ++ leBytes 16 s.host.colmask0.toNat ++ leBytes 16 s.host.colmask1.toNat ++ leBytes 4 s.fatal.isSome.toNat
    ++ (List.range Config.trustCount.val).flatMap fun i => digest (Config.trustKeys i) 32

/-- ATTEST: the report, then its signature by die 0's identity key. -/
def execAttest (s : State) : Host.Outcome State Fault Refusal :=
  s.command 10 fun s =>
    let r := s.report (s.mailbox.args.readN 0 32)
    s.endWith (r ++ (List.range 3309).map (Config.identitySignature 0 r))

/-- LOADCODE (12 R257 to R259). Pages in quarantine are waited for (07 R172). -/
def execLoadcode (s : State) : Host.Outcome State Fault Refusal :=
  s.command 11 fun s =>
    match s.loadCode (s.argVa 0) (s.argVa 8) (s.argWord 16) with
    | (.refused, s) => s.endCommand 3
    | (.waits, s) => s
    | (.done l, s) => s.endWith l

end Sys2Proof.Machine
end

