-- ==== Sys2Proof/Machine/Peal.lean ====
section
/-! DEFINITION. PEAL, the issue of words that the threads have computed (02 R41 to R46; 16 R351, R352). -/

namespace Sys2Proof.Machine

open Sys2Proof

/-- The meaning of a permitted word other than PEAL (02 R42: the constructors of its majors). -/
def pealWord (i : Instr) : Option (State → Host.Outcome State Fault Refusal) :=
  match i with
  | .add x1 x2 x3 => some (execAdd x1 x2 x3)
  | .addc x1 x2 x3 => some (execAddc x1 x2 x3)
  | .sub x1 x2 x3 => some (execSub x1 x2 x3)
  | .subb x1 x2 x3 => some (execSubb x1 x2 x3)
  | .and x1 x2 x3 => some (execAnd x1 x2 x3)
  | .or x1 x2 x3 => some (execOr x1 x2 x3)
  | .xor x1 x2 x3 => some (execXor x1 x2 x3)
  | .andn x1 x2 x3 => some (execAndn x1 x2 x3)
  | .shl x1 x2 x3 => some (execShl x1 x2 x3)
  | .shr x1 x2 x3 => some (execShr x1 x2 x3)
  | .sar x1 x2 x3 => some (execSar x1 x2 x3)
  | .rotl x1 x2 x3 => some (execRotl x1 x2 x3)
  | .min x1 x2 x3 => some (execMin x1 x2 x3)
  | .max x1 x2 x3 => some (execMax x1 x2 x3)
  | .minu x1 x2 x3 => some (execMinu x1 x2 x3)
  | .maxu x1 x2 x3 => some (execMaxu x1 x2 x3)
  | .mul x1 x2 x3 => some (execMul x1 x2 x3)
  | .mulh x1 x2 x3 => some (execMulh x1 x2 x3)
  | .mulhu x1 x2 x3 => some (execMulhu x1 x2 x3)
  | .divs x1 x2 x3 => some (execDivs x1 x2 x3)
  | .divu x1 x2 x3 => some (execDivu x1 x2 x3)
  | .rems x1 x2 x3 => some (execRems x1 x2 x3)
  | .remu x1 x2 x3 => some (execRemu x1 x2 x3)
  | .addw x1 x2 x3 => some (execAddw x1 x2 x3)
  | .subw x1 x2 x3 => some (execSubw x1 x2 x3)
  | .shlw x1 x2 x3 => some (execShlw x1 x2 x3)
  | .shrw x1 x2 x3 => some (execShrw x1 x2 x3)
  | .bprm x1 x2 x3 => some (execBprm x1 x2 x3)
  | .lea x1 x2 x3 x4 => some (execLea x1 x2 x3 x4)
  | .neg x1 x2 => some (execNeg x1 x2)
  | .abs x1 x2 => some (execAbs x1 x2)
  | .not x1 x2 => some (execNot x1 x2)
  | .clz x1 x2 => some (execClz x1 x2)
  | .ctz x1 x2 => some (execCtz x1 x2)
  | .popc x1 x2 => some (execPopc x1 x2)
  | .brev x1 x2 => some (execBrev x1 x2)
  | .mov x1 x2 => some (execMov x1 x2)
  | .icmp x1 x2 x3 x4 x5 => some (execIcmp x1 x2 x3 x4 x5)
  | .sel x1 x2 x3 x4 x5 => some (execSel x1 x2 x3 x4 x5)
  | .bfx x1 x2 x3 x4 x5 => some (execBfx x1 x2 x3 x4 x5)
  | .bfi x1 x2 x3 x4 => some (execBfi x1 x2 x3 x4)
  | .mad x1 x2 x3 x4 => some (execMad x1 x2 x3 x4)
  | .icmpi x1 x2 x3 x4 => some (execIcmpi x1 x2 x3 x4)
  | .addi x1 x2 x3 => some (execAddi x1 x2 x3)
  | .andi x1 x2 x3 => some (execAndi x1 x2 x3)
  | .ori x1 x2 x3 => some (execOri x1 x2 x3)
  | .xori x1 x2 x3 => some (execXori x1 x2 x3)
  | .shli x1 x2 x3 => some (execShli x1 x2 x3)
  | .shri x1 x2 x3 => some (execShri x1 x2 x3)
  | .sari x1 x2 x3 => some (execSari x1 x2 x3)
  | .moviLo x1 x2 => some (execMoviLo x1 x2)
  | .moviSx x1 x2 => some (execMoviSx x1 x2)
  | .moviHi x1 x2 => some (execMoviHi x1 x2)
  | .fadd x1 x2 x3 x4 => some (execFadd x1 x2 x3 x4)
  | .fsub x1 x2 x3 x4 => some (execFsub x1 x2 x3 x4)
  | .fmul x1 x2 x3 x4 => some (execFmul x1 x2 x3 x4)
  | .fdiv x1 x2 x3 x4 => some (execFdiv x1 x2 x3 x4)
  | .fmin x1 x2 x3 => some (execFmin x1 x2 x3)
  | .fmax x1 x2 x3 => some (execFmax x1 x2 x3)
  | .fcls x1 x2 => some (execFcls x1 x2)
  | .frnd x1 x2 x3 => some (execFrnd x1 x2 x3)
  | .fcmp x1 x2 x3 x4 x5 => some (execFcmp x1 x2 x3 x4 x5)
  | .frcp x1 x2 => some (execFrcp x1 x2)
  | .frsq x1 x2 => some (execFrsq x1 x2)
  | .fsqt x1 x2 => some (execFsqt x1 x2)
  | .fexp x1 x2 => some (execFexp x1 x2)
  | .flog x1 x2 => some (execFlog x1 x2)
  | .fspi x1 x2 => some (execFspi x1 x2)
  | .fcpi x1 x2 => some (execFcpi x1 x2)
  | .ffma x1 x2 x3 x4 => some (execFfma x1 x2 x3 x4)
  | .hadd2 x1 x2 x3 x4 => some (execHadd2 x1 x2 x3 x4)
  | .hsub2 x1 x2 x3 x4 => some (execHsub2 x1 x2 x3 x4)
  | .hmul2 x1 x2 x3 x4 => some (execHmul2 x1 x2 x3 x4)
  | .hmin2 x1 x2 x3 x4 => some (execHmin2 x1 x2 x3 x4)
  | .hmax2 x1 x2 x3 x4 => some (execHmax2 x1 x2 x3 x4)
  | .hfma2F16 x1 x2 x3 x4 => some (execHfma2F16 x1 x2 x3 x4)
  | .hfma2Bf16 x1 x2 x3 x4 => some (execHfma2Bf16 x1 x2 x3 x4)
  | .hcmp2 x1 x2 x3 x4 x5 x6 => some (execHcmp2 x1 x2 x3 x4 x5 x6)
  | .cadd x1 x2 x3 x4 => some (execCadd x1 x2 x3 x4)
  | .csub x1 x2 x3 x4 => some (execCsub x1 x2 x3 x4)
  | .cmul x1 x2 x3 x4 => some (execCmul x1 x2 x3 x4)
  | .cmag x1 x2 x3 => some (execCmag x1 x2 x3)
  | .carg x1 x2 x3 => some (execCarg x1 x2 x3)
  | .cexi x1 x2 x3 => some (execCexi x1 x2 x3)
  | .crot x1 x2 x3 x4 => some (execCrot x1 x2 x3 x4)
  | .cfmaFp16 x1 x2 x3 x4 => some (execCfmaFp16 x1 x2 x3 x4)
  | .cfmaBf16 x1 x2 x3 x4 => some (execCfmaBf16 x1 x2 x3 x4)
  | .cfmaFp32 x1 x2 x3 x4 => some (execCfmaFp32 x1 x2 x3 x4)
  | .twid x1 x2 x3 x4 x5 => some (execTwid x1 x2 x3 x4 x5)
  | .cvt x1 x2 x3 x4 x5 x6 => some (execCvt x1 x2 x3 x4 x5 x6)
  | .qpack x1 x2 x3 x4 x5 => some (execQpack x1 x2 x3 x4 x5)
  | .qunpk x1 x2 x3 x4 x5 => some (execQunpk x1 x2 x3 x4 x5)
  | .qscl x1 x2 x3 x4 x5 => some (execQscl x1 x2 x3 x4 x5)
  | .rng x1 x2 x3 x4 => some (execRng x1 x2 x3 x4)
  | .cbop x1 x2 x3 x4 => some (execCbop x1 x2 x3 x4)
  | .cbmvGet x1 x2 => some (execCbmvGet x1 x2)
  | .cbmvPut x1 x2 => some (execCbmvPut x1 x2)
  | .cbmvGetAll x1 => some (execCbmvGetAll x1)
  | .cbmvPutAll x1 => some (execCbmvPutAll x1)
  | .ldg x1 x2 x3 x4 x5 => some (execLdg x1 x2 x3 x4 x5)
  | .stg x1 x2 x3 x4 x5 => some (execStg x1 x2 x3 x4 x5)
  | .ldl x1 x2 x3 x4 x5 => some (execLdl x1 x2 x3 x4 x5)
  | .stl x1 x2 x3 x4 x5 => some (execStl x1 x2 x3 x4 x5)
  | .ldt x1 x2 x3 x4 x5 x6 => some (execLdt x1 x2 x3 x4 x5 x6)
  | .stt x1 x2 x3 x4 x5 x6 => some (execStt x1 x2 x3 x4 x5 x6)
  | .atom x1 x2 x3 x4 x5 => some (execAtom x1 x2 x3 x4 x5)
  | .atomn x1 x2 x3 x4 => some (execAtomn x1 x2 x3 x4)
  | .cas x1 x2 x3 x4 => some (execCas x1 x2 x3 x4)
  | .pref x1 x2 x3 x4 => some (execPref x1 x2 x3 x4)
  | _ => none

/-- What a word is inside a PEAL. -/
inductive PealKind where
  | run (i : Instr)
  | nested (n : VReg)
  | illegal
  deriving DecidableEq, Repr

/-- The judgement of 02 R42 at a depth: a nested PEAL is permitted at depth 1 alone. -/
def judgeWord (outer : Bool) (w : W32) : PealKind :=
  match decode w with
  | .error _ => .illegal
  | .ok (.peal n) => if outer then .nested n else .illegal
  | .ok i => if (pealWord i).isSome then .run i else .illegal

/-- Words in ascending unsigned order, each once. -/
def insertWord (w : W32) : List W32 → List W32
  | [] => [w]
  | x :: t => if w < x then w :: x :: t else if w = x then x :: t else x :: insertWord w t
def distinctWords (l : List (Nat × W32)) : List W32 := l.foldl (fun acc x => insertWord x.2 acc) []

/-- Each thread's word from a register. -/
def State.wordsIn (s : State) (p : CrewAt) (tids : List Nat) (n : VReg) : List (Nat × W32) :=
  tids.map fun t => (t, ((s.thread? p t).map fun th => th.v n.toNat).getD 0)

def PealKind.legal : PealKind → Bool
  | .illegal => false
  | _ => true
/-- The legal words of threads, as they are to run, and the threads whose word is illegal (02 R43). -/
def pealWords (outer : Bool) (ws : List (Nat × W32)) : List PealWord × List (Nat × W32) :=
  let legal := ws.filter fun x => (judgeWord outer x.2).legal
  ((distinctWords legal).map fun w => ⟨w, (legal.filter fun x => x.2 = w).map Prod.fst, outer, false⟩,
    ws.filter fun x => !(judgeWord outer x.2).legal)

/-- Threads of a word that read a register whose parity check fails take that cause, with the word (11 Table 11.6); the
others. -/
def State.pealParity (s : State) (p : CrewAt) (tids : List Nat) (w : W32) (i : Instr) : List Nat × State :=
  match s.crew? p with
  | none => ([], s)
  | some c =>
    let bad := tids.filter fun t => c.parityBad t i
    (tids.filter fun t => !bad.contains t, s.takeAll p bad (Bad.plain .memoryUncorrectable) w)

/-- A thread of the PEAL that stands at it still. -/
def State.atPeal (s : State) (r : PealRun) (tid : Nat) : Bool :=
  match s.crew? r.place, s.thread? r.place tid with
  | some c, some t => c.has tid && t.wait == .ready && t.pc == r.pc
  | _, _ => false

/-- The PEAL up to its next word to execute: a nested one that is reached gives way to the words of its threads (02
R43). -/
def State.pealAhead : Nat → State → PealRun → PealRun × State
  | 0, s, r => (r, s)
  | k + 1, s, r => match r.todo with
    | [] => (r, s)
    | x :: rest => match judgeWord x.outer x.word with
      | .nested n =>
        let (tids, s) := s.pealParity r.place (x.tids.filter (s.atPeal r)) x.word (.peal n)
        let l := pealWords false (s.wordsIn r.place tids n)
        State.pealAhead k s { r with todo := l.1 ++ rest, illegal := r.illegal ++ l.2 }
      | _ => (r, s)

/-- The threads' timestamps are past every access of the words before (02 R44). -/
def State.joinPts (s : State) (p : CrewAt) (tids : List Nat) (pts : Nat) : State :=
  tids.foldl (fun s t => s.setPts p t pts) s
def State.latestPts (s : State) (p : CrewAt) (tids : List Nat) (pts : Nat) : Nat :=
  tids.foldl (fun n t => max n (((s.thread? p t).map Thread.pts).getD 0)) pts

/-- Threads of a word that wait for the walks of their accesses (08 R181). -/
def State.walkers (s : State) (p : CrewAt) (tids : List Nat) : List Nat :=
  tids.filter fun t => (s.thread? p t).any Thread.walking
/-- The threads for which a word runs: those that stand at the PEAL still, a cause may have parked one meanwhile; and of a
word that is run again once walks are made, those that have waited for one. -/
def State.walked (s : State) (r : PealRun) (x : PealWord) : List Nat :=
  x.tids.filter fun t => s.atPeal r t && (!x.again || (s.thread? r.place t).any fun th => th.missed.isSome)

/-- One word runs for its threads, as an issue group of them (02 R43). Threads whose access waits for a walk run it again
before the next word. -/
def State.runWord (s : State) (r : PealRun) (x : PealWord) : PealRun × State :=
  match judgeWord x.outer x.word with
  | .run i =>
    let (tids, s) := (s.joinPts r.place x.tids r.pts).pealParity r.place (s.walked r x) x.word i
    let s := { s with cur := ⟨r.place, tids, r.pc, x.word, r.pipe, true, r.done⟩ }
    let s := match pealWord i with
      | none => s
      | some f => match f s with
        | .next s => s
        | _ => s
    let late := s.walkers r.place tids
    let s := (tids.filter fun t => !late.contains t).foldl (fun s t => s.modThread r.place t fun th => { th with missed := none }) s
    let todo := if late = [] then r.todo else ⟨x.word, late, x.outer, true⟩ :: r.todo
    ({ r with done := s.cur.done, todo, pts := s.latestPts r.place tids r.pts }, s)
  | _ => (r, s)

def sameRun (r x : PealRun) : Bool := x.pipe == r.pipe && x.place == r.place && x.tids == r.tids
/-- The PEAL holds its pipe and its threads for a further slot (02 R46). -/
def State.holdPeal (s : State) (r : PealRun) : State :=
  let hold (k : Column) : Column := { k with peals := r :: k.peals.filter fun x => !sameRun r x }
  r.tids.foldl (fun s t => s.modThread r.place t fun th => { th with peal := true }) (s.modCol r.place.die r.place.col hold)

/-- The PEAL ends: the threads whose word is illegal take ILLEGAL_PEAL_WORD, in ascending tid (DESIGN CHOICE, log 81), and
those that completed go on (02 R43, R45). -/
def State.endPeal (s : State) (r : PealRun) : State :=
  let drop (k : Column) : Column := { k with peals := k.peals.filter fun x => !sameRun r x }
  let s := r.tids.foldl (fun s t => s.modThread r.place t fun th => { th with peal := false })
    (s.modCol r.place.die r.place.col drop)
  let illegal := (ascending (r.illegal.map Prod.fst)).filterMap fun t => r.illegal.find? fun x => x.1 = t
  let s := illegal.foldl (fun s x => if s.atPeal r x.1 then s.take r.place x.1 (Bad.plain .illegalPealWord) (some x.2) else s) s
  (r.tids.filter fun t => r.done.contains t && s.atPeal r t).foldl (fun s t => s.modThread r.place t Thread.next4) s

/-- One slot of a PEAL (02 R46): its next word, if it has one; with the last it ends. -/
def State.pealSlot (s : State) (r : PealRun) : State :=
  let (r, s) := State.pealAhead (r.todo.length + 1) s r
  match r.todo with
  | [] => s.endPeal r
  | x :: rest =>
    let (r, s) := s.runWord { r with todo := rest } x
    let (r, s) := State.pealAhead (rest.length + 2) s r
    if r.todo = [] then s.endPeal r else s.holdPeal r

/-- A PEAL that starts: the words that its group's threads hold in a register. -/
def State.startPeal (s : State) (n : VReg) : PealRun :=
  let c := s.cur
  let l := pealWords true (s.wordsIn c.place c.tids n)
  { place := c.place, tids := c.tids, pc := c.pc, word := c.word, pipe := c.pipe, todo := l.1, illegal := l.2, done := [], pts := 0 }

/-- PEAL (02 R43 to R46): one slot of the PEAL that the group has begun, or the first of a new one. -/
def execPeal (n : VReg) (s : State) : Host.Outcome State Fault Refusal :=
  let r := (s.pealOf ⟨s.cur.place, s.cur.tids, s.cur.pc, s.cur.pipe⟩).getD (s.startPeal n)
  .next { s.pealSlot r with cur := s.cur }

end Sys2Proof.Machine
end

