-- ==== Sys2Proof/Machine/Power.lean ====
section
/-! DEFINITION. Bring-up (12 R260, R241; 01 R11, R12, R20), fatal errors and the dump (11 R238), the loss of power, and a
frozen die (12 R253). -/

namespace Sys2Proof.Machine

open Sys2Proof

/-- Everything of the module is as at reset; what lies outside it stays, as do the MODEL's own counters (log 1, log 2). -/
def State.restart (s : State) : State :=
  { State.reset with
    hostMem := s.hostMem, replies := s.replies, msiSent := s.msiSent, agenda := s.agenda, oracle := s.oracle
    store := s.store, serial := s.serial }

/-- Without power nothing of the module's state is left (11 R238). -/
def State.powerOff (s : State) : State := { s.restart with power := false }

/-- POWER_LOSS. -/
def execPowerLoss (s : State) : Host.Outcome State Fault Refusal := .next s.powerOff

/-- A die's tcol has exceeded 115 °C, which is 920 eighths, for 1 ms (12 R260). -/
def State.overheated (s : State) (die : Nat) : Bool :=
  decide (920 < (s.die die).tcol.toNat) && (s.die die).hotNs.any fun t => decide (t + 1000000 ≤ s.ns)

/-- THERMAL_SHUTDOWN (12 R260): tcol has exceeded 115 °C for 1 ms; the firmware powers the module down. -/
def execThermalShutdown (die : Nat) (s : State) : Host.Outcome State Fault Refusal :=
  .next (if s.overheated die then s.powerOff else s)

/-! ## Bring-up -/

/-- The columns that pass self-test. -/
def passing (m : BitVec 104) : List Nat := (List.range Config.columns).filter fun c => m.getLsbD c

/-- 96 of the columns that pass, which of them the spec leaves open; all of them when they are fewer (01 R11, R12). -/
def State.chooseColumns (s : State) (pass : BitVec 104) : List Nat × State :=
  let l := passing pass
  if l.length ≤ Config.enabledColumns then (l, s)
  else
    let (m, s) := State.shuffle l.length s l
    (m.take Config.enabledColumns, s)

def maskOf (l : List Nat) : BitVec 104 := l.foldl (fun m c => m ||| BitVec.ofNat 104 (2 ^ c)) 0

/-- A window from a first page to a last one, with permissions, for the core sub-master. -/
def windowOf (lo hi perm : Nat) : W64 × W64 := (BitVec.ofNat 64 lo, BitVec.ofNat 64 (hi / 4096 * 4096 + 0x108 + perm))
def fourWindows (l : List (W64 × W64)) : List (W64 × W64) := (l ++ [(0, 0), (0, 0), (0, 0), (0, 0)]).take 4

/-- What the boot ROM opens to the host function before the link trains (12 R241, Table 12.1). -/
def bootWindows : List ((Nat × Nat) × List (W64 × W64)) :=
  [((1, 119), fourWindows [windowOf 0 0x5FFF 1, windowOf 0x1000 0x3FFF 3, windowOf 0x10000 0x1FFFF 3,
      windowOf 0x1000000 0x11FFFFF 2]),
   ((2, 119), fourWindows [windowOf 0x100000 0x10FFFF 3])]
/-- What the firmware opens to it when bring-up ends: the home slices, the dump region read-only, and the reads of
Table 12.1. -/
def homeWindows (d : Nat) : List ((Nat × Nat) × List (W64 × W64)) :=
  [((0, 119), fourWindows (if d = 0 then
      [windowOf Config.home0 (Config.dumpBase - 1) 3, windowOf Config.dumpBase (Config.homeEnd0 - 1) 1]
      else [windowOf Config.home1 (Config.homeEnd1 - 1) 3])),
   ((3, 119), fourWindows [windowOf 0x8000 0xFFFF 1]), ((4, 119), fourWindows [windowOf 0x6000 0x6FFF 1])]

/-- The bringup register (12 Table 12.2). -/
def bringupWord (code n0 n1 trained : Nat) : W32 :=
  BitVec.ofNat 32 (code + (if n0 < Config.enabledColumns then 4 else 0) + (if n1 < Config.enabledColumns then 8 else 0)
    + (if trained < 4 then 16 else 0) + 256 * n0 + 65536 * n1 + 16777216 * trained)

/-- The boot ROM of a die accepts an image whose signature over its digest verifies against a key of the fused digest (12
R255). -/
def acceptsImage (die : Nat) (f : FirmwareImage) : Bool :=
  digest f.key 64 == Config.fusedDigest die && Config.mlDsaVerifies f.key (digest f.bytes 64) f.signature

/-- The module as the boot ROMs find it: as at reset, with device memory where power was kept (11 R238), and with the
windows of 12 R241. -/
def State.booted (s : State) (b : BringUp) : State :=
  let base := s.restart
  let base := if b.warm then { base with mem := s.mem, poison := s.poison } else base
  { base with
    host := { base.host with rev := b.rev }
    die0 := { base.die0 with access := bootWindows, digest := digest b.image0.bytes 64 }
    die1 := { base.die1 with access := bootWindows, digest := digest b.image1.bytes 64 } }

/-- The rest of bring-up, with the columns chosen of each die. -/
def State.broughtUp (s : State) (l0 l1 : List Nat) (trained : Nat) : State :=
  let ok := trained ≠ 0
  let die (d : Nat) (k : Die) : Die := if ok then { k with access := bootWindows ++ homeWindows d } else k
  let col (k : Column × Nat) : Column := { k.1 with enabled := if k.2 < 104 then l0.contains k.2 else l1.contains (k.2 - 104) }
  { s with
    die0 := die 0 s.die0, die1 := die 1 s.die1, cols := s.cols.zipIdx.map col
    host := { s.host with
      colmask0 := maskOf l0, colmask1 := maskOf l1
      bringup := bringupWord (if ok then 2 else 3) l0.length l1.length trained } }

/-- A reset and its bring-up: a die that rejects its image, and a link of which no module trains, end it with code 3. -/
def State.resetBringUp (s : State) (b : BringUp) : State :=
  let s := s.booted b
  if !acceptsImage 0 b.image0 ∨ !acceptsImage 1 b.image1 then { s with host := { s.host with bringup := 3 } }
  else
    let (l0, s) := s.chooseColumns b.pass0
    let (l1, s) := s.chooseColumns b.pass1
    s.broughtUp l0 l1 (min b.ucieTrained 4)

/-- RESET_BRING_UP (12 R255, R260): a reset, then the parts of bring-up in their order. -/
def execResetBringUp (b : BringUp) (s : State) : Host.Outcome State Fault Refusal := .next (s.resetBringUp b)

/-! ## Fatal errors -/

def fatalCode : FatalCause → Nat
  | .ucieLoss => 1
  | .scheduler => 2
  | .queueManager => 3
  | .accessTable => 4
  | .watchdog => 5

/-- The header of the dump after its magic (11 Table 11.7). -/
def dumpHeader (cause : FatalCause) (die now : Nat) : List W8 :=
  leBytes 4 1 ++ leBytes 4 (fatalCode cause) ++ leBytes 4 die ++ leBytes 8 now ++ zeros 0xFE8

/-- Items of a section, behind their number. -/
def counted (l : List (List W8)) : List W8 := leBytes 4 l.length ++ l.flatten
/-- A section of n bytes. -/
def sectionOf (n : Nat) (l : List W8) : List W8 := (l ++ zeros n).take n

def Denial.toBytes (x : Denial) : List W8 :=
  [BitVec.ofNat 8 x.master, BitVec.ofNat 8 x.sub, BitVec.ofNat 8 x.kind] ++ zeros 5 ++ leBytes 8 x.addr
/-- A die's part of the logs: its corrected counts, its firmware errors, its denial rings. -/
def Die.logBytes (d : Die) : List W8 :=
  d.corrected.flatMap (leBytes 4) ++ counted (d.firmwareLog.map (leBytes 8))
    ++ counted (d.denials.map fun r => leBytes 4 r.1 ++ leBytes 4 r.2.overflow ++ counted (r.2.entries.map Denial.toBytes))

def QRec.toBytes (q : QRec) : List W8 := leBytes 8 q.ns ++ leBytes 8 q.back ++ counted [q.bytes]
def stageBytes (a : StageAt) : List W8 := leBytes 8 a.rcb ++ leBytes 4 a.stage
/-- A stage in the queue manager: its queue, its formed and its saved crews, its start record, its grant, its wait. -/
def Stage.toBytes (t : Stage) (rcb i : Nat) : List W8 :=
  leBytes 8 rcb ++ leBytes 4 i ++ counted (t.queue.map QRec.toBytes)
    ++ counted (t.formed.map fun f => counted (f.records.map QRec.toBytes) ++ counted ((f.second.getD []).map QRec.toBytes))
    ++ counted (t.saved.map fun x => leBytes 8 x.image ++ leBytes 4 x.crew.crewno)
    ++ counted t.start.toList ++ leBytes 16 (t.grant.foldl (fun n c => n ||| 2 ^ c) 0) ++ counted (t.waiting.toList.map (leBytes 8))
/-- A die's queue manager and scheduler: its stages, its range units, the records that wait and those in transit to it, the
stage served last, the crews chosen to be saved and for whom; the kill marks, the tickets that stand, and of die 0 the
packet in progress. -/
def State.qmBytes (s : State) (die : Nat) : List W8 :=
  let stages := s.regions.flatMap fun r => (r.stages.zipIdx.filter fun t => (t.1.desc.map StageDesc.die) = some die).map
    fun t => t.1.toBytes r.rcb t.2
  let k := s.die die
  counted stages
    ++ counted (k.ranges.map fun r => leBytes 4 r.1 ++ leBytes 8 r.2.stage.rcb ++ leBytes 4 r.2.stage.stage ++ bytes32 r.2.next
        ++ bytes32 r.2.remaining)
    ++ counted ((s.outgoing.filter fun o => o.die = die).map Outgoing.bytes)
    ++ counted (k.lastServed.toList.map stageBytes)
    ++ counted ((s.transit.filter fun x => (s.desc x.stage).die = die).map fun x => stageBytes x.stage ++ counted [x.bytes])
    ++ counted ((s.victims.filter fun p => p.die = die).map fun p => [BitVec.ofNat 8 p.col, BitVec.ofNat 8 p.slot])
    ++ counted ((s.targets.filter fun x => (s.desc x.1).die = die).map fun x => stageBytes x.1 ++ leBytes 4 x.2)
    ++ counted (s.kills.map (leBytes 8))
    ++ counted (s.tickets.map fun t => bytes32 t.ticket ++ leBytes 8 t.rcb ++ [BitVec.ofNat 8 t.rkind, BitVec.ofNat 8 t.tid])
    ++ (if die = 0 then counted (s.launching.toList.map fun l => stageBytes l.at_ ++ counted l.records ++ leBytes 8 l.done
        ++ leBytes 4 l.flags) else [])

def TlbEntry.toBytes (e : TlbEntry) : List W8 := leBytes 8 e.va ++ leBytes 4 e.bits ++ leBytes 4 e.level ++ leBytes 8 e.pa ++ bytes64 e.leaf
/-- The entries of a crew's threads in the PC table, ready or not (02 R24). -/
def Crew.tableBytes (c : Crew) : List (List W8) :=
  c.tidsPresent.filterMap fun i => (c.threads[i]?).map fun t => bytes64 t.pc ++ [BitVec.ofNat 8 c.place.slot, BitVec.ofNat 8 i,
    BitVec.ofNat 8 ((!t.aged).toNat + 2 * t.tag.toNat + 4 * (c.issuable t).toNat)] ++ leBytes 4 t.age
/-- A column: its PC table, its crew table, its engines' queues, its TLB. -/
def State.columnBytes (s : State) (die col : Nat) : List W8 :=
  let k := s.col die col
  counted ((s.onColumn die col).flatMap Crew.tableBytes)
    ++ counted ((s.onColumn die col).map fun c => leBytes 4 c.place.slot ++ leBytes 8 c.at_.rcb ++ leBytes 4 c.at_.stage
        ++ leBytes 4 c.crewno ++ bytes32 c.present)
    ++ counted (k.transfers.map fun t => leBytes 8 t.tag ++ leBytes 8 t.region ++ leBytes 8 t.written)
    ++ counted (k.ops.map fun o => leBytes 8 o.id ++ bytes64 o.pc)
    ++ counted (k.ff.map fun r => leBytes 8 r.tag ++ leBytes 4 r.tid)
    ++ counted (k.l1.map TlbEntry.toBytes)

/-- The sections of the dump after its header (11 Table 11.7), each with what the State holds of it; how they lay it out
inside is the model's (DESIGN CHOICE, log 67). -/
def State.dumpBody (s : State) : List W8 :=
  sectionOf 0xFF000 (s.die0.logBytes ++ s.die1.logBytes)
    ++ sectionOf 0x800000 (s.qmBytes 0) ++ sectionOf 0x800000 (s.qmBytes 1)
    ++ ((List.range 208).flatMap fun i => sectionOf 0x80000 (s.columnBytes (i / 104) (i % 104)))
    ++ sectionOf 0x100000 (s.regRead 0 0x800000 0x1C000) ++ sectionOf 0x100000 (s.regRead 1 0x800000 0x1C000)

/-- FATAL_DUMP (11 R238): the header but its magic, the sections, the rest of the region, and the magic last. -/
def State.dump (s : State) (cause : FatalCause) (die : Nat) : State :=
  let s := s.storeBytes .dev (Config.dumpBase + 4) (dumpHeader cause die s.ns ++ s.dumpBody ++ zeros 0x8500000)
  let s := s.storeBytes .dev Config.dumpBase (leBytes 4 0x4446564F)
  { s with poison := s.poison.filter fun p => !(Config.dumpBase ≤ 128 * p.1 && 128 * p.1 < Config.homeEnd0) }

/-- FATAL_ERROR (11 R238): no core issues any more, the message is raised, and the dump is written. Only a reset ends
it. -/
def execFatalError (cause : FatalCause) (die : Nat) (s : State) : Host.Outcome State Fault Refusal :=
  if s.fatal.isSome then .next s
  else .next ({ s with fatal := some (cause, die), pending := [] }.sendMsi 5 |>.dump cause die)

/-! ## Frozen dies -/

/-- DIE_FREEZE (12 R253): 4 ms have passed without a restart of the die's watchdog. -/
def execDieFreeze (die : Nat) (s : State) : Host.Outcome State Fault Refusal :=
  if (s.die die).frozen then .next s
  else .next ((s.modDie die fun d => { d with frozen := true }).sendMsi 4)

end Sys2Proof.Machine
end

