-- ==== Sys2Proof/Machine/Reliability.lean ====
section
/-! DEFINITION. A hung matrix engine (11 R231), thermal migration (11 R232), column fencing (11 R233, R234) and the scrub
of the remap table (11 R235). -/

namespace Sys2Proof.Machine

open Sys2Proof

/-! ## Matrix-engine hang -/

/-- The crew names a tile, holds a reservation or is a twin. -/
def Crew.usesEngine (c : Crew) : Bool := !c.tiles.isEmpty || (c.ob.any Option.isSome) || c.twin.isSome

/-- Its tiles as MZRO with FA48 leaves them, on the matrix side; no range; a split twin register; no signer. -/
def Crew.clearEngine (c : Crew) : Crew :=
  { c with
    tiles := c.tiles.map fun _ => ⟨[], false, false, false⟩, ob := c.ob.map fun _ => none, bound := false, held := []
    cv := c.cv.map fun v => { v with signed := 0, pc := none } }

/-- The word of the crew-wide instruction at which a thread waits. -/
def waitWord (t : Thread) : Option W32 :=
  match t.wait with
  | .convergence _ w => some w
  | _ => none

/-- Every present thread takes a cause where it stands. -/
def State.everyThread (s : State) (c : Crew) (cause : Cause) : State :=
  c.tidsPresent.foldl (fun s t => s.fault c.place t (Bad.plain cause) ((c.threads[t]?).bind waitWord)) s

/-- One affected crew. -/
def State.resetCrew (s : State) (c : Crew) : State :=
  if (s.crewByUid? c.uid).isNone then s
  else
    let s := (s.stopTransfers c Transfer.isMatrix).stopDrains c
    let s := s.modCol c.place.die c.place.col fun k => { k with ops := k.ops.filter fun (o : MatOp) => o.uid ≠ c.uid }
    let s := (s.modCrew c.place Crew.clearEngine)
    if (s.eff c.at_.rcb).restartable ∧ c.phase ≠ .ended then s.restartAll (s.nowOf c) else s.everyThread c .matrixEngineReset

/-- MATRIX_ENGINE_HANG (11 R231): an engine with an operation that is without progress for 2^20 cycles is reset alone. -/
def execMatrixEngineHang (die col : Nat) (s : State) : Host.Outcome State Fault Refusal :=
  if !(s.col die col).hung then .next s
  else
    let s := s.modCol die col fun k => { k with resetting := true, hang := 0 }
    .next (((s.onColumn die col).filter Crew.usesEngine).foldl State.resetCrew s)

/-- MATRIX_ENGINE_RESET_COMPLETE (11 R231): the convergence sets that completed during the reset go on. -/
def execMatrixEngineResetComplete (die col : Nat) (s : State) : Host.Outcome State Fault Refusal :=
  if !(s.col die col).resetting then .next s
  else .next (s.modCol die col fun k => { k with resetting := false }).retrySets

/-! ## Thermal migration -/

/-- The column has reached its thermal limit: vector 6, once (12 R242, R260). -/
def State.markHot (s : State) (die col : Nat) : State :=
  if (s.col die col).hot then s else (s.modCol die col fun k => { k with hot := true }).sendMsi 6

/-- What moves with crews: the old column's scratchpad when its owner's last resident crews leave (11 R232 step 3). -/
def State.scratchMoves (s : State) (die col : Nat) (cs : List Crew) : Option Nat :=
  match (s.col die col).owner with
  | none => none
  | some r => if cs.any fun c => c.at_.rcb = r then some r else none

/-- The crews may move: to another column of their die that has room, with images to be saved to, and with a column that
can take the scratchpad where that moves. -/
def State.mayMove (s : State) (cs : List Crew) (die col toCol : Nat) : Bool :=
  let places := cs.map Crew.place
  let left := s.without places
  let new := s.col die toCol
  decide (toCol ≠ col) && s.usable die toCol && (match cs with
    | [] => false
    | c :: _ => left.fits (s.desc c.at_) cs.length (left.onColumn die toCol) && left.operandRoom die toCol cs
        && left.mayHave die c.at_.rcb [] toCol)
    && cs.all (fun c => match (s.saveEntry c).1 with
      | .ok a => a ≠ 0
      | .error _ => false)
    && (match s.scratchMoves die col cs with
      | none => true
      | some r => !((left.onColumn die col).any fun c => c.at_.rcb = r) && new.count == 0 && new.owner.isNone)

/-- A thread on a new column fetches anew; what it waited for in the old column's own units it asks for again; one that
yielded goes on at once (17 R389). -/
def moveThread (t : Thread) : Thread :=
  let t := { t with next := none, fbuf := none, missed := none }
  match t.wait with
  | .fetch | .walk _ _ _ _ | .copySlot _ _ _ | .lutSlot _ _ _ | .ffQueue _ | .yield _ => retry t
  | _ => t

/-- The scratchpad of the old column is the new one's, which is reefed to its count; the old ways are cache again. -/
def State.moveScratch (s : State) (die col toCol owner : Nat) : State :=
  let k := s.col die col
  let s := s.setCount die toCol k.count (some owner)
  let s := s.modCol die toCol fun x => { x with scratch := k.scratch, empty := k.empty }
  let move (x : Damage) : Damage := match x with
    | .scr d c l => if d = die ∧ c = col then .scr d toCol l else x
    | _ => x
  { s with damage := s.damage.map move }.setCount die col 0 none

/-- Crews leave a column for slots of another (11 R232 steps 3 and 4): crew numbers stay, LUT tags clear. -/
def State.moveCrews (s : State) (cs : List Crew) (die col toCol : Nat) : State :=
  let free := freeSlots (s.onColumn die toCol)
  let (slots, s) := State.shuffle free.length s free
  let pairs := cs.zip slots
  let newPlace (p : CrewAt) : CrewAt := match pairs.find? fun x => x.1.place = p with
    | some x => ⟨die, toCol, x.2⟩
    | none => p
  let moved := cs.map Crew.place
  let upd (c : Crew) : Crew :=
    if moved.contains c.place then
      { c with place := newPlace c.place, twin := c.twin.map newPlace, phase := .running, threads := c.threads.map moveThread }
    else c
  let uids := cs.map Crew.uid
  let scr := s.scratchMoves die col cs
  let s := s.modCol die col fun k => { k with luts := k.luts.map fun (l : LutSlot) =>
    if (l.owner.any fun u => uids.contains u) then { l with owner := none } else l }
  let s : State := { s with crews := s.crews.map upd, victims := s.victims.filter fun p => !moved.contains p }
  let s := match scr with
    | some r => s.moveScratch die col toCol r
    | none => s
  s.modCol die col fun k => { k with hot := false }

/-- THERMAL_MIGRATION (11 R232): the next of its parts that can happen: the crew, with its twin, is sealed for the
move; or, drained, it moves, unless the column has no room any more. -/
def execThermalMigration (p : CrewAt) (toCol : Nat) (s : State) : Host.Outcome State Fault Refusal :=
  match s.crew? p with
  | none => .next s
  | some c =>
    let cs := s.withTwin c
    match c.phase with
    | .running =>
      let s := s.markHot p.die p.col
      let ok := cs.all s.sealable && !(s.col p.die p.col).fenced && s.mayMove cs p.die p.col toCol
      if !ok then .next s
      else .next (cs.foldl (fun s c =>
        (s.sealCrew .migration c).modCrew c.place fun c => { c with phase := .moving toCol }) s)
    | .moving to_ =>
      if !cs.all s.drained then .next s
      else if s.mayMove cs p.die p.col to_ then .next (s.moveCrews cs p.die p.col to_)
      else .next (s.abandonMove c)
    | _ => .next s

/-! ## Column fencing -/

/-- Every line of a bank leaves the stacked cache; those of its dirty lines that do not read back poison their home lines
(11 R234). -/
def State.dropBank (s : State) (die bank : Nat) (badLines : List Nat) : State :=
  let bad := ((s.die die).stack.filter fun x => x.bank = bank ∧ x.dirty ∧ badLines.contains x.line).map StackLine.line
  let s := s.modDie die fun d => d.clearWays bank (List.range 16)
  { s with poison := bad.map (fun l => (l, [])) ++ s.poison.filter fun p => !bad.contains p.1 }

/-- A thread whose SCWAY or SCFL the bank no longer serves. -/
def unreef (t : Thread) : Thread :=
  match t.wait with
  | .reef _ => retry t
  | _ => t

/-- A prologue that a fencing ends: its aborted copies are binding errors, and so is a binding that can no more be made
(03 R62). -/
def Crew.unbound (c : Crew) : Crew :=
  { (if c.bindErr.isSome then c else c.bindFails ⟨c.bindNext / 32, c.bindNext % 32, .columnFenced, 0, 0, 0⟩) with bindPage := none }

/-- The copies, fills and drains of a crew of a fenced column abort; its RASTs land before it is sealed (11 R233, 03 R71,
17 R362; log 66). -/
def State.fenceWork (s : State) (c : Crew) : State := (s.stopTransfers c fun t => !t.isRaster).stopDrains c

/-- One crew of a fenced column (11 R233), once no copy, fill or drain of the column's crews is left: a restartable crew is
restarted; another will be saved, but for one whose prologue is not complete, which has a binding error. -/
def State.fenceCrew (s : State) (c : Crew) : State :=
  if (s.crewByUid? c.uid).isNone then s
  else
    let s := s.modCrew c.place fun k => { k with threads := k.threads.map unreef }
    let c := s.nowOf c
    if c.phase = .ended then s
    else if (s.eff c.at_.rcb).restartable then s.restartTold c
    else match c.phase with
      | .placed =>
        if s.prologueDone c ∧ c.bindErr.isNone then s.modCrew c.place fun k => { k with phase := .running }
        else s.modCrew c.place Crew.unbound
      | .sealed _ _ => s.modCrew c.place fun k => { k with phase := .sealed .fencing s.ns }
      | _ => s.modCrew c.place fun k => { k with phase := .running }

/-- A column goes out of service. -/
def State.fenceColumn (s : State) (die col : Nat) (info : FenceInfo) : State :=
  let k := s.col die col
  if !k.enabled ∨ k.fenced then s
  else
    let out (k : Column) : Column :=
      { k with fenced := true, unreadable := decide (k.count ≠ 0) && !info.scratchReadable, icache := [], l1 := [],
               copies := [], reefs := [] }
    let s := s.modCol die col out
    let s := s.modDie die fun d => { d with fenced := d.fenced ++ [col] }
    let s := s.dropBank die col info.badLines
    let s : State := { s with
      pending := s.pending.filter fun g => !(g.place.die == die && g.place.col == col)
      victims := s.victims.filter fun p => !(p.die == die && p.col == col) }
    let cs := s.onColumn die col
    cs.foldl State.fenceCrew (cs.foldl State.fenceWork s)

/-- COLUMN_FENCE (11 R233). -/
def execColumnFence (die col : Nat) (info : FenceInfo) (s : State) : Host.Outcome State Fault Refusal :=
  .next (s.fenceColumn die col info)

/-! ## Remap table -/

/-- Which dirty lines of a bank read back correctly is not known before: any of them may not. -/
def State.pickLines (s : State) : List Nat → List Nat × State
  | [] => ([], s)
  | l :: t =>
    let (i, s) := s.pick 2
    let (r, s) := s.pickLines t
    (if i = 1 then l :: r else r, s)

/-- The entry of a bank is good in both copies, as its scrub has left it; with no other that is not, the scrub of the
table is complete. -/
def Die.scrubbed (bank now : Nat) (d : Die) : Die :=
  let rest := d.remap.filter fun x => x.1 ≠ bank
  { d with remap := rest, scrubNs := if rest = [] then now else d.scrubNs }

/-- REMAP_SCRUB (11 R235): an entry that one copy can give is written to both; one that neither can fences the column of
its bank. -/
def execRemapScrub (die bank : Nat) (upper lower : RemapCheck) (s : State) : Host.Outcome State Fault Refusal :=
  let s := s.modDie die (Die.scrubbed bank s.ns)
  if upper = .uncorrectable ∧ lower = .uncorrectable then
    let (ls, s) := s.pickLines (((s.die die).stack.filter fun x => x.bank = bank ∧ x.dirty).map StackLine.line)
    let (i, s) := s.pick 2
    .next (s.fenceColumn die bank ⟨.remap, i = 1, ls⟩)
  else .next s

end Sys2Proof.Machine
end

