-- ==== Sys2Proof/Machine/Uniform.lean ====
section
/-! DEFINITION. The uniform instructions (02 R32; 17 R380 to R385): one result for the crew's g registers. ULD stands with
the memory instructions. -/

namespace Sys2Proof.Machine

open Sys2Proof

/-- A uniform result goes to G(D); every thread of the group goes on. -/
def State.uniform (s : State) (d : GReg) (f : Crew → W32) : Host.Outcome State Fault Refusal :=
  match s.crew? s.cur.place with
  | none => .next s
  | some c => .next ((s.modCrew s.cur.place fun k => { k with g := k.g.set d.toNat (f c) }).inOrder State.finish)

def State.uniform2 (s : State) (f : W32 → W32 → W32) (d : GReg) (a b : Src6) : Host.Outcome State Fault Refusal :=
  s.uniform d fun c => f (src6 c a) (src6 c b)

/-- UADD (17 Table 17.8). -/
def execUadd (d : GReg) (a b : Src6) (s : State) : Host.Outcome State Fault Refusal :=
  s.uniform2 (fun a b => a + b) d a b

/-- USUB (17 Table 17.8). -/
def execUsub (d : GReg) (a b : Src6) (s : State) : Host.Outcome State Fault Refusal :=
  s.uniform2 (fun a b => a - b) d a b

/-- UAND (17 Table 17.8). -/
def execUand (d : GReg) (a b : Src6) (s : State) : Host.Outcome State Fault Refusal :=
  s.uniform2 (fun a b => a &&& b) d a b

/-- UOR (17 Table 17.8). -/
def execUor (d : GReg) (a b : Src6) (s : State) : Host.Outcome State Fault Refusal :=
  s.uniform2 (fun a b => a ||| b) d a b

/-- UXOR (17 Table 17.8). -/
def execUxor (d : GReg) (a b : Src6) (s : State) : Host.Outcome State Fault Refusal :=
  s.uniform2 (fun a b => a ^^^ b) d a b

/-- USHL (17 Table 17.8). -/
def execUshl (d : GReg) (a b : Src6) (s : State) : Host.Outcome State Fault Refusal :=
  s.uniform2 (shlW) d a b

/-- USHR (17 Table 17.8). -/
def execUshr (d : GReg) (a b : Src6) (s : State) : Host.Outcome State Fault Refusal :=
  s.uniform2 (shrW) d a b

/-- USAR (17 Table 17.8). -/
def execUsar (d : GReg) (a b : Src6) (s : State) : Host.Outcome State Fault Refusal :=
  s.uniform2 (sarW) d a b

/-- UMUL (17 Table 17.8). -/
def execUmul (d : GReg) (a b : Src6) (s : State) : Host.Outcome State Fault Refusal :=
  s.uniform2 (fun a b => a * b) d a b

/-- UMIN (17 Table 17.8). -/
def execUmin (d : GReg) (a b : Src6) (s : State) : Host.Outcome State Fault Refusal :=
  s.uniform2 (minW) d a b

/-- UMAX (17 Table 17.8). -/
def execUmax (d : GReg) (a b : Src6) (s : State) : Host.Outcome State Fault Refusal :=
  s.uniform2 (maxW) d a b

/-- UMOV (17 Table 17.8). -/
def execUmov (d : GReg) (a : Src6) (s : State) : Host.Outcome State Fault Refusal := s.uniform d fun c => src6 c a

/-- ULEA (17 Table 17.8). -/
def execUlea (d : GReg) (a b : Src6) (n : BitVec 2) (s : State) : Host.Outcome State Fault Refusal :=
  s.uniform2 (leaW n.toNat) d a b

/-- UCMP (17 Table 17.8). -/
def execUcmp (cc : Cc) (d : GReg) (a b : Src6) (s : State) : Host.Outcome State Fault Refusal :=
  s.uniform2 (fun a b => if ccHolds cc a b then 1 else 0) d a b

/-- USEL (17 Table 17.8): G(D) is read before it is written. -/
def execUsel (d : GReg) (a b : Src6) (s : State) : Host.Outcome State Fault Refusal :=
  s.uniform d fun c => if c.g' d.toNat ≠ 0 then src6 c a else src6 c b

/-- UMOVI.lo (17 R383). -/
def execUmoviLo (d : GReg) (imm : W16) (s : State) : Host.Outcome State Fault Refusal :=
  s.uniform d fun _ => imm.setWidth 32
/-- UMOVI.sx (17 R383). -/
def execUmoviSx (d : GReg) (imm : W16) (s : State) : Host.Outcome State Fault Refusal :=
  s.uniform d fun _ => imm.signExtend 32
/-- UMOVI.hi (17 R383): the low half stays. -/
def execUmoviHi (d : GReg) (imm : W16) (s : State) : Host.Outcome State Fault Refusal :=
  s.uniform d fun c => hiW imm (c.g' d.toNat)

end Sys2Proof.Machine
end

