-- ==== Sys2Proof/Machine/Dispatch.lean ====
section
/-! DEFINITION. The meaning of each instruction and each step: one arm for each constructor of Instr. -/

namespace Sys2Proof.Machine

open Sys2Proof

def exec (i : Instr) (s : State) : Host.Outcome State Fault Refusal :=
  match i with
  | .movs x1 x2 => Sys2Proof.Machine.execMovs x1 x2 s
  | .movt x1 x2 => Sys2Proof.Machine.execMovt x1 x2 s
  | .scway x1 => Sys2Proof.Machine.execScway x1 s
  | .scfl x1 => Sys2Proof.Machine.execScfl x1 s
  | .scwayComplete x1 x2 => Sys2Proof.Machine.execScwayComplete x1 x2 s
  | .scflComplete x1 x2 => Sys2Proof.Machine.execScflComplete x1 x2 s
  | .trap x1 => Sys2Proof.Machine.execTrap x1 s
  | .eret x1 => Sys2Proof.Machine.execEret x1 s
  | .brk x1 => Sys2Proof.Machine.execBrk x1 s
  | .add x1 x2 x3 => Sys2Proof.Machine.execAdd x1 x2 x3 s
  | .addc x1 x2 x3 => Sys2Proof.Machine.execAddc x1 x2 x3 s
  | .sub x1 x2 x3 => Sys2Proof.Machine.execSub x1 x2 x3 s
  | .subb x1 x2 x3 => Sys2Proof.Machine.execSubb x1 x2 x3 s
  | .and x1 x2 x3 => Sys2Proof.Machine.execAnd x1 x2 x3 s
  | .or x1 x2 x3 => Sys2Proof.Machine.execOr x1 x2 x3 s
  | .xor x1 x2 x3 => Sys2Proof.Machine.execXor x1 x2 x3 s
  | .andn x1 x2 x3 => Sys2Proof.Machine.execAndn x1 x2 x3 s
  | .shl x1 x2 x3 => Sys2Proof.Machine.execShl x1 x2 x3 s
  | .shr x1 x2 x3 => Sys2Proof.Machine.execShr x1 x2 x3 s
  | .sar x1 x2 x3 => Sys2Proof.Machine.execSar x1 x2 x3 s
  | .rotl x1 x2 x3 => Sys2Proof.Machine.execRotl x1 x2 x3 s
  | .min x1 x2 x3 => Sys2Proof.Machine.execMin x1 x2 x3 s
  | .max x1 x2 x3 => Sys2Proof.Machine.execMax x1 x2 x3 s
  | .minu x1 x2 x3 => Sys2Proof.Machine.execMinu x1 x2 x3 s
  | .maxu x1 x2 x3 => Sys2Proof.Machine.execMaxu x1 x2 x3 s
  | .mul x1 x2 x3 => Sys2Proof.Machine.execMul x1 x2 x3 s
  | .mulh x1 x2 x3 => Sys2Proof.Machine.execMulh x1 x2 x3 s
  | .mulhu x1 x2 x3 => Sys2Proof.Machine.execMulhu x1 x2 x3 s
  | .divs x1 x2 x3 => Sys2Proof.Machine.execDivs x1 x2 x3 s
  | .divu x1 x2 x3 => Sys2Proof.Machine.execDivu x1 x2 x3 s
  | .rems x1 x2 x3 => Sys2Proof.Machine.execRems x1 x2 x3 s
  | .remu x1 x2 x3 => Sys2Proof.Machine.execRemu x1 x2 x3 s
  | .addw x1 x2 x3 => Sys2Proof.Machine.execAddw x1 x2 x3 s
  | .subw x1 x2 x3 => Sys2Proof.Machine.execSubw x1 x2 x3 s
  | .shlw x1 x2 x3 => Sys2Proof.Machine.execShlw x1 x2 x3 s
  | .shrw x1 x2 x3 => Sys2Proof.Machine.execShrw x1 x2 x3 s
  | .bprm x1 x2 x3 => Sys2Proof.Machine.execBprm x1 x2 x3 s
  | .lea x1 x2 x3 x4 => Sys2Proof.Machine.execLea x1 x2 x3 x4 s
  | .neg x1 x2 => Sys2Proof.Machine.execNeg x1 x2 s
  | .abs x1 x2 => Sys2Proof.Machine.execAbs x1 x2 s
  | .not x1 x2 => Sys2Proof.Machine.execNot x1 x2 s
  | .clz x1 x2 => Sys2Proof.Machine.execClz x1 x2 s
  | .ctz x1 x2 => Sys2Proof.Machine.execCtz x1 x2 s
  | .popc x1 x2 => Sys2Proof.Machine.execPopc x1 x2 s
  | .brev x1 x2 => Sys2Proof.Machine.execBrev x1 x2 s
  | .mov x1 x2 => Sys2Proof.Machine.execMov x1 x2 s
  | .icmp x1 x2 x3 x4 x5 => Sys2Proof.Machine.execIcmp x1 x2 x3 x4 x5 s
  | .sel x1 x2 x3 x4 x5 => Sys2Proof.Machine.execSel x1 x2 x3 x4 x5 s
  | .bfx x1 x2 x3 x4 x5 => Sys2Proof.Machine.execBfx x1 x2 x3 x4 x5 s
  | .bfi x1 x2 x3 x4 => Sys2Proof.Machine.execBfi x1 x2 x3 x4 s
  | .mad x1 x2 x3 x4 => Sys2Proof.Machine.execMad x1 x2 x3 x4 s
  | .icmpi x1 x2 x3 x4 => Sys2Proof.Machine.execIcmpi x1 x2 x3 x4 s
  | .addi x1 x2 x3 => Sys2Proof.Machine.execAddi x1 x2 x3 s
  | .andi x1 x2 x3 => Sys2Proof.Machine.execAndi x1 x2 x3 s
  | .ori x1 x2 x3 => Sys2Proof.Machine.execOri x1 x2 x3 s
  | .xori x1 x2 x3 => Sys2Proof.Machine.execXori x1 x2 x3 s
  | .shli x1 x2 x3 => Sys2Proof.Machine.execShli x1 x2 x3 s
  | .shri x1 x2 x3 => Sys2Proof.Machine.execShri x1 x2 x3 s
  | .sari x1 x2 x3 => Sys2Proof.Machine.execSari x1 x2 x3 s
  | .moviLo x1 x2 => Sys2Proof.Machine.execMoviLo x1 x2 s
  | .moviSx x1 x2 => Sys2Proof.Machine.execMoviSx x1 x2 s
  | .moviHi x1 x2 => Sys2Proof.Machine.execMoviHi x1 x2 s
  | .fadd x1 x2 x3 x4 => Sys2Proof.Machine.execFadd x1 x2 x3 x4 s
  | .fsub x1 x2 x3 x4 => Sys2Proof.Machine.execFsub x1 x2 x3 x4 s
  | .fmul x1 x2 x3 x4 => Sys2Proof.Machine.execFmul x1 x2 x3 x4 s
  | .fdiv x1 x2 x3 x4 => Sys2Proof.Machine.execFdiv x1 x2 x3 x4 s
  | .fmin x1 x2 x3 => Sys2Proof.Machine.execFmin x1 x2 x3 s
  | .fmax x1 x2 x3 => Sys2Proof.Machine.execFmax x1 x2 x3 s
  | .fcls x1 x2 => Sys2Proof.Machine.execFcls x1 x2 s
  | .frnd x1 x2 x3 => Sys2Proof.Machine.execFrnd x1 x2 x3 s
  | .fcmp x1 x2 x3 x4 x5 => Sys2Proof.Machine.execFcmp x1 x2 x3 x4 x5 s
  | .frcp x1 x2 => Sys2Proof.Machine.execFrcp x1 x2 s
  | .frsq x1 x2 => Sys2Proof.Machine.execFrsq x1 x2 s
  | .fsqt x1 x2 => Sys2Proof.Machine.execFsqt x1 x2 s
  | .fexp x1 x2 => Sys2Proof.Machine.execFexp x1 x2 s
  | .flog x1 x2 => Sys2Proof.Machine.execFlog x1 x2 s
  | .fspi x1 x2 => Sys2Proof.Machine.execFspi x1 x2 s
  | .fcpi x1 x2 => Sys2Proof.Machine.execFcpi x1 x2 s
  | .ffma x1 x2 x3 x4 => Sys2Proof.Machine.execFfma x1 x2 x3 x4 s
  | .hadd2 x1 x2 x3 x4 => Sys2Proof.Machine.execHadd2 x1 x2 x3 x4 s
  | .hsub2 x1 x2 x3 x4 => Sys2Proof.Machine.execHsub2 x1 x2 x3 x4 s
  | .hmul2 x1 x2 x3 x4 => Sys2Proof.Machine.execHmul2 x1 x2 x3 x4 s
  | .hmin2 x1 x2 x3 x4 => Sys2Proof.Machine.execHmin2 x1 x2 x3 x4 s
  | .hmax2 x1 x2 x3 x4 => Sys2Proof.Machine.execHmax2 x1 x2 x3 x4 s
  | .hfma2F16 x1 x2 x3 x4 => Sys2Proof.Machine.execHfma2F16 x1 x2 x3 x4 s
  | .hfma2Bf16 x1 x2 x3 x4 => Sys2Proof.Machine.execHfma2Bf16 x1 x2 x3 x4 s
  | .hcmp2 x1 x2 x3 x4 x5 x6 => Sys2Proof.Machine.execHcmp2 x1 x2 x3 x4 x5 x6 s
  | .cadd x1 x2 x3 x4 => Sys2Proof.Machine.execCadd x1 x2 x3 x4 s
  | .csub x1 x2 x3 x4 => Sys2Proof.Machine.execCsub x1 x2 x3 x4 s
  | .cmul x1 x2 x3 x4 => Sys2Proof.Machine.execCmul x1 x2 x3 x4 s
  | .cmag x1 x2 x3 => Sys2Proof.Machine.execCmag x1 x2 x3 s
  | .carg x1 x2 x3 => Sys2Proof.Machine.execCarg x1 x2 x3 s
  | .cexi x1 x2 x3 => Sys2Proof.Machine.execCexi x1 x2 x3 s
  | .crot x1 x2 x3 x4 => Sys2Proof.Machine.execCrot x1 x2 x3 x4 s
  | .cfmaFp16 x1 x2 x3 x4 => Sys2Proof.Machine.execCfmaFp16 x1 x2 x3 x4 s
  | .cfmaBf16 x1 x2 x3 x4 => Sys2Proof.Machine.execCfmaBf16 x1 x2 x3 x4 s
  | .cfmaFp32 x1 x2 x3 x4 => Sys2Proof.Machine.execCfmaFp32 x1 x2 x3 x4 s
  | .twid x1 x2 x3 x4 x5 => Sys2Proof.Machine.execTwid x1 x2 x3 x4 x5 s
  | .bfly x1 x2 x3 x4 x5 => Sys2Proof.Machine.execBfly x1 x2 x3 x4 x5 s
  | .shufIdx x1 x2 x3 => Sys2Proof.Machine.execShufIdx x1 x2 x3 s
  | .shufXor x1 x2 x3 => Sys2Proof.Machine.execShufXor x1 x2 x3 s
  | .shufUp x1 x2 x3 => Sys2Proof.Machine.execShufUp x1 x2 x3 s
  | .shufDown x1 x2 x3 => Sys2Proof.Machine.execShufDown x1 x2 x3 s
  | .voteAll x1 x2 => Sys2Proof.Machine.execVoteAll x1 x2 s
  | .voteAny x1 x2 => Sys2Proof.Machine.execVoteAny x1 x2 s
  | .voteBallot x1 x2 => Sys2Proof.Machine.execVoteBallot x1 x2 s
  | .xcopy x1 x2 x3 x4 x5 x6 => Sys2Proof.Machine.execXcopy x1 x2 x3 x4 x5 x6 s
  | .xlut x1 x2 x3 => Sys2Proof.Machine.execXlut x1 x2 x3 s
  | .obres x1 x2 x3 => Sys2Proof.Machine.execObres x1 x2 x3 s
  | .obrel x1 x2 => Sys2Proof.Machine.execObrel x1 x2 s
  | .obld x1 x2 x3 x4 => Sys2Proof.Machine.execObld x1 x2 x3 x4 s
  | .obgat x1 x2 x3 x4 => Sys2Proof.Machine.execObgat x1 x2 x3 x4 s
  | .mma x1 x2 x3 x4 => Sys2Proof.Machine.execMma x1 x2 x3 x4 s
  | .mmac x1 x2 x3 x4 => Sys2Proof.Machine.execMmac x1 x2 x3 x4 s
  | .mdft x1 x2 x3 x4 x5 => Sys2Proof.Machine.execMdft x1 x2 x3 x4 x5 s
  | .mdrn x1 x2 x3 => Sys2Proof.Machine.execMdrn x1 x2 x3 s
  | .mzro x1 x2 x3 => Sys2Proof.Machine.execMzro x1 x2 x3 s
  | .cvt x1 x2 x3 x4 x5 x6 => Sys2Proof.Machine.execCvt x1 x2 x3 x4 x5 x6 s
  | .qpack x1 x2 x3 x4 x5 => Sys2Proof.Machine.execQpack x1 x2 x3 x4 x5 s
  | .qunpk x1 x2 x3 x4 x5 => Sys2Proof.Machine.execQunpk x1 x2 x3 x4 x5 s
  | .qscl x1 x2 x3 x4 x5 => Sys2Proof.Machine.execQscl x1 x2 x3 x4 x5 s
  | .rng x1 x2 x3 x4 => Sys2Proof.Machine.execRng x1 x2 x3 x4 s
  | .tkget x1 x2 => Sys2Proof.Machine.execTkget x1 x2 s
  | .tkput x1 x2 => Sys2Proof.Machine.execTkput x1 x2 s
  | .acld x1 x2 x3 => Sys2Proof.Machine.execAcld x1 x2 x3 s
  | .acst x1 x2 x3 => Sys2Proof.Machine.execAcst x1 x2 x3 s
  | .mtwn x1 => Sys2Proof.Machine.execMtwn x1 s
  | .cbop x1 x2 x3 x4 => Sys2Proof.Machine.execCbop x1 x2 x3 x4 s
  | .cbmvGet x1 x2 => Sys2Proof.Machine.execCbmvGet x1 x2 s
  | .cbmvPut x1 x2 => Sys2Proof.Machine.execCbmvPut x1 x2 s
  | .cbmvGetAll x1 => Sys2Proof.Machine.execCbmvGetAll x1 s
  | .cbmvPutAll x1 => Sys2Proof.Machine.execCbmvPutAll x1 s
  | .enq x1 x2 => Sys2Proof.Machine.execEnq x1 x2 s
  | .enqNb x1 x2 => Sys2Proof.Machine.execEnqNb x1 x2 s
  | .range x1 x2 => Sys2Proof.Machine.execRange x1 x2 s
  | .qstat x1 x2 => Sys2Proof.Machine.execQstat x1 x2 s
  | .tex x1 x2 x3 => Sys2Proof.Machine.execTex x1 x2 x3 s
  | .trav x1 x2 => Sys2Proof.Machine.execTrav x1 x2 s
  | .rast x1 => Sys2Proof.Machine.execRast x1 s
  | .bra x1 => Sys2Proof.Machine.execBra x1 s
  | .bc x1 x2 x3 x4 => Sys2Proof.Machine.execBc x1 x2 x3 x4 s
  | .call x1 x2 => Sys2Proof.Machine.execCall x1 x2 s
  | .callc x1 x2 x3 x4 => Sys2Proof.Machine.execCallc x1 x2 x3 x4 s
  | .bri x1 => Sys2Proof.Machine.execBri x1 s
  | .calli x1 x2 => Sys2Proof.Machine.execCalli x1 x2 s
  | .retc x1 x2 => Sys2Proof.Machine.execRetc x1 x2 s
  | .nap x1 x2 => Sys2Proof.Machine.execNap x1 x2 s
  | .peal x1 => Sys2Proof.Machine.execPeal x1 s
  | .conv x1 => Sys2Proof.Machine.execConv x1 s
  | .convInit x1 x2 => Sys2Proof.Machine.execConvInit x1 x2 s
  | .convQuery x1 x2 => Sys2Proof.Machine.execConvQuery x1 x2 s
  | .ldg x1 x2 x3 x4 x5 => Sys2Proof.Machine.execLdg x1 x2 x3 x4 x5 s
  | .stg x1 x2 x3 x4 x5 => Sys2Proof.Machine.execStg x1 x2 x3 x4 x5 s
  | .ldl x1 x2 x3 x4 x5 => Sys2Proof.Machine.execLdl x1 x2 x3 x4 x5 s
  | .stl x1 x2 x3 x4 x5 => Sys2Proof.Machine.execStl x1 x2 x3 x4 x5 s
  | .ldt x1 x2 x3 x4 x5 x6 => Sys2Proof.Machine.execLdt x1 x2 x3 x4 x5 x6 s
  | .stt x1 x2 x3 x4 x5 x6 => Sys2Proof.Machine.execStt x1 x2 x3 x4 x5 x6 s
  | .atom x1 x2 x3 x4 x5 => Sys2Proof.Machine.execAtom x1 x2 x3 x4 x5 s
  | .atomn x1 x2 x3 x4 => Sys2Proof.Machine.execAtomn x1 x2 x3 x4 s
  | .cas x1 x2 x3 x4 => Sys2Proof.Machine.execCas x1 x2 x3 x4 s
  | .pref x1 x2 x3 x4 => Sys2Proof.Machine.execPref x1 x2 x3 x4 s
  | .fence x1 => Sys2Proof.Machine.execFence x1 s
  | .fenceHostTransmitted x1 => Sys2Proof.Machine.execFenceHostTransmitted x1 s
  | .bari x1 x2 => Sys2Proof.Machine.execBari x1 x2 s
  | .bara x1 x2 => Sys2Proof.Machine.execBara x1 x2 s
  | .barw x1 x2 => Sys2Proof.Machine.execBarw x1 x2 s
  | .bart x1 x2 x3 => Sys2Proof.Machine.execBart x1 x2 x3 s
  | .flsetE x1 x2 => Sys2Proof.Machine.execFlsetE x1 x2 s
  | .flsetF x1 x2 => Sys2Proof.Machine.execFlsetF x1 x2 s
  | .cwb x1 x2 => Sys2Proof.Machine.execCwb x1 x2 s
  | .cinv x1 x2 => Sys2Proof.Machine.execCinv x1 x2 s
  | .iinv x1 x2 => Sys2Proof.Machine.execIinv x1 x2 s
  | .ipre x1 x2 => Sys2Proof.Machine.execIpre x1 x2 s
  | .ipin x1 x2 => Sys2Proof.Machine.execIpin x1 x2 s
  | .iunp x1 x2 => Sys2Proof.Machine.execIunp x1 x2 s
  | .uadd x1 x2 x3 => Sys2Proof.Machine.execUadd x1 x2 x3 s
  | .usub x1 x2 x3 => Sys2Proof.Machine.execUsub x1 x2 x3 s
  | .uand x1 x2 x3 => Sys2Proof.Machine.execUand x1 x2 x3 s
  | .uor x1 x2 x3 => Sys2Proof.Machine.execUor x1 x2 x3 s
  | .uxor x1 x2 x3 => Sys2Proof.Machine.execUxor x1 x2 x3 s
  | .ushl x1 x2 x3 => Sys2Proof.Machine.execUshl x1 x2 x3 s
  | .ushr x1 x2 x3 => Sys2Proof.Machine.execUshr x1 x2 x3 s
  | .usar x1 x2 x3 => Sys2Proof.Machine.execUsar x1 x2 x3 s
  | .umul x1 x2 x3 => Sys2Proof.Machine.execUmul x1 x2 x3 s
  | .umin x1 x2 x3 => Sys2Proof.Machine.execUmin x1 x2 x3 s
  | .umax x1 x2 x3 => Sys2Proof.Machine.execUmax x1 x2 x3 s
  | .umov x1 x2 => Sys2Proof.Machine.execUmov x1 x2 s
  | .ulea x1 x2 x3 x4 => Sys2Proof.Machine.execUlea x1 x2 x3 x4 s
  | .ucmp x1 x2 x3 x4 => Sys2Proof.Machine.execUcmp x1 x2 x3 x4 s
  | .usel x1 x2 x3 => Sys2Proof.Machine.execUsel x1 x2 x3 s
  | .umoviLo x1 x2 => Sys2Proof.Machine.execUmoviLo x1 x2 s
  | .umoviSx x1 x2 => Sys2Proof.Machine.execUmoviSx x1 x2 s
  | .umoviHi x1 x2 => Sys2Proof.Machine.execUmoviHi x1 x2 s
  | .uld x1 x2 x3 => Sys2Proof.Machine.execUld x1 x2 x3 s
  | .resetBringUp x1 => Sys2Proof.Machine.execResetBringUp x1 s
  | .submissionDoorbell x1 => Sys2Proof.Machine.execSubmissionDoorbell x1 s
  | .sqctlWrite x1 => Sys2Proof.Machine.execSqctlWrite x1 s
  | .rsizeWrite x1 x2 => Sys2Proof.Machine.execRsizeWrite x1 x2 s
  | .detack x1 => Sys2Proof.Machine.execDetack x1 s
  | .framePointerWrite x1 x2 => Sys2Proof.Machine.execFramePointerWrite x1 x2 s
  | .registerWrite x1 x2 x3 x4 => Sys2Proof.Machine.execRegisterWrite x1 x2 x3 x4 s
  | .hostRingEntryWrite x1 => Sys2Proof.Machine.execHostRingEntryWrite x1 s
  | .scanoutFieldStart x1 => Sys2Proof.Machine.execScanoutFieldStart x1 s
  | .columnGrant x1 => Sys2Proof.Machine.execColumnGrant x1 s
  | .crewSave x1 x2 => Sys2Proof.Machine.execCrewSave x1 x2 s
  | .saveTimeout x1 => Sys2Proof.Machine.execSaveTimeout x1 s
  | .crewResume x1 x2 => Sys2Proof.Machine.execCrewResume x1 x2 s
  | .crewTimerLapse x1 => Sys2Proof.Machine.execCrewTimerLapse x1 s
  | .remoteEnqAccept x1 => Sys2Proof.Machine.execRemoteEnqAccept x1 s
  | .enqQueueRoom x1 => Sys2Proof.Machine.execEnqQueueRoom x1 s
  | .crewLaunch x1 x2 => Sys2Proof.Machine.execCrewLaunch x1 x2 s
  | .crewStart x1 => Sys2Proof.Machine.execCrewStart x1 s
  | .crewEnd x1 => Sys2Proof.Machine.execCrewEnd x1 s
  | .ageingPromotion x1 x2 => Sys2Proof.Machine.execAgeingPromotion x1 x2 s
  | .pageWalk x1 => Sys2Proof.Machine.execPageWalk x1 s
  | .walkComplete x1 x2 => Sys2Proof.Machine.execWalkComplete x1 x2 s
  | .pagingServiceReply x1 x2 x3 => Sys2Proof.Machine.execPagingServiceReply x1 x2 x3 s
  | .taggedReply x1 x2 x3 => Sys2Proof.Machine.execTaggedReply x1 x2 x3 s
  | .copySectorRead x1 x2 x3 => Sys2Proof.Machine.execCopySectorRead x1 x2 x3 s
  | .copySectorLand x1 x2 x3 => Sys2Proof.Machine.execCopySectorLand x1 x2 x3 s
  | .amaxFold x1 x2 x3 => Sys2Proof.Machine.execAmaxFold x1 x2 x3 s
  | .obresSpaceFreed x1 => Sys2Proof.Machine.execObresSpaceFreed x1 s
  | .matrixEngineHang x1 x2 => Sys2Proof.Machine.execMatrixEngineHang x1 x2 s
  | .ffRequestTakeup x1 x2 x3 => Sys2Proof.Machine.execFfRequestTakeup x1 x2 x3 s
  | .texReply x1 x2 x3 => Sys2Proof.Machine.execTexReply x1 x2 x3 s
  | .travReply x1 x2 x3 => Sys2Proof.Machine.execTravReply x1 x2 x3 s
  | .rastRun x1 x2 x3 => Sys2Proof.Machine.execRastRun x1 x2 x3 s
  | .thermalMigration x1 x2 => Sys2Proof.Machine.execThermalMigration x1 x2 s
  | .columnFence x1 x2 x3 => Sys2Proof.Machine.execColumnFence x1 x2 x3 s
  | .faultRecordAppend x1 => Sys2Proof.Machine.execFaultRecordAppend x1 s
  | .thermalShutdown x1 => Sys2Proof.Machine.execThermalShutdown x1 s
  | .remapScrub x1 x2 x3 x4 => Sys2Proof.Machine.execRemapScrub x1 x2 x3 x4 s
  | .fatalError x1 x2 => Sys2Proof.Machine.execFatalError x1 x2 s
  | .dieFreeze x1 => Sys2Proof.Machine.execDieFreeze x1 s
  | .halyardMessage x1 x2 x3 => Sys2Proof.Machine.execHalyardMessage x1 x2 x3 s
  | .napTimeout x1 => Sys2Proof.Machine.execNapTimeout x1 s
  | .yieldExpiry x1 => Sys2Proof.Machine.execYieldExpiry x1 s
  | .matrixOperationFinished x1 x2 => Sys2Proof.Machine.execMatrixOperationFinished x1 x2 s
  | .matrixEngineResetComplete x1 x2 => Sys2Proof.Machine.execMatrixEngineResetComplete x1 x2 s
  | .cwbComplete x1 => Sys2Proof.Machine.execCwbComplete x1 s
  | .cinvComplete x1 => Sys2Proof.Machine.execCinvComplete x1 s
  | .iinvComplete x1 => Sys2Proof.Machine.execIinvComplete x1 s
  | .ipinComplete x1 => Sys2Proof.Machine.execIpinComplete x1 s
  | .instructionFetchReturn x1 => Sys2Proof.Machine.execInstructionFetchReturn x1 s
  | .scanoutLutWrite x1 x2 x3 x4 x5 => Sys2Proof.Machine.execScanoutLutWrite x1 x2 x3 x4 x5 s
  | .accessTableWrite x1 x2 x3 x4 => Sys2Proof.Machine.execAccessTableWrite x1 x2 x3 x4 s
  | .hostAtomicop x1 x2 x3 => Sys2Proof.Machine.execHostAtomicop x1 x2 x3 s
  | .hostBar2Read x1 x2 => Sys2Proof.Machine.execHostBar2Read x1 x2 s
  | .hostBar2Write x1 x2 => Sys2Proof.Machine.execHostBar2Write x1 x2 s
  | .sensorPacket x1 => Sys2Proof.Machine.execSensorPacket x1 s
  | .leafChange x1 => Sys2Proof.Machine.execLeafChange x1 s
  | .nop => Sys2Proof.Machine.execNop s
  | .syscIdentity => Sys2Proof.Machine.execSyscIdentity s
  | .syscBudget => Sys2Proof.Machine.execSyscBudget s
  | .syscDispose => Sys2Proof.Machine.execSyscDispose s
  | .ret => Sys2Proof.Machine.execRet s
  | .exit => Sys2Proof.Machine.execExit s
  | .yield => Sys2Proof.Machine.execYield s
  | .fbar => Sys2Proof.Machine.execFbar s
  | .launchPacket => Sys2Proof.Machine.execLaunchPacket s
  | .dispose => Sys2Proof.Machine.execDispose s
  | .pagereply => Sys2Proof.Machine.execPagereply s
  | .clearkill => Sys2Proof.Machine.execClearkill s
  | .qread => Sys2Proof.Machine.execQread s
  | .qdrain => Sys2Proof.Machine.execQdrain s
  | .qlaunch => Sys2Proof.Machine.execQlaunch s
  | .gsreset => Sys2Proof.Machine.execGsreset s
  | .colstate => Sys2Proof.Machine.execColstate s
  | .counts => Sys2Proof.Machine.execCounts s
  | .attest => Sys2Proof.Machine.execAttest s
  | .loadcode => Sys2Proof.Machine.execLoadcode s
  | .hostDetach => Sys2Proof.Machine.execHostDetach s
  | .linkRetrain => Sys2Proof.Machine.execLinkRetrain s
  | .poseMirror => Sys2Proof.Machine.execPoseMirror s
  | .issueCycle => Sys2Proof.Machine.execIssueCycle s
  | .ptsTick => Sys2Proof.Machine.execPtsTick s
  | .quiescenceUpdate => Sys2Proof.Machine.execQuiescenceUpdate s
  | .powerLoss => Sys2Proof.Machine.execPowerLoss s

end Sys2Proof.Machine
end

