-- ==== Sys2Proof/Machine/Due.lean ====
section
/-! DEFINITION. Which of the part's own steps can come next (95_what_each_step_holds.md), and which of them comes
(log 1). -/

namespace Sys2Proof.Machine

open Sys2Proof

/-! ## Steps that must come now -/

/-- The firmware image that a die's boot ROM finds. -/
def imageOfDie (die : Nat) : FirmwareImage :=
  ⟨Config.firmwareBytes die, Config.firmwareKey die, Config.firmwareSignature die⟩

/-- What a power-on or a reset finds: which columns pass, the images, which modules train. -/
def State.anyBringUp (s : State) : BringUp × State :=
  let n := s.oracle
  ({ pass0 := BitVec.ofNat 104 (Config.choice n), pass1 := BitVec.ofNat 104 (Config.choice (n + 1))
     rev := Config.freeWord (n + 2), ucieTrained := Config.choice (n + 3) % 5, image0 := imageOfDie 0, image1 := imageOfDie 1
     warm := true }, { s with oracle := n + 4 })

/-- Crews of a fenced column whose saving can go on (11 R233). -/
def State.fencingDue (s : State) : Option CrewAt :=
  (s.crews.find? fun c => (s.col c.place.die c.place.col).fenced && (match c.phase with
    | .running => (s.withTwin c).all s.sealable
    | .sealed .fencing _ => (s.withTwin c).all s.drained
    | _ => false)).map Crew.place

def State.timeoutDue (s : State) : Option CrewAt :=
  (s.crews.find? fun c => match c.phase with
    | .sealed .preemption since => decide (since + 200000 ≤ s.ns)
    | _ => false).map Crew.place

def State.ageingDue (s : State) : Option (Nat × Nat) :=
  (s.crews.find? fun c => c.overdue (s.eff c.at_.rcb).ageing ≠ []).map fun c => (c.place.die, c.place.col)

/-- A scan-out field starts 720 times a second (12 R248). -/
def State.fieldDue (s : State) (d : Nat) : Bool := decide ((s.die d).scan.started * 1000000000 ≤ s.ns * 720)
/-- The watchdog has not been restarted for 4 ms (12 R253). -/
def State.watchdogDue (s : State) (d : Nat) : Bool := !(s.die d).frozen && decide ((s.die d).watchdog + 4000000 ≤ s.ns)

/-- A pose update that has been on its way to die 1 for almost 300 ns (12 R251). -/
def State.poseDue (s : State) : Bool := s.die0.poseSend.head?.any fun x => decide (x.1.ns.toNat + 299 ≤ s.ns)

/-- A stage whose timer's lapse is to form its crew now (03 R58). -/
def State.lapseDue (s : State) : Option StageAt :=
  s.regions.findSome? fun r => (r.stages.zipIdx.find? fun t => t.1.lapsed s.ns ≠ 0 ∧ t.1.lapseBy ≤ s.ns + 1).map fun t => ⟨r.rcb, t.2⟩

/-- A thread whose NAP has run out almost 50 ns ago (16 R345). -/
def State.napDue (s : State) : Option ThreadAt :=
  s.crews.findSome? fun c => if !c.running then none else
    (c.threads.zipIdx.find? fun t => c.has t.2 && (match t.1.wait with
      | .nap d _ => decide (d + 49 ≤ s.ns)
      | _ => false)).map fun t => ⟨c.place, t.2⟩

/-- A thread whose YIELD's cycles are over (17 R389). -/
def State.yieldDue (s : State) : Option ThreadAt :=
  s.crews.findSome? fun c => if !c.running then none else
    (c.threads.zipIdx.find? fun t => c.has t.2 && (match t.1.wait with
      | .yield n => decide (n ≤ (s.die c.place.die).clk)
      | _ => false)).map fun t => ⟨c.place, t.2⟩

/-- A die's remap table has not been scrubbed for 10 ms: its next entry (11 R235). -/
def State.scrubDue (s : State) (d : Nat) : Option Instr :=
  if s.ns < (s.die d).scrubNs + 10000000 then none
  else match (s.die d).remap with
    | (bank, u, l) :: _ => some (.remapScrub d bank u l)
    | [] => some (.remapScrub d 0 .good .good)

/-- The first of a list that there is. -/
def firstSome : List (Option Instr) → Option Instr
  | [] => none
  | some i :: _ => some i
  | none :: t => firstSome t

/-! ## Steps that wait for walks (08 R181; log 9) -/

/-- A page of a die that a walk is queued for, or in progress. -/
def State.walksOn (s : State) (d page : Nat) : Bool := (s.die d).walks.any fun w => decide (w.page = page) && !w.asked
/-- A step of the firmware, the sensor link or the scan-out engine waits for a walk. -/
def State.waitsFor (s : State) (i : Instr) : Bool := s.heldSteps.any fun h => decide (h.instr = i) && s.walksOn h.die h.page
/-- A step that has waited, and whose walk is over. -/
def State.heldReady (s : State) : Option Instr := (s.heldSteps.find? fun h => !s.walksOn h.die h.page).map HeldStep.instr
/-- The step is made, with the pages whose walks have been made for it. -/
def State.withWalks (s : State) (i : Instr) : State :=
  { s with walkedFor := ((s.heldSteps.find? fun h => h.instr = i).map HeldStep.walked).getD [] }
/-- It is not made, and waits for the walk of a page that it has missed: joined to the walk in progress, if any, queued
when no walker is idle. -/
def State.hold (s : State) (i : Instr) (x : Nat × Nat × Nat) : State :=
  let walked := ((s.heldSteps.find? fun h => h.instr = i).map HeldStep.walked).getD []
  { s.queueWalkFor x.1 x.2.2 0 (BitVec.ofNat 64 (4096 * x.2.1)) .read true 0 with
    heldSteps := s.heldSteps.filter (fun h => h.instr ≠ i) ++ [⟨i, x.1, x.2.1, walked ++ [(x.1, x.2.1)]⟩] }
/-- What a step has given, from the state that stays when it waits: it is done, or it has missed a page. -/
def State.afterWalks (s : State) (i : Instr) : Host.Outcome State Fault Refusal → Host.Outcome State Fault Refusal
  | .next t => match t.missedPage with
    | some x => .next (s.hold i x)
    | none => .next { t with heldSteps := t.heldSteps.filter fun h => h.instr ≠ i }
  | o => o

/-- The step that its rule's own time makes next, if any, and if it does not wait for a walk. -/
def State.must (s : State) : Option Instr :=
  let if_ (b : Bool) (i : Instr) : Option Instr := if b then some i else none
  firstSome (([if_ (s.fieldDue 0) (.scanoutFieldStart 0), if_ (s.fieldDue 1) (.scanoutFieldStart 1)]
    ++ if s.fatal.isSome then []
      else
        [if_ (s.overheated 0) (.thermalShutdown 0), if_ (s.overheated 1) (.thermalShutdown 1), if_ s.poseDue .poseMirror,
         s.napDue.map .napTimeout, s.yieldDue.map .yieldExpiry, s.lapseDue.map .crewTimerLapse, if_ (s.watchdogDue 0) (.dieFreeze 0),
         if_ (s.watchdogDue 1) (.dieFreeze 1), s.timeoutDue.map .saveTimeout, s.fencingDue.map fun p => .crewSave p .fencing,
         s.ageingDue.map fun x => .ageingPromotion x.1 x.2, s.scrubDue 0, s.scrubDue 1]).map fun o => o.filter fun i => !s.waitsFor i)

/-! ## Errors, and what the outside does without a step of its own (log 80) -/

/-- A number below n that the spec leaves open, given to what follows. -/
def State.drawn (s : State) (n : Nat) (f : Nat → State → State) : State := f (s.pick n).1 (s.pick n).2

/-- A thread, or a tile, or a range of a crew fails its check (11 Table 11.6). -/
def State.strikeCrew (s : State) (c : Crew) : State :=
  s.drawn 4 fun k s => match k with
    | 0 => s.drawn c.threads.length fun i s =>
      s.drawn (((c.threads[i]?).map fun t => t.stripe.length).getD 0) fun r s =>
        s.modThread c.place i fun t => { t with bad := insertN r t.bad }
    | 1 => s.drawn c.tiles.length fun i s =>
      s.modCrew c.place fun c => { c with tiles := c.tiles.modify i fun (t : Tile) => { t with bad := true } }
    | 2 => s.drawn 16 fun i s => s.modCrew c.place fun c =>
      { c with ob := c.ob.modify i fun r => r.map fun (r : Reservation) => { r with bad := true } }
    | _ => s.drawn (c.lsize / 8) fun w s => { s with damage := .loc c.uid w :: s.damage }

/-- A column's scratchpad, a home line, or an entry of the remap table fails its check. -/
def State.strikeMemory (s : State) : State :=
  s.drawn 3 fun k s => match k with
    | 0 => s.drawn 208 fun i s => s.drawn (0x20000 * (s.col (i / 104) (i % 104)).count) fun w s =>
      if (s.col (i / 104) (i % 104)).count = 0 then s else { s with damage := .scr (i / 104) (i % 104) w :: s.damage }
    | 1 => s.drawn (Config.homeEnd1 / 128) fun l s =>
      if (homeOf (128 * l)).isNone then s else { s with poison := (l, []) :: s.poison.filter fun p => p.1 ≠ l }
    | _ => s.drawn 2 fun d s => s.drawn 104 fun bank s => s.drawn 3 fun u s => s.drawn 3 fun l s =>
      let check (k : Nat) : RemapCheck := if k = 0 then .good else if k = 1 then .correctable else .uncorrectable
      s.modDie d fun k => { k with remap := (bank, check u, check l) :: k.remap.filter fun x => x.1 ≠ bank }

/-- A fatal error (11 R238): one of its causes; a halyard message that stays uncorrectable is one of scheduler state (12
R252). -/
def State.strikeFatal (s : State) : State :=
  s.drawn 4 fun k s => s.drawn 2 fun d s =>
    let cause : FatalCause := if k = 0 then .ucieLoss else if k = 1 then .scheduler else if k = 2 then .queueManager else .accessTable
    { s with agenda := s.agenda ++ [.fatalError cause d] }

/-- A die's hottest column has a new temperature (12 Table 12.2, R260). -/
def Die.heat (t : W32) (now : Nat) (d : Die) : Die :=
  { d with tcol := t, hotNs := if 920 < t.toNat then some (d.hotNs.getD now) else none }

/-- The host has assigned the function's BARs, or not yet (12 R241, R246). -/
def State.enumerate (s : State) : State :=
  s.drawn 2 fun k s => if k = 0 then s else { s with enumerated := s.enumerated || s.attached }

/-- What may befall the module at any time: nothing; a corrected error, which is counted (11 R236); an uncorrectable
one; a fatal one; a temperature; or the host assigns the function's BARs (12 R246). -/
def State.strike (s : State) : State :=
  s.drawn 7 fun k s => match k with
    | 0 => s
    | 1 => s.drawn 2 fun d s => s.drawn 9 fun i s =>
      s.modDie d fun k => { k with corrected := k.corrected.modify i fun n => n + 1 }
    | 2 => s.drawn s.crews.length fun i s => match s.crews[i]? with
      | some c => s.strikeCrew c
      | none => s
    | 3 => s.strikeMemory
    | 4 => s.strikeFatal
    | 5 => s.drawn 2 fun d s =>
      let (t, s) := s.anyWord
      s.modDie d (Die.heat t s.ns)
    | _ => { s with enumerated := s.enumerated || s.attached }

/-! ## Steps that can come -/

def mailboxStep (code : Nat) : List Instr :=
  match code with
  | 1 => [.dispose]
  | 2 => [.pagereply]
  | 3 => [.clearkill]
  | 4 => [.qread]
  | 5 => [.qdrain]
  | 6 => [.qlaunch]
  | 7 => [.gsreset]
  | 8 => [.colstate]
  | 9 => [.counts]
  | 10 => [.attest]
  | 11 => [.loadcode]
  | _ => []

/-- The recovery mailbox, which answers after a fatal error too (12 R254, R255). -/
def State.mailboxSteps (s : State) : List Instr :=
  if s.mailbox.status.toNat % 256 = 1 then mailboxStep (s.mailbox.cmd.toNat % 256) else []

/-- The host's rings, the submission ring, the pose on its way to die 1. -/
def State.hostSteps (s : State) : List Instr :=
  (if s.takesPackets then [.launchPacket] else [])
  ++ ([0, 1, 2].filter fun k => (s.outgoing.any fun o => o.dest = .ring k) && s.ringRoom k).map Instr.hostRingEntryWrite
  ++ (if s.die0.poseSend = [] then [] else [.poseMirror])

/-- A thread's wait that can end. -/
def State.waitSteps (s : State) (c : Crew) (tid : Nat) (t : Thread) : List Instr :=
  let at_ : ThreadAt := ⟨c.place, tid⟩
  match t.wait with
  | .nap d _ => if d ≤ s.ns then [.napTimeout at_] else []
  | .yield n => if n ≤ (s.die c.place.die).clk then [.yieldExpiry at_] else []
  | .fetch => [.instructionFetchReturn at_]
  | .hostTx _ => if s.attached then [.fenceHostTransmitted at_] else []
  | .queue i _ => if ((s.stage? ⟨c.at_.rcb, i⟩).map Stage.full).getD true then [] else [.enqQueueRoom at_]
  | .cacheOp .cwb _ => [.cwbComplete at_]
  | .cacheOp .cinv _ => [.cinvComplete at_]
  | .cacheOp .iinv _ => [.iinvComplete at_]
  | .cacheOp .ipin _ => [.ipinComplete at_]
  | _ => []

/-- A crew's own steps. -/
def State.crewSteps (s : State) (c : Crew) : List Instr :=
  let p := c.place
  (match c.phase with
    | .placed =>
      if s.prologueDone c ∨ (c.bindErr.isSome ∧ (s.col p.die p.col).transfers.all fun t => t.uid != c.uid) then [.crewStart p] else []
    | .running => if s.victims.contains p ∧ !(s.die p.die).frozen then [.crewSave p .preemption] else []
    | .sealed why _ =>
      if (s.withTwin c).all s.drained ∧ !(why = .preemption ∧ (s.die p.die).frozen) then [.crewSave p why] else []
    | .moving k => if (s.withTwin c).all s.drained then [.thermalMigration p k] else []
    | .ended => if s.crewDone c then [.crewEnd p] else [])
  ++ (if c.held.any fun h => h.why = .space then [.obresSpaceFreed p] else [])
  ++ if c.running then (c.threads.zipIdx.flatMap fun x => if c.has x.2 then s.waitSteps c x.2 x.1 else []) else []

/-- A column's engines. -/
def State.columnSteps (s : State) (d c : Nat) : List Instr :=
  let k := s.col d c
  (k.loads.map fun l => .taggedReply d c l.tag)
  ++ (k.transfers.flatMap fun t =>
      if t.waiting.isSome then []
      else (if t.reads = [] then [] else [.copySectorRead d c t.tag])
        ++ (if t.writes = [] ∧ t.late = [] then [] else [.copySectorLand d c t.tag])
        ++ (if t.fold.isSome ∧ t.writes = [] ∧ t.late = [] then [.amaxFold d c t.tag] else [])
        ++ (if t.isRaster ∧ t.writes = [] ∧ t.late = [] then [.rastRun d c t.tag] else []))
  ++ (if k.ops.any k.canRun then [.matrixOperationFinished d c] else [])
  ++ (if k.hung then [.matrixEngineHang d c] else [])
  ++ (if k.resetting then [.matrixEngineResetComplete d c] else [])
  ++ ([FfUnit.tex, .trav, .rast].filter fun u => k.ff.any (FfRequest.holds u .queued)).map (Instr.ffRequestTakeup d c)
  ++ (k.ff.filter fun r => r.step == .taken && r.waiting.isNone).map (fun r => if r.unit = .tex then .texReply d c r.tag else .travReply d c r.tag)
  ++ match k.reefs with
    | r :: _ => if r.cost ≠ 0 then [] else if r.ways then [.scwayComplete d c] else [.scflComplete d c]
    | [] => []

/-- A stage's launches and resumptions, and its timer. -/
def State.stageSteps (s : State) (a : StageAt) (t : Stage) : List Instr :=
  (if t.lapsed s.ns = 0 then [] else [.crewTimerLapse a])
  ++ (((s.grants a t).filter fun c => (s.launchable a c).isSome).map fun c => .crewLaunch a c)
  ++ match t.desc with
    | some d => ((s.grants a t).filter fun c => s.mayResume a t d c).map fun c => .crewResume a c
    | none => []

/-- A die's queue manager, walkers, halyard links, and the entries of its remap table that a scrub may reach (11 R235). -/
def State.dieSteps (s : State) (d : Nat) : List Instr :=
  let k := s.die d
  (if s.transit.any (s.arrived d) then [.remoteEnqAccept d] else [])
  ++ (if s.deliverable d = [] then [] else [.faultRecordAppend d])
  ++ (if k.walks.any (fun w => w.queued) ∧ k.walking < Config.walkers then [.pageWalk d] else [])
  ++ ((k.walks.filter fun w => !w.queued && !w.asked).map fun w => .walkComplete d w.page)
  ++ (k.down.zipIdx.filter fun l => l.1.flight ≠ []).map (fun l => .halyardMessage d l.2 .toLeaf)
  ++ (k.up.zipIdx.filter fun l => l.1.flight ≠ []).map (fun l => .halyardMessage d l.2 .toGlobal)
  ++ k.remap.map (fun x => .remapScrub d x.1 x.2.1 x.2.2)

/-- Every step of the part's own that can come, and does not wait for a walk. -/
def State.can (s : State) : List Instr :=
  .issueCycle :: (s.mailboxSteps ++ (if s.fatal.isSome then []
    else s.hostSteps ++ s.dieSteps 0 ++ s.dieSteps 1 ++ s.crews.flatMap s.crewSteps
      ++ ((s.regions.flatMap fun r => r.stages.zipIdx.flatMap fun t => s.stageSteps ⟨r.rcb, t.2⟩ t.1))
      ++ (List.range 208).flatMap fun i => s.columnSteps (i / 104) (i % 104))).filter fun i => !s.waitsFor i

/-- The step that comes when nothing from outside comes: bring-up first; one whose walk is over (08 R181); a grant of both
dies' columns every 5 µs (03 R63); what must come now; else one of those that can, after what may befall the module at any time. -/
def State.due (s : State) : Instr × State :=
  if s.host.bringup &&& 3 = 0 then
    let (b, s) := s.anyBringUp
    (.resetBringUp b, s)
  else if !s.ready then (.issueCycle, s.enumerate)
  else match (if s.fatal.isNone then s.heldReady else none) with
  | some i => (i, s)
  | none =>
  if s.fatal.isNone ∧ s.grantNs + 5000 ≤ s.ns then (.columnGrant 0, { s with agenda := .columnGrant 1 :: s.agenda })
  else match s.must with
    | some i => (i, s)
    | none =>
      let s := s.strike
      let l := s.can
      let (i, s) := s.pick l.length
      (l.getD i .issueCycle, s)

end Sys2Proof.Machine
end

