-- ==== Sys2Proof/Machine/Step.lean ====
section
/-! DEFINITION. One step of the module (log 1), and the placement of one word to be run (log 8). -/

namespace Sys2Proof.Machine

open Sys2Proof

/-- One step: the issue group at the head of those formed in this cycle runs; with none left, the next thing that the
outside world or the part's own time brings comes; with nothing, one of the part's own steps that can happen. The threads
that it brings to one PC clear their tags (02 R28), and accesses at lines that it made full are performed (15 R319). A step
of the firmware, the sensor link or the scan-out engine waits for the walks of its pages (08 R181). -/
def step (s : State) : Host.Outcome State Fault Refusal :=
  if !s.power then
    match s.agenda with
    | .resetBringUp b :: t => exec (.resetBringUp b) { s with agenda := t }
    | _ => .fault .poweredOff
  else meeting <|
    match s.pending with
    | g :: gs =>
      match { s with pending := gs }.bringUp g with
      | (none, s) => .next s
      | (some i, s) => exec i s
    | [] =>
      match s.agenda with
      | i :: t =>
        if !i.isEvent then .next { s with agenda := t }
        else if s.waitsFor i then s.due.2.afterWalks s.due.1 (exec s.due.1 (s.due.2.withWalks s.due.1))
        else s.afterWalks i (exec i ({ s with agenda := t }.withWalks i))
      | [] => s.due.2.afterWalks s.due.1 (exec s.due.1 (s.due.2.withWalks s.due.1))

/-- Where withFetchWord places the word: die 0, column 0, slot 0, at the virtual and physical address 0x1000. -/
def loadPlace : CrewAt := ⟨0, 0, 0⟩

/-- A crew of one thread, as launch leaves it (02 R31, R33; 04 Table 4.1), that runs. -/
def loadCrew (uid pts fence : Nat) : Crew :=
  { place := loadPlace, uid, at_ := ⟨0, 0⟩, crewno := 0, present := 1, threads := [Thread.launched 0x1000 64 0 pts fence],
    g := List.replicate 32 0, fp4x := 0, cv := List.replicate 8 ⟨1, 0, none⟩, ob := List.replicate 16 none, tiles := [],
    lsize := 4096, lmode := 0, mem := [], empty := [], tracked := [], records := [], phase := .running, bindNext := 0,
    bindPage := none, bindMissed := none, bindErr := none, twin := none, first := true, bound := false, widowed := false, held := [], launchNs := 0 }

/-- The word in memory, in an executable page that the column's TLB holds and the access table admits, and a thread of a
running crew at it, whose issue group comes next; on a module that has been brought up. -/
def State.withFetchWord (s : State) (_nbits w : Nat) : State :=
  let page : TlbEntry := { va := 0x1000, bits := 12, pa := 0x1000, leaf := 0x100B#64, level := 0 }
  let windows := (0x1000#64, 0x110C#64) :: (s.die0.windows 0 0).drop 1
  let access := ((0, 0), windows) :: s.die0.access.filter fun e => e.1 ≠ (0, 0)
  let place (c : Column) : Column :=
    { c with
      enabled := true, l1 := page :: c.l1, icache := c.icache.filter fun x => x.line ≠ 32
      peals := c.peals.filter fun x => x.place ≠ loadPlace }
  { s with
    power := true
    host := if s.ready then s.host else { s.host with bringup := 2 }
    mem := Memory.writeL s.mem 0x1000 (leBytes 4 w)
    poison := s.poison.filter fun x => x.1 ≠ 32
    die0 := { s.die0 with access }
    cols := s.cols.modify 0 place
    crews := loadCrew s.serial s.die0.floor s.store :: s.crews.filter fun c => c.place ≠ loadPlace
    serial := s.serial + 1
    pending := ⟨loadPlace, [0], 0x1000, 0⟩ :: s.pending }

end Sys2Proof.Machine
end

