-- ==== Sys2Proof/Safety.lean ====
section
/-! DEFINITION. What the statements mean by a safe state and a safe run, and the words they share: a thread of the issue
group, what a group leaves alone, values written out in exact arithmetic and bit by bit. -/

namespace Sys2Proof.Machine

open Sys2Proof

/-! ## Safe states and runs -/

/-- Device memory and host memory are in their canonical form. -/
def State.globalWf (s : State) : Bool := Memory.wf s.mem && Memory.wf s.hostMem

/-- Every byte store of the state is in its canonical form. -/
def State.memoriesWf (s : State) : Bool :=
  s.globalWf && Memory.wf s.msix && Memory.wf s.mailbox.args && Memory.wf s.mailbox.result
    && s.crews.all (fun c => Memory.wf c.mem) && s.cols.all fun c => Memory.wf c.scratch

/-- n steps with neither a fault nor a refusal. -/
def runs : Nat → State → Prop
  | 0, _ => True
  | n + 1, s => ∃ t, step s = .next t ∧ runs n t

/-! ## The issue group -/

/-- Thread tid, with the state t, of crew c is one of the issue group. -/
structure InGroup (s : State) (c : Crew) (tid : Nat) (t : Thread) : Prop where
  crew : s.crew? s.cur.place = some c
  member : tid ∈ s.cur.tids
  thread : c.threads[tid]? = some t

/-- The issue group is this one thread, outside a PEAL. -/
structure Alone (s : State) (c : Crew) (tid : Nat) (t : Thread) : Prop where
  crew : s.crew? s.cur.place = some c
  only : s.cur.tids = [tid]
  thread : c.threads[tid]? = some t
  outside : s.cur.peal = false

/-- The thread after its instruction: its PC goes on by 4, but within a PEAL it stays (02 R43, 04 R281). -/
def State.goneOn (s : State) (t : Thread) : Thread := if s.cur.peal then t else { t with pc := t.pc + 4 }

/-- From s to s' nothing changes but threads of the issue group, and within a PEAL the note of those that are done. -/
def groupOnly (s s' : State) : Prop :=
  s' = { s with crews := s'.crews, cur := { s.cur with done := s'.cur.done } }
    ∧ (∀ p, p ≠ s.cur.place → s'.crew? p = s.crew? p)
    ∧ ∀ c, s.crew? s.cur.place = some c → ∃ c', s'.crew? s.cur.place = some c'
        ∧ c' = { c with threads := c'.threads } ∧ c'.threads.length = c.threads.length
        ∧ ∀ j, j ∉ s.cur.tids → c'.threads[j]? = c.threads[j]?

/-- From s to s' nothing changes but thread tid of the crew at p, which becomes u. -/
def onlyThread (s s' : State) (p : CrewAt) (tid : Nat) (u : Thread) : Prop :=
  s' = { s with crews := s'.crews } ∧ s'.thread? p tid = some u
    ∧ (∀ q j, ¬ (q = p ∧ j = tid) → s'.thread? q j = s.thread? q j)
    ∧ ∀ q c, s.crew? q = some c → ∃ c', s'.crew? q = some c' ∧ c' = { c with threads := c'.threads }

/-- A store that the module has: the scratchpads are those of its 208 columns. -/
def Space.real : Space → Prop
  | .scr die col => die < 2 ∧ col < 104
  | _ => True

/-- Every byte of every store reads as before. -/
def sameBytes (s s' : State) : Prop := ∀ sp a, s'.byte sp a = s.byte sp a

/-! ## Values -/

/-- The word whose bit i is f i. -/
def wordOf (f : Nat → Bool) : W32 := BitVec.ofNat 32 (((List.range 32).map fun i => if f i then 2 ^ i else 0).sum)

/-- How many of the bits from i = 0 on are false, at most 32. -/
def leading (f : Nat → Bool) : Nat := ((List.range 32).takeWhile fun i => !f i).length

/-- The value of a finite code of a format with an IEEE top exponent (05 R91), in units of the format's least positive
value; none for the infinities and NaNs. -/
def unitsOf (f : FpFmt) (code : Nat) : Option Int :=
  let e := code / 2 ^ f.mb % 2 ^ f.eb
  let m := code % 2 ^ f.mb
  let mag : Int := if e = 0 then (m : Int) else ((m + 2 ^ f.mb) * 2 ^ (e - 1) : Nat)
  if e = 2 ^ f.eb - 1 then none else some (if code / 2 ^ (f.eb + f.mb) % 2 = 1 then -mag else mag)

/-- 1.0 in those units. -/
def unitsPerOne (f : FpFmt) : Int := (2 ^ (f.bias + f.mb - 1) : Nat)

end Sys2Proof.Machine
end

