-- ==== Sys2Proof/Certificates/Slice0/Obligations.lean ====
section
/-! DEFINITION. The statements for the provers. Each says in its docstring which rules of the spec it formalises. -/

open Sys2Proof Sys2Proof.Machine

/-! ## Encoding -/

/-- Decoding the encoding of a well-formed instruction gives it back (13 R261 to R269): no bit of an operand is lost. -/
def Obligations.DecodeOfEncodeIsIdentity : Prop :=
  ∀ i : Instr, i.wf = true → i.isEvent = false → decode (encode i) = .ok i

/-- A word that decodes is the encoding of its instruction, which is well-formed: every unused field is checked
(13 R262, R270). -/
def Obligations.DecodedWordIsItsEncoding : Prop :=
  ∀ (w : W32) (i : Instr), decode w = .ok i → i.wf = true ∧ i.isEvent = false ∧ encode i = w

/-- Words that the spec writes out, one or more of each family. -/
def Obligations.SpecWordsDecode : Prop :=
  decode 0x201E1FFB = .ok (.addi 7 (.g 3) 0x7FB)
  ∧ decode 0x10102061 = .ok (.addc 4 (.v 4) (.v 6))
  ∧ decode 0x11041033 = .ok (.divs 1 (.v 2) (.v 3))
  ∧ decode 0x12041006 = .ok (.brev 1 (.v 2))
  ∧ decode 0x16515585 = .ok (.bfi 20 21 22 5)
  ∧ decode 0x616FFFF0 = .ok (.bc 3 false true 0x7FFF0)
  ∧ decode 0x48208240 = .ok (.bfly .fp16 8 8 9 0)
  ∧ decode 0x11082689 = .ok (.shlw 2 (.v 4) (.int 8))
  ∧ decode 0x05100000 = .ok (.scway 4)
  ∧ decode 0x05100001 = .ok (.scfl 4)
  ∧ decode 0x04000001 = .ok .syscBudget

/-! ## The step -/

/-- When an issue group is due whose words are fetched, and its word decodes, the step runs that instruction for the
group; the group is noted in `cur` (02 R25, R26). What the step adds is `meeting`: accesses at lines that the instruction
made full are performed, and threads that it brought to one PC clear their tags (15 R319, 02 R28). -/
def stepRunsDecodedInstruction : Prop :=
  ∀ (s s' : State) (g : Group) (gs : List Group) (i : Instr), s.power = true → s.pending = g :: gs →
    ({ s with pending := gs }).bringUp g = (some i, s') →
    step s = meeting (exec i s') ∧ decode s'.cur.word = .ok i ∧ i.wf = true ∧ s'.cur.place = g.place ∧ s'.cur.pc = g.pc
      ∧ (∀ t ∈ s'.cur.tids, t ∈ g.tids) ∧ s'.cur.peal = false

/-- With nothing due and nothing ahead, the module without power stops by name (11 R238). -/
def poweredOffStops : Prop :=
  ∀ s : State, s.power = false → s.agenda = [] → step s = .fault .poweredOff

/-- After every step, threads of a crew at one PC hold one tag (02 R28). -/
def siblingsMeet : Prop :=
  ∀ (s u : State) (c : Crew) (i j : Nat) (a b : Thread), s.power = true → step s = .next u → c ∈ u.crews →
    c.threads[i]? = some a → c.threads[j]? = some b → c.has i = true → c.has j = true → a.pc = b.pc → a.tag = b.tag

/-- The step, with power and without, and the tags it leaves (02 R25, R26, R28; 11 R238; 15 R319). -/
def Obligations.StepRunsDecodedInstruction : Prop := stepRunsDecodedInstruction ∧ poweredOffStops ∧ siblingsMeet

/-! ## Registers of a thread -/

/-- V(n) is logical register fb + n, modulo the stripe (04 R73): in a stripe of at least 64 registers, a write of V(n)
gives V(n) its value and leaves every other V(m); a pair holds its low half in the even register (04 R74). A write of a
condition bit changes that bit alone. -/
def Obligations.WindowRegisters : Prop :=
  ∀ (t : Thread) (n m : Nat) (x : W32) (p : W64), 64 ≤ t.stripe.length → n < 64 → m < 64 →
    t.v m = t.stripe.getD ((t.fb.toNat + m) % t.stripe.length) 0
    ∧ (t.setV n x).v m = (if m = n then x else t.v m)
    ∧ (∀ (w : W8) (k j : Nat) (b : Bool), k < 8 → j < 8 → (setBit8 w k b).getLsbD j = if j = k then b else w.getLsbD j)
    ∧ (n + 1 < 64 → (t.setPair n p).pair n = p ∧ (t.setPair n p).v n = W64.lo p ∧ (t.setPair n p).v (n + 1) = W64.hi p
        ∧ (m ≠ n → m ≠ n + 1 → (t.setPair n p).v m = t.v m))

/-! ## Integer results -/

/-- The destination and value of the arithmetic forms, computed on exact integers. -/
def arithmeticRule : Instr → Option (VReg × (Crew → Thread → W32))
  | .add d a b => some (d, fun c t => BitVec.ofNat 32 ((srcI c t a).toNat + (srcI c t b).toNat))
  | .sub d a b => some (d, fun c t => BitVec.ofInt 32 ((srcI c t a).toNat - (srcI c t b).toNat))
  | .mul d a b => some (d, fun c t => BitVec.ofNat 32 ((srcI c t a).toNat * (srcI c t b).toNat))
  | .mulh d a b => some (d, fun c t => BitVec.ofInt 32 ((srcI c t a).toInt * (srcI c t b).toInt / 2 ^ 32))
  | .mulhu d a b => some (d, fun c t => BitVec.ofNat 32 ((srcI c t a).toNat * (srcI c t b).toNat / 2 ^ 32))
  | .divs d a b => some (d, fun c t =>
      if srcI c t b = 0 then 0xFFFFFFFF else BitVec.ofInt 32 ((srcI c t a).toInt.tdiv (srcI c t b).toInt))
  | .divu d a b => some (d, fun c t =>
      if srcI c t b = 0 then 0xFFFFFFFF else BitVec.ofNat 32 ((srcI c t a).toNat / (srcI c t b).toNat))
  | .rems d a b => some (d, fun c t =>
      if srcI c t b = 0 then srcI c t a else BitVec.ofInt 32 ((srcI c t a).toInt.tmod (srcI c t b).toInt))
  | .remu d a b => some (d, fun c t =>
      if srcI c t b = 0 then srcI c t a else BitVec.ofNat 32 ((srcI c t a).toNat % (srcI c t b).toNat))
  | .min d a b => some (d, fun c t => BitVec.ofInt 32 (min (srcI c t a).toInt (srcI c t b).toInt))
  | .max d a b => some (d, fun c t => BitVec.ofInt 32 (max (srcI c t a).toInt (srcI c t b).toInt))
  | .minu d a b => some (d, fun c t => BitVec.ofNat 32 (min (srcI c t a).toNat (srcI c t b).toNat))
  | .maxu d a b => some (d, fun c t => BitVec.ofNat 32 (max (srcI c t a).toNat (srcI c t b).toNat))
  | .neg d a => some (d, fun c t => BitVec.ofInt 32 (-(srcI c t a).toNat))
  | .abs d a => some (d, fun c t => BitVec.ofNat 32 (srcI c t a).toInt.natAbs)
  | .lea d a b n => some (d, fun c t => BitVec.ofNat 32 ((srcI c t a).toNat + (srcI c t b).toNat * 2 ^ n.toNat))
  | .mad d a b e => some (d, fun _ t =>
      BitVec.ofNat 32 ((t.v a.toNat).toNat * (t.v b.toNat).toNat + (t.v e.toNat).toNat))
  | .addi d a imm => some (d, fun c t => BitVec.ofInt 32 ((srcI c t a).toNat + imm.toInt))
  | _ => none

/-- The destination and value of the logic and shift forms, bit by bit. -/
def logicRule : Instr → Option (VReg × (Crew → Thread → W32))
  | .and d a b => some (d, fun c t => wordOf fun i => (srcI c t a).getLsbD i && (srcI c t b).getLsbD i)
  | .or d a b => some (d, fun c t => wordOf fun i => (srcI c t a).getLsbD i || (srcI c t b).getLsbD i)
  | .xor d a b => some (d, fun c t => wordOf fun i => (srcI c t a).getLsbD i != (srcI c t b).getLsbD i)
  | .andn d a b => some (d, fun c t => wordOf fun i => (srcI c t a).getLsbD i && !(srcI c t b).getLsbD i)
  | .not d a => some (d, fun c t => wordOf fun i => !(srcI c t a).getLsbD i)
  | .brev d a => some (d, fun c t => wordOf fun i => (srcI c t a).getLsbD (31 - i))
  | .shl d a b => some (d, fun c t => wordOf fun i =>
      decide ((srcI c t b).toNat ≤ i) && (srcI c t a).getLsbD (i - (srcI c t b).toNat))
  | .shr d a b => some (d, fun c t => wordOf fun i => (srcI c t a).getLsbD (i + (srcI c t b).toNat))
  | .sar d a b => some (d, fun c t => wordOf fun i => (srcI c t a).getLsbD (min 31 (i + (srcI c t b).toNat)))
  | .rotl d a b => some (d, fun c t => wordOf fun i => (srcI c t a).getLsbD ((i + 32 - (srcI c t b).toNat % 32) % 32))
  | .shli d a n => some (d, fun c t => wordOf fun i => decide (n.toNat ≤ i) && (srcI c t a).getLsbD (i - n.toNat))
  | .shri d a n => some (d, fun c t => wordOf fun i => (srcI c t a).getLsbD (i + n.toNat))
  | .sari d a n => some (d, fun c t => wordOf fun i => (srcI c t a).getLsbD (min 31 (i + n.toNat)))
  | .andi d a imm => some (d, fun c t => wordOf fun i => (srcI c t a).getLsbD i && imm.getLsbD (min i 10))
  | .ori d a imm => some (d, fun c t => wordOf fun i => (srcI c t a).getLsbD i || imm.getLsbD i)
  | .xori d a imm => some (d, fun c t => wordOf fun i => (srcI c t a).getLsbD i != imm.getLsbD i)
  | _ => none

/-- The destination and value of the counts, bit-field moves, selections and moves. -/
def fieldRule : Instr → Option (VReg × (Crew → Thread → W32))
  | .clz d a => some (d, fun c t => BitVec.ofNat 32 (leading fun i => (srcI c t a).getLsbD (31 - i)))
  | .ctz d a => some (d, fun c t => BitVec.ofNat 32 (leading fun i => (srcI c t a).getLsbD i))
  | .popc d a => some (d, fun c t =>
      BitVec.ofNat 32 (((List.range 32).map fun i => ((srcI c t a).getLsbD i).toNat).sum))
  | .bfx x y z lenM1 sgn => some (x, fun _ t =>
      let p := (t.v z.toNat).toNat % 32
      let n := min (lenM1.toNat + 1) (32 - p)
      wordOf fun i => (decide (i < n) || sgn) && (t.v y.toNat).getLsbD (p + min i (n - 1)))
  | .bfi x y z lenM1 => some (x, fun _ t =>
      let p := (t.v z.toNat).toNat % 32
      let n := min (lenM1.toNat + 1) (32 - p)
      wordOf fun i => if p ≤ i ∧ i < p + n then (t.v y.toNat).getLsbD (i - p) else (t.v x.toNat).getLsbD i)
  | .bprm d a b => some (d, fun c t => wordOf fun i =>
      let sel := (srcI c t b).toNat / 2 ^ (4 * (i / 8)) % 16
      let byte := 8 * (sel % 4)
      match sel / 4 with
      | 0 => (srcI c t a).getLsbD (byte + i % 8)
      | 1 => false
      | 2 => (srcI c t a).getLsbD (byte + 7)
      | _ => true)
  | .mov d a => some (d, fun c t => srcI c t a)
  | .sel d a b k inv => some (d, fun c t => if t.cond.getLsbD k.toNat = !inv then srcI c t a else srcI c t b)
  | .moviLo d imm => some (d, fun _ _ => BitVec.ofNat 32 imm.toNat)
  | .moviSx d imm => some (d, fun _ _ => BitVec.ofInt 32 imm.toInt)
  | .moviHi d imm => some (d, fun _ t => BitVec.ofNat 32 (imm.toNat * 65536 + (t.v d.toNat).toNat % 65536))
  | .cbmvGet x y => some (x, fun _ t => BitVec.ofNat 32 (t.cond.getLsbD y.toNat).toNat)
  | .cbmvGetAll x => some (x, fun _ t => BitVec.ofNat 32 t.cond.toNat)
  | _ => none

/-- The instruction completes for every issue group: each of its threads writes V(D) and goes on, and nothing else
changes. -/
def writesWord (i : Instr) (d : VReg) (f : Crew → Thread → W32) : Prop :=
  ∀ s : State, ∃ s', exec i s = .next s' ∧ groupOnly s s'
    ∧ ∀ c tid t, InGroup s c tid t → s'.thread? s.cur.place tid = some (s.goneOn (t.setV d.toNat (f c t)))

/-- ADD, SUB, MUL, MULH, MULHU, DIVS, DIVU, REMS, REMU, MIN, MAX, MINU, MAXU, NEG, ABS, LEA, MAD, ADDI (14 R284, R286,
R287; 15 R308, R331; 16 R333, R334, R339, R343; 17 R363, R374; 05 R115). -/
def arithmeticResults : Prop := ∀ i d f, arithmeticRule i = some (d, f) → writesWord i d f

/-- AND, OR, XOR, ANDN, NOT, BREV, SHL, SHR, SAR, ROTL and the immediate forms (14 R286, R287, R296; 16 R339, R350;
17 R366, R388). -/
def logicResults : Prop := ∀ i d f, logicRule i = some (d, f) → writesWord i d f

/-- CLZ, CTZ, POPC, BFX, BFI, BPRM, MOV, SEL, MOVI and CBMV.get (14 R284, R293, R295, R303; 16 R339, R340; 17 R369). -/
def fieldResults : Prop := ∀ i d f, fieldRule i = some (d, f) → writesWord i d f

/-- The integer forms that write one register (chapters 14 to 17). -/
def Obligations.IntegerResults : Prop := arithmeticResults ∧ logicResults ∧ fieldResults

/-- ADDC and SUBB write the sum or difference with C(7) to V(D), and the carry or borrow to C(7) (14 R286, 17 R374). -/
def carryResults : Prop :=
  ∀ (d : VReg) (a b : Src7) (s : State),
    (∃ s', exec (.addc d a b) s = .next s' ∧ groupOnly s s' ∧ ∀ c tid t, InGroup s c tid t →
      let x := (srcI c t a).toNat + (srcI c t b).toNat + (t.cond.getLsbD 7).toNat
      s'.thread? s.cur.place tid
        = some (s.goneOn { t.setV d.toNat (BitVec.ofNat 32 x) with cond := setBit8 t.cond 7 (decide (2 ^ 32 ≤ x)) }))
    ∧ ∃ s', exec (.subb d a b) s = .next s' ∧ groupOnly s s' ∧ ∀ c tid t, InGroup s c tid t →
      let x : Int := (srcI c t a).toNat - (srcI c t b).toNat - (t.cond.getLsbD 7).toNat
      s'.thread? s.cur.place tid
        = some (s.goneOn { t.setV d.toNat (BitVec.ofInt 32 x) with cond := setBit8 t.cond 7 (decide (x < 0)) })

/-- The destination and value of the 64-bit forms. -/
def pairRule : Instr → Option (VReg × (Crew → Thread → W64))
  | .addw d a b => some (d, fun c t => BitVec.ofNat 64 ((srcL c t a).toNat + (srcL c t b).toNat))
  | .subw d a b => some (d, fun c t => BitVec.ofInt 64 ((srcL c t a).toNat - (srcL c t b).toNat))
  | .shlw d a b => some (d, fun c t =>
      if (srcI c t b).toNat < 64 then BitVec.ofNat 64 ((srcL c t a).toNat * 2 ^ (srcI c t b).toNat) else 0)
  | .shrw d a b => some (d, fun c t =>
      if (srcI c t b).toNat < 64 then BitVec.ofNat 64 ((srcL c t a).toNat / 2 ^ (srcI c t b).toNat) else 0)
  | _ => none

/-- ADDW, SUBW, SHLW and SHRW write pair(D), both halves at once (14 R288, 17 R367, R374). -/
def pairResults : Prop :=
  ∀ i d f, pairRule i = some (d, f) → ∀ s : State, ∃ s', exec i s = .next s' ∧ groupOnly s s'
    ∧ ∀ c tid t, InGroup s c tid t → s'.thread? s.cur.place tid = some (s.goneOn (t.setPair d.toNat (f c t)))

/-- What a comparison of 15 Table 15.8 finds, on exact integers. -/
def relation : Cc → W32 → W32 → Bool
  | .eq, a, b => decide (a.toNat = b.toNat)
  | .ne, a, b => decide (a.toNat ≠ b.toNat)
  | .lt, a, b => decide (a.toInt < b.toInt)
  | .le, a, b => decide (a.toInt ≤ b.toInt)
  | .gt, a, b => decide (b.toInt < a.toInt)
  | .ge, a, b => decide (b.toInt ≤ a.toInt)
  | .ltu, a, b => decide (a.toNat < b.toNat)
  | .leu, a, b => decide (a.toNat ≤ b.toNat)
  | .gtu, a, b => decide (b.toNat < a.toNat)
  | .geu, a, b => decide (b.toNat ≤ a.toNat)

def immRelation : CcImm → Cc
  | .eq => .eq
  | .ne => .ne
  | .lt => .lt
  | .le => .le
  | .gt => .gt
  | .ge => .ge
  | .ltu => .ltu
  | .geu => .geu

/-- How a predicate joins the old condition bit. -/
def joined : Comb → Bool → Bool → Bool
  | .set, _, r => r
  | .and, o, r => o && r
  | .or, o, r => o || r
  | .xor, o, r => o != r

/-- The condition bits that the comparing and condition-bit forms leave. -/
def conditionRule : Instr → Option (Crew → Thread → W8)
  | .icmp cc comb k a b => some fun c t =>
      setBit8 t.cond k.toNat (joined comb (t.cond.getLsbD k.toNat) (relation cc (srcI c t a) (srcI c t b)))
  | .icmpi cc k a imm => some fun c t =>
      setBit8 t.cond k.toNat (relation (immRelation cc) (srcI c t a) (imm.signExtend 32))
  | .cbop x y z table => some fun _ t =>
      setBit8 t.cond x.toNat (table.getLsbD (2 * (t.cond.getLsbD y.toNat).toNat + (t.cond.getLsbD z.toNat).toNat))
  | .cbmvPut x y => some fun _ t => setBit8 t.cond y.toNat (decide ((t.v x.toNat).toNat % 2 = 1))
  | .cbmvPutAll x => some fun _ t => BitVec.ofNat 8 (t.v x.toNat).toNat
  | .nop => some fun _ t => t.cond
  | _ => none

/-- ICMP, ICMPI, CBOP and CBMV.put write condition bits and nothing else, and NOP not even these (15 R315, R325;
14 R303). -/
def conditionResults : Prop :=
  ∀ i f, conditionRule i = some f → ∀ s : State, ∃ s', exec i s = .next s' ∧ groupOnly s s'
    ∧ ∀ c tid t, InGroup s c tid t → s'.thread? s.cur.place tid = some (s.goneOn { t with cond := f c t })

/-- The forms that write C(7), a pair or condition bits (14 R286, R288, R303; 15 R315, R325; 17 R367, R374). -/
def Obligations.CarryPairAndCondition : Prop := carryResults ∧ pairResults ∧ conditionResults

/-! ## Floating point -/

/-- The destination, and the result with its flags, of the 32-bit floating-point forms, of operands of kind F. -/
def floatRule : Instr → Option (VReg × (Crew → Thread → Nat × Fl))
  | .fadd rm d a b => some (d, fun c t => FpFmt.fp32.add rm (srcF c t a).toNat (srcF c t b).toNat)
  | .fsub rm d a b => some (d, fun c t => FpFmt.fp32.sub rm (srcF c t a).toNat (srcF c t b).toNat)
  | .fmul rm d a b => some (d, fun c t => FpFmt.fp32.mul rm (srcF c t a).toNat (srcF c t b).toNat)
  | .fdiv rm d a b => some (d, fun c t => FpFmt.fp32.div rm (srcF c t a).toNat (srcF c t b).toNat)
  | .ffma d a b e => some (d, fun _ t =>
      FpFmt.fp32.fma (t.v a.toNat).toNat (t.v b.toNat).toNat (t.v e.toNat).toNat)
  | .fmin d a b => some (d, fun c t => FpFmt.fp32.minMax false (srcF c t a).toNat (srcF c t b).toNat)
  | .fmax d a b => some (d, fun c t => FpFmt.fp32.minMax true (srcF c t a).toNat (srcF c t b).toNat)
  | .fcls d a => some (d, fun c t => (2 ^ fclass (srcF c t a).toNat, 0))
  | .frnd rm d a => some (d, fun c t => roundIntegral rm (srcF c t a).toNat)
  | .frcp d a => some (d, fun c t => frcp (srcF c t a).toNat)
  | .frsq d a => some (d, fun c t => frsq (srcF c t a).toNat)
  | .fsqt d a => some (d, fun c t => fsqt (srcF c t a).toNat)
  | .fexp d a => some (d, fun c t => fexp (srcF c t a).toNat)
  | .flog d a => some (d, fun c t => flog (srcF c t a).toNat)
  | .fspi d a => some (d, fun c t => trigOf .fp32 false (FpFmt.fp32.decode (srcF c t a).toNat))
  | .fcpi d a => some (d, fun c t => trigOf .fp32 true (FpFmt.fp32.decode (srcF c t a).toNat))
  | _ => none

/-- The two elements of a packed result: element 0 of the low halves, element 1 of the high halves. -/
def packedPair (r0 r1 : Nat × Fl) : Nat × Fl := (r0.1 % 65536 + 65536 * (r1.1 % 65536), r0.2 ||| r1.2)
def packed2 (f : Nat → Nat → Nat × Fl) (x y : W32) : Nat × Fl :=
  packedPair (f (x.toNat % 65536) (y.toNat % 65536)) (f (x.toNat / 65536) (y.toNat / 65536))
def packed3 (f : Nat → Nat → Nat → Nat × Fl) (x y z : W32) : Nat × Fl :=
  packedPair (f (x.toNat % 65536) (y.toNat % 65536) (z.toNat % 65536))
    (f (x.toNat / 65536) (y.toNat / 65536) (z.toNat / 65536))

/-- The same for the packed forms, the conversions to one register and RNG. -/
def packedRule : Instr → Option (VReg × (Crew → Thread → Nat × Fl))
  | .hadd2 h d a b => some (d, fun c t => packed2 (h.fp.add .rne) (srcH h.fp c t a) (srcH h.fp c t b))
  | .hsub2 h d a b => some (d, fun c t => packed2 (h.fp.sub .rne) (srcH h.fp c t a) (srcH h.fp c t b))
  | .hmul2 h d a b => some (d, fun c t => packed2 (h.fp.mul .rne) (srcH h.fp c t a) (srcH h.fp c t b))
  | .hmin2 h d a b => some (d, fun c t => packed2 (h.fp.minMax false) (srcH h.fp c t a) (srcH h.fp c t b))
  | .hmax2 h d a b => some (d, fun c t => packed2 (h.fp.minMax true) (srcH h.fp c t a) (srcH h.fp c t b))
  | .hfma2F16 d a b e => some (d, fun _ t => packed3 FpFmt.fp16.fma (t.v a.toNat) (t.v b.toNat) (t.v e.toNat))
  | .hfma2Bf16 d a b e => some (d, fun _ t => packed3 FpFmt.bf16.fma (t.v a.toNat) (t.v b.toNat) (t.v e.toNat))
  | .cvt dst src rm sat x y => some (x, fun c t =>
      ((cvtWord dst src rm sat c.fp4x (t.v y.toNat)).1.toNat, (cvtWord dst src rm sat c.fp4x (t.v y.toNat)).2))
  | .qpack nf wf x y z => some (x, fun _ t =>
      let r := qpackWord nf wf (t.v z.toNat) (t.v (z.toNat + 1)) (t.wideGroup wf y nf.count)
      (r.1.toNat, r.2))
  | .qscl nf wf x y z => some (x, fun _ t =>
      let m := (t.v y.toNat).toNat
      let r := qscl nf wf (if wf = .fp32 then m else m % 65536) (t.v z.toNat)
      (r.1.toNat, r.2))
  | .rng x y z k => some (x, fun c t =>
      ((cg64 (W32.pair (c.g' k.toNat) (c.g' (k.toNat + 1))) (t.v y.toNat) (t.v z.toNat) (c.g' (k.toNat + 2))).toNat, 0))
  | _ => none

/-- The instruction completes for every issue group: each of its threads writes V(D), adds its flags to those it has
(05 R95: they are sticky), and goes on; nothing else changes. -/
def writesFloat (i : Instr) (d : VReg) (f : Crew → Thread → Nat × Fl) : Prop :=
  ∀ s : State, ∃ s', exec i s = .next s' ∧ groupOnly s s'
    ∧ ∀ c tid t, InGroup s c tid t → s'.thread? s.cur.place tid
        = some (s.goneOn { t.setV d.toNat (BitVec.ofNat 32 (f c t).1) with fpf := t.fpf ||| (f c t).2 })

/-- FADD, FSUB, FMUL, FDIV, FFMA, FMIN, FMAX, FCLS, FRND, FRCP, FRSQ, FSQT, FEXP, FLOG, FSPI, FCPI (15 R312, R316, R318,
R321). -/
def floatResults : Prop := ∀ i d f, floatRule i = some (d, f) → writesFloat i d f

/-- HADD2, HSUB2, HMUL2, HMIN2, HMAX2, HFMA2, CVT, QPACK, QSCL and RNG (15 R322, R324; 14 R307; 16 R355, R356;
17 R365). -/
def packedResults : Prop := ∀ i d f, packedRule i = some (d, f) → writesFloat i d f

/-- The destination, and the two components with their flags, of the complex forms. -/
def complexRule : Instr → Option (CType × VReg × (State → Crew → Nat → Thread → (Nat × Fl) × (Nat × Fl)))
  | .cadd ty d a b => some (ty, d, fun _ c _ t => cxAdd ty.fp (srcCx ty c t a) (srcCx ty c t b))
  | .csub ty d a b => some (ty, d, fun _ c _ t => cxSub ty.fp (srcCx ty c t a) (srcCx ty c t b))
  | .cmul ty d a b => some (ty, d, fun _ c _ t => cxMul ty.fp (srcCx ty c t a) (srcCx ty c t b))
  | .crot ty d a b => some (ty, d, fun _ c _ t => cxRot ty.fp (srcCx ty c t a) (srcCx ty c t b))
  | .cmag ty d a => some (ty, d, fun _ c _ t => (cxMag ty.fp (srcCx ty c t a), (0, 0)))
  | .carg ty d a => some (ty, d, fun _ c _ t => (cxArg ty.fp (srcCx ty c t a), (0, 0)))
  | .cexi ty d a => some (ty, d, fun _ c _ t => cxExi ty.fp (srcCx ty c t a))
  | .cfmaFp16 d a b e => some (.fp16, d, fun _ _ _ t => cxFma .fp16 (t.cx .fp16 a) (t.cx .fp16 b) (t.cx .fp16 e))
  | .cfmaBf16 d a b e => some (.bf16, d, fun _ _ _ t => cxFma .bf16 (t.cx .bf16 a) (t.cx .bf16 b) (t.cx .bf16 e))
  | .cfmaFp32 d a b e => some (.fp32, d, fun _ _ _ t => cxFma .fp32 (t.cx .fp32 a) (t.cx .fp32 b) (t.cx .fp32 e))
  | .twid ty inv d a n => some (ty, d, fun _ c _ t =>
      let r := twiddle ty.fp inv (srcI c t a).toNat n.toNat
      ((r.1.1, r.1.2 &&& Fl.inexact), (r.2.1, r.2.2 &&& Fl.inexact)))
  | _ => none

/-- A complex result in its registers: two halves of one register, or a pair for fp32 (14 R283). -/
def withComplex (t : Thread) (ty : CType) (d : VReg) (r : (Nat × Fl) × (Nat × Fl)) : Thread :=
  let u := match ty with
    | .fp32 => (t.setV d.toNat (BitVec.ofNat 32 r.1.1)).setV (d.toNat + 1) (BitVec.ofNat 32 r.2.1)
    | _ => t.setV d.toNat (BitVec.ofNat 32 (r.1.1 % 65536 + 65536 * (r.2.1 % 65536)))
  { u with fpf := t.fpf ||| (r.1.2 ||| r.2.2) }

/-- CADD, CSUB, CMUL, CROT, CMAG, CARG, CEXI, CFMA and TWID write both components, with the flags of both (14 R299,
R301, R304; 17 R381). -/
def Obligations.ComplexResults : Prop :=
  ∀ i ty d f, complexRule i = some (ty, d, f) → ∀ s : State, ∃ s', exec i s = .next s' ∧ groupOnly s s'
    ∧ ∀ c tid t, InGroup s c tid t → s'.thread? s.cur.place tid = some (s.goneOn (withComplex t ty d (f s c tid t)))

/-- QUNPK writes the elements of its group to consecutive registers and adds its flags (16 R358). -/
def unpackResults : Prop :=
  ∀ (nf : NFmt) (wf : CType) (x y z : VReg) (s : State), ∃ s', exec (.qunpk nf wf x y z) s = .next s' ∧ groupOnly s s'
    ∧ ∀ c tid t, InGroup s c tid t →
      let r := qunpkElems nf wf c.fp4x (t.v y.toNat) (t.v z.toNat) (t.v (z.toNat + 1))
      s'.thread? s.cur.place tid
        = some (s.goneOn { t.setVs x.toNat (wideWords wf r.1) with fpf := t.fpf ||| r.2 })

/-- The floating-point forms of one register, the packed forms and UNPK (chapter 05 and the entries). -/
def Obligations.FloatResults : Prop := floatResults ∧ packedResults ∧ unpackResults

/-- An exactly representable sum, difference, product, fused product and sum, or quotient of finite FP32 values other
than zero is delivered, with no flag, in every rounding mode (05 R91, R93, R94, R97). -/
def Obligations.ExactResultsAreDelivered : Prop :=
  ∀ (rm : Rm) (a b c r : W32) (x y z w : Int),
    unitsOf .fp32 a.toNat = some x → unitsOf .fp32 b.toNat = some y → unitsOf .fp32 c.toNat = some z →
    unitsOf .fp32 r.toNat = some w → w ≠ 0 →
    let one := unitsPerOne .fp32
    (x + y = w → FpFmt.fp32.add rm a.toNat b.toNat = (r.toNat, 0))
    ∧ (x - y = w → FpFmt.fp32.sub rm a.toNat b.toNat = (r.toNat, 0))
    ∧ (x * y = w * one → FpFmt.fp32.mul rm a.toNat b.toNat = (r.toNat, 0))
    ∧ (x * y + z * one = w * one → FpFmt.fp32.fma a.toNat b.toNat c.toNat = (r.toNat, 0))
    ∧ (x * one = w * y → y ≠ 0 → FpFmt.fp32.div rm a.toNat b.toNat = (r.toNat, 0))

/-- A NaN code of FP32, and a signalling one. -/
def isNanCode (x : W32) : Bool := decide (0x7F800000 < x.toNat % 2 ^ 31)
def isSignallingCode (x : W32) : Bool := isNanCode x && !x.getLsbD 22

/-- The first NaN of the operands, quieted, decides the result of an FP32 operation, and invalid is raised when an
operand is a signalling NaN (05 R96). -/
def Obligations.FirstNanDecides : Prop :=
  ∀ (rm : Rm) (a b c : W32), isNanCode a || isNanCode b || isNanCode c →
    let quiet (x : W32) : Nat := (x ||| 0x00400000).toNat
    let two : Nat × Fl := (if isNanCode a then quiet a else quiet b,
      if isSignallingCode a || isSignallingCode b then Fl.invalid else 0)
    (isNanCode a || isNanCode b →
      FpFmt.fp32.add rm a.toNat b.toNat = two ∧ FpFmt.fp32.sub rm a.toNat b.toNat = two
      ∧ FpFmt.fp32.mul rm a.toNat b.toNat = two ∧ FpFmt.fp32.div rm a.toNat b.toNat = two
      ∧ FpFmt.fp32.minMax false a.toNat b.toNat = two ∧ FpFmt.fp32.minMax true a.toNat b.toNat = two)
    ∧ FpFmt.fp32.fma a.toNat b.toNat c.toNat
        = (if isNanCode a then quiet a else if isNanCode b then quiet b else quiet c,
           if isSignallingCode a || isSignallingCode b || isSignallingCode c then Fl.invalid else 0)

/-- The place of a code that is no NaN in the order of FP32 values: −0 and +0 together, or −0 below +0. -/
def floatPlace (x : W32) : Int := if x.msb then -((x.toNat % 2 ^ 31 : Nat) : Int) else (x.toNat % 2 ^ 31 : Nat)
def floatPlaceZeros (x : W32) : Int := if x.msb then floatPlace x - 1 else floatPlace x

/-- A floating-point predicate of 15 Table 15.8. -/
def floatRelation (p : FPred) (a b : W32) : Bool :=
  let nan := isNanCode a || isNanCode b
  match p with
  | .eq => !nan && decide (floatPlace a = floatPlace b)
  | .ne => nan || decide (floatPlace a ≠ floatPlace b)
  | .lt => !nan && decide (floatPlace a < floatPlace b)
  | .le => !nan && decide (floatPlace a ≤ floatPlace b)
  | .gt => !nan && decide (floatPlace b < floatPlace a)
  | .ge => !nan && decide (floatPlace b ≤ floatPlace a)
  | .ord => !nan
  | .uno => nan

/-- The class of 15 Table 15.6. -/
def floatClass (x : W32) : Nat :=
  let m := x.toNat % 2 ^ 31
  if m > 0x7F800000 then (if x.getLsbD 22 then 1 else 0)
  else if m = 0x7F800000 then (if x.msb then 2 else 9)
  else if 0x800000 ≤ m then (if x.msb then 3 else 8)
  else if m ≠ 0 then (if x.msb then 4 else 7)
  else if x.msb then 5 else 6

/-- FCMP compares by value, unordered with a NaN, and raises invalid for signalling operands alone; HCMP2 compares its
two elements; FMIN and FMAX of operands that are no NaN give the lesser and the greater code, −0 below +0; FCLS's class
(15 R315, R323; 05 R98; 15 Table 15.6). -/
def Obligations.FloatOrderAndClass : Prop :=
  (∀ (p : FPred) (comb : Comb) (k : CBit) (x y : Src7) (s : State), ∃ s', exec (.fcmp p comb k x y) s = .next s'
    ∧ groupOnly s s' ∧ ∀ c tid t, InGroup s c tid t →
      let a := srcF c t x
      let b := srcF c t y
      s'.thread? s.cur.place tid = some (s.goneOn { t with
        cond := setBit8 t.cond k.toNat (joined comb (t.cond.getLsbD k.toNat) (floatRelation p a b))
        fpf := t.fpf ||| (if isSignallingCode a || isSignallingCode b then Fl.invalid else 0) }))
  ∧ (∀ a b : W32, isNanCode a = false → isNanCode b = false →
      FpFmt.fp32.minMax false a.toNat b.toNat = ((if floatPlaceZeros a < floatPlaceZeros b then a else b).toNat, 0)
      ∧ FpFmt.fp32.minMax true a.toNat b.toNat = ((if floatPlaceZeros a < floatPlaceZeros b then b else a).toNat, 0))
  ∧ (∀ a : W32, fclass a.toNat = floatClass a)
  ∧ ∀ (p : FPred) (h : Half) (comb : Comb) (k : BitVec 2) (x y : Src7) (s : State),
    ∃ s', exec (.hcmp2 p h comb k x y) s = .next s' ∧ groupOnly s s' ∧ ∀ c tid t, InGroup s c tid t →
      let a := (srcH h.fp c t x).toNat
      let b := (srcH h.fp c t y).toNat
      let r0 := h.fp.compare p (a % 65536) (b % 65536)
      let r1 := h.fp.compare p (a / 65536) (b / 65536)
      let j := 2 * k.toNat
      s'.thread? s.cur.place tid = some (s.goneOn { t with
        cond := setBit8 (setBit8 t.cond j (joined comb (t.cond.getLsbD j) r0.1)) (j + 1)
          (joined comb (t.cond.getLsbD (j + 1)) r1.1)
        fpf := t.fpf ||| (r0.2 ||| r1.2) })

/-! ## Across the threads of a group -/

/-- The partner that SHUF names, of thread i with operand n: none out of 0 to 31. -/
def shufPartner : Instr → Option (VReg × Src7 × Src7 × (Nat → Nat → Option Nat))
  | .shufIdx d a b => some (d, a, b, fun _ n => if n < 32 then some n else none)
  | .shufXor d a b => some (d, a, b, fun i n => if i ^^^ n < 32 then some (i ^^^ n) else none)
  | .shufUp d a b => some (d, a, b, fun i n => if n ≤ i ∧ i < 32 + n then some (i - n) else none)
  | .shufDown d a b => some (d, a, b, fun i n => if i + n < 32 then some (i + n) else none)
  | _ => none

/-- SHUF: each thread takes its partner's value, read before any write, and clears c6; with no partner in the group it
takes its own and sets c6 (17 R370). -/
def shuffleResults : Prop :=
  ∀ i d a b partner, shufPartner i = some (d, a, b, partner) → ∀ s : State, ∃ s', exec i s = .next s' ∧ groupOnly s s'
    ∧ ∀ c tid t, InGroup s c tid t →
      (∀ j u, partner tid (srcI c t b).toNat = some j → InGroup s c j u →
        s'.thread? s.cur.place tid
          = some (s.goneOn { t.setV d.toNat (srcI c u a) with cond := setBit8 t.cond 6 false }))
      ∧ ((∀ j u, partner tid (srcI c t b).toNat = some j → ¬ InGroup s c j u) →
        s'.thread? s.cur.place tid
          = some (s.goneOn { t.setV d.toNat (srcI c t a) with cond := setBit8 t.cond 6 true }))

/-- VOTE: every thread gets whether c(K) holds in all, or in any, of the group's threads, or the mask of those in which
it holds (17 R385). -/
def voteResults : Prop :=
  ∀ (d : VReg) (k : CBit) (s : State),
    ∃ s1 s2 s3, exec (.voteAll d k) s = .next s1 ∧ exec (.voteAny d k) s = .next s2
      ∧ exec (.voteBallot d k) s = .next s3 ∧ groupOnly s s1 ∧ groupOnly s s2 ∧ groupOnly s s3
      ∧ ∀ c tid t, InGroup s c tid t →
        let holds (j : Nat) : Prop := ∃ u, InGroup s c j u ∧ u.cond.getLsbD k.toNat = true
        ∃ x y z, s1.thread? s.cur.place tid = some (s.goneOn (t.setV d.toNat x))
          ∧ s2.thread? s.cur.place tid = some (s.goneOn (t.setV d.toNat y))
          ∧ s3.thread? s.cur.place tid = some (s.goneOn (t.setV d.toNat z))
          ∧ (x = 1 ↔ ∀ j ∈ s.cur.tids, holds j) ∧ (x = 0 ∨ x = 1)
          ∧ (y = 1 ↔ ∃ j ∈ s.cur.tids, holds j) ∧ (y = 0 ∨ y = 1)
          ∧ ∀ j, j < 32 → (z.getLsbD j = true ↔ holds j)

/-- BFLY: the pair of threads tid and tid XOR dist forms the two outputs of one butterfly; a thread whose partner is not
in the group keeps its own value and sets c6 (14 R294). -/
def butterflyResults : Prop :=
  ∀ (ty : CType) (x y z : VReg) (k : BitVec 3) (s : State), ∃ s', exec (.bfly ty x y z k) s = .next s' ∧ groupOnly s s'
    ∧ ∀ c tid t, InGroup s c tid t →
      let j := tid ^^^ 2 ^ k.toNat
      (∀ u, InGroup s c j u →
        let r := if tid.testBit k.toNat then cxButterflyUpper ty.fp (u.cx ty z) (t.cx ty y) (u.cx ty y)
          else cxFma ty.fp (t.cx ty z) (u.cx ty y) (t.cx ty y)
        s'.thread? s.cur.place tid
          = some (s.goneOn { withComplex t ty x r with cond := setBit8 t.cond 6 false }))
      ∧ ((∀ u, ¬ InGroup s c j u) → s'.thread? s.cur.place tid
          = some (s.goneOn { withComplex t ty x (((t.cx ty y).re, 0), ((t.cx ty y).im, 0)) with
              cond := setBit8 t.cond 6 true }))

/-- SHUF, VOTE and BFLY read the registers of their whole issue group (02 R26; 14 R294; 17 R370, R385). -/
def Obligations.CrossThreadResults : Prop := shuffleResults ∧ voteResults ∧ butterflyResults

/-! ## Uniform results -/

/-- The destination and value of the uniform forms, on exact integers (17 Table 17.8). -/
def uniformRule : Instr → Option (GReg × (Crew → W32))
  | .uadd d a b => some (d, fun c => BitVec.ofNat 32 ((src6 c a).toNat + (src6 c b).toNat))
  | .usub d a b => some (d, fun c => BitVec.ofInt 32 ((src6 c a).toNat - (src6 c b).toNat))
  | .umul d a b => some (d, fun c => BitVec.ofNat 32 ((src6 c a).toNat * (src6 c b).toNat))
  | .umin d a b => some (d, fun c => BitVec.ofInt 32 (min (src6 c a).toInt (src6 c b).toInt))
  | .umax d a b => some (d, fun c => BitVec.ofInt 32 (max (src6 c a).toInt (src6 c b).toInt))
  | .ulea d a b n => some (d, fun c => BitVec.ofNat 32 ((src6 c a).toNat + (src6 c b).toNat * 2 ^ n.toNat))
  | .uand d a b => some (d, fun c => wordOf fun i => (src6 c a).getLsbD i && (src6 c b).getLsbD i)
  | .uor d a b => some (d, fun c => wordOf fun i => (src6 c a).getLsbD i || (src6 c b).getLsbD i)
  | .uxor d a b => some (d, fun c => wordOf fun i => (src6 c a).getLsbD i != (src6 c b).getLsbD i)
  | .ushl d a b => some (d, fun c => wordOf fun i =>
      decide ((src6 c b).toNat ≤ i) && (src6 c a).getLsbD (i - (src6 c b).toNat))
  | .ushr d a b => some (d, fun c => wordOf fun i => (src6 c a).getLsbD (i + (src6 c b).toNat))
  | .usar d a b => some (d, fun c => wordOf fun i => (src6 c a).getLsbD (min 31 (i + (src6 c b).toNat)))
  | .umov d a => some (d, fun c => src6 c a)
  | .ucmp cc d a b => some (d, fun c => BitVec.ofNat 32 (relation cc (src6 c a) (src6 c b)).toNat)
  | .usel d a b => some (d, fun c => if c.g.getD d.toNat 0 = 0 then src6 c b else src6 c a)
  | .umoviLo d imm => some (d, fun _ => BitVec.ofNat 32 imm.toNat)
  | .umoviSx d imm => some (d, fun _ => BitVec.ofInt 32 imm.toInt)
  | .umoviHi d imm => some (d, fun c => BitVec.ofNat 32 (imm.toNat * 65536 + (c.g.getD d.toNat 0).toNat % 65536))
  | _ => none

/-- UADD, USUB, UMUL, UMIN, UMAX, ULEA, UAND, UOR, UXOR, USHL, USHR, USAR, UMOV, UCMP, USEL and UMOVI: one result for the
crew's G(D); the group's threads go on, and nothing else changes (02 R32; 17 R382, R383). -/
def uniformResults : Prop :=
  ∀ i d f, uniformRule i = some (d, f) → ∀ (s : State) (c : Crew), s.crew? s.cur.place = some c → s.cur.tids.Nodup →
    ∃ s' c', exec i s = .next s' ∧ s'.crew? s.cur.place = some c'
      ∧ s' = { s with crews := s'.crews, cur := { s.cur with done := s'.cur.done } }
      ∧ (∀ p, p ≠ s.cur.place → s'.crew? p = s.crew? p)
      ∧ c' = { c with g := c.g.set d.toNat (f c), threads := c'.threads }
      ∧ (∀ tid t, InGroup s c tid t → c'.threads[tid]? = some (s.goneOn t))
      ∧ ∀ j, j ∉ s.cur.tids → c'.threads[j]? = c.threads[j]?

/-! ## Accesses that reach device memory -/

/-- The access of thread tid reaches device memory at pa, aligned as its pages are (08 R176), and no uncorrectable error
stands there. -/
def reaches (s s1 : State) (tid : Nat) (va : W64) (n : Nat) (k : AccKind) (pa h : Nat) (e : TlbEntry) : Prop :=
  s.check s.cur.place tid va n k = (.device pa h e, s1) ∧ s1.poisoned pa n = false ∧ pa % n = 0

/-- No copy of the line is held by the column, nor by the die when its home is the other die: a load comes from the home
(07 R163). -/
def uncopied (s : State) (pa h : Nat) : Prop :=
  (∀ k ∈ (s.col s.cur.place.die s.cur.place.col).copies, k.line ≠ pa / 128)
    ∧ (h = s.cur.place.die ∨ ∀ k ∈ (s.die s.cur.place.die).rdc, k.line ≠ pa / 128) ∧ homeOf pa = some h

/-- Every byte of every store reads as before, but n bytes at a of one store, which read as given. -/
def storesBytes (s s' : State) (sp : Space) (a n : Nat) (f : Nat → W8) : Prop :=
  ∀ sp' b, sp'.real → s'.byte sp' b = if sp' = sp ∧ a ≤ b ∧ b < a + n then f (b - a) else s.byte sp' b

/-! ## Branches, calls and returns -/

/-- BRA takes its target and a backward one clears the tag; BRI takes the pair's value and keeps the tag (14 R292, R297;
02 R28). -/
def jumpResults : Prop :=
  ∀ (off : BitVec 19) (a : Src7) (s : State), s.cur.tids.Nodup →
    (∃ s', exec (.bra off) s = .next s' ∧ groupOnly s s' ∧ ∀ c tid t, InGroup s c tid t →
      s'.thread? s.cur.place tid = some { t with
        pc := BitVec.ofInt 64 (t.pc.toNat + 4 * off.toInt), tag := t.tag && decide (0 ≤ off.toInt) })
    ∧ ∃ s', exec (.bri a) s = .next s' ∧ groupOnly s s' ∧ ∀ c tid t, InGroup s c tid t →
      s'.thread? s.cur.place tid = some { t with pc := srcA c t a }

/-- BC: a thread whose condition is met goes to the target, another to the next word; in a group that resolves to both,
a thread's tag says that it did not go where the hint said; else a taken backward branch clears it (14 R292; 02 R27,
R28). -/
def conditionalBranchResults : Prop :=
  ∀ (k : CBit) (inv hint : Bool) (off : BitVec 19) (s : State), s.cur.tids.Nodup →
    ∃ s', exec (.bc k inv hint off) s = .next s' ∧ groupOnly s s' ∧ ∀ c tid t, InGroup s c tid t →
      let met (u : Thread) : Bool := u.cond.getLsbD k.toNat != inv
      let apart : Prop := off ≠ 1 ∧ (∃ j u, InGroup s c j u ∧ met u = true) ∧ ∃ j u, InGroup s c j u ∧ met u = false
      ∃ tag, s'.thread? s.cur.place tid = some { t with
          pc := if met t then BitVec.ofInt 64 (t.pc.toNat + 4 * off.toInt) else t.pc + 4, tag }
        ∧ (apart → tag = (met t != hint))
        ∧ (¬ apart → tag = (t.tag && !(met t && decide (off.toInt < 0))))

/-- BRA, BRI and BC (14 R292, R297; 02 R27, R28). -/
def Obligations.BranchResults : Prop := jumpResults ∧ conditionalBranchResults

/-- A window position that needs neither a spill nor a refill (04 R79). -/
def fits (t : Thread) (fb : Nat) : Prop := t.sm.toNat ≤ fb ∧ fb + 64 ≤ t.sm.toNat + t.stripe.length

/-- A call: the entry is pushed, the window moves by w, the target is taken. -/
def called (t : Thread) (w : Nat) (target : W64) : Thread :=
  { t with rstack := ⟨t.pc + 4, t.fb, .call⟩ :: t.rstack, rsd := t.rsd + 1, fb := BitVec.ofNat 32 (t.fb.toNat + w)
           pc := target }

/-- CALL, CALLC (met or not) and CALLI of a thread with room on its return stack and in its stripe (14 R300; 04 R79,
R83). -/
def callResults : Prop :=
  ∀ (s : State) (c : Crew) (tid : Nat) (t : Thread) (w : BitVec 6), Alone s c tid t → t.rstack.length < 16 →
    fits t (t.fb.toNat + w.toNat) →
    let leads (i : Instr) (u : Thread) : Prop := ∃ s', exec i s = .next s' ∧ groupOnly s s'
      ∧ s'.thread? s.cur.place tid = some u
    (∀ off, leads (.call w off) (called t w.toNat (BitVec.ofInt 64 (t.pc.toNat + 4 * BitVec.toInt off))))
    ∧ (∀ y, leads (.calli w y) (called t w.toNat (t.pair (BitVec.toNat y))))
    ∧ ∀ k inv off, leads (.callc w k inv off)
        (if t.cond.getLsbD (BitVec.toNat k) != inv then called t w.toNat (BitVec.ofInt 64 (t.pc.toNat + 4 * BitVec.toInt off))
         else { t with pc := t.pc + 4 })

/-- RET and RETC of a thread whose top entry is a call and whose window fits there: the entry is popped, the window and
the PC are its (17 R364; 04 R80). -/
def returnResults : Prop :=
  ∀ (s : State) (c : Crew) (tid : Nat) (t : Thread) (pc : W64) (fb : W32) (rest : List REntry), Alone s c tid t →
    t.rstack = ⟨pc, fb, .call⟩ :: rest → fits t fb.toNat →
    let u : Thread := { t with rstack := rest, rsd := t.rsd - 1, fb, pc }
    (∃ s', exec .ret s = .next s' ∧ groupOnly s s' ∧ s'.thread? s.cur.place tid = some u)
    ∧ ∀ k inv, ∃ s', exec (.retc k inv) s = .next s' ∧ groupOnly s s' ∧ s'.thread? s.cur.place tid
        = some (if t.cond.getLsbD (BitVec.toNat k) != inv then u else { t with pc := t.pc + 4 })

/-- The returns that a thread makes: RET, and RETC where its condition is met (04 R78, R83). -/
def returns (t : Thread) (i : Instr) : Prop :=
  i = .ret ∨ ∃ k inv, i = .retc k inv ∧ (t.cond.getLsbD (BitVec.toNat k) != inv) = true

/-- The 16 bytes of a spilled entry (04 R80). -/
def entrySays (l : List W8) (e : REntry) : Prop :=
  l.length = 16 ∧ fieldAt l 0 8 = e.pc.toNat ∧ fieldAt l 8 4 = e.fb.toNat
    ∧ fieldAt l 12 4 = (match e.kind with
      | .call => 0
      | .trap => 1)

/-- The top entry of a thread's return stack, and the state once it is known: that of the hardware stack; with that empty, the
one at the top of the link area, which one 16-byte access of the thread reads; none with both empty (04 R80, R82). -/
def topEntryIs (s : State) (c : Crew) (tid : Nat) (t : Thread) (e : Option REntry) (s1 : State) : Prop :=
  let b := s.backing c tid
  (s1 = s ∧ t.rstack.head? = e ∧ (t.rstack = [] → t.lk.toNat < 16))
    ∨ (t.rstack = [] ∧ 16 ≤ t.lk.toNat ∧ t.lk.toNat ≤ b.size / 2 ∧ ∃ l x, entrySays l x ∧ e = some x
      ∧ s.stackLoad s.cur.place tid (b.base + t.lk.toNat - 16) 16 = (.ok l, s1))

/-- A return with no entry left, in the hardware stack or in the link area, or with a trap entry on top of either, takes
RETURN_UNDERFLOW, and nothing has been popped (04 R84, 17 R364). -/
def returnUnderflow : Prop :=
  ∀ (i : Instr) (s s1 : State) (c : Crew) (tid : Nat) (t : Thread) (e : Option REntry), Alone s c tid t → returns t i →
    topEntryIs s c tid t e s1 → (∀ x, e = some x → x.kind = .trap) →
    exec i s = .next (s1.fault s.cur.place tid ⟨.returnUnderflow, none, 0, 0⟩ (some s.cur.word))
      ∧ ∃ u, s1.thread? s.cur.place tid = some u ∧ u = { t with pts := u.pts }

/-- A call of a thread whose hardware return stack is full first spills the oldest entry, in one 16-byte access at B + lk
in the link area (04 R80 to R83). -/
def callSpillsEntry : Prop :=
  ∀ (s s1 : State) (c : Crew) (tid : Nat) (t : Thread) (w : BitVec 6) (off : BitVec 18) (pa h : Nat) (x : TlbEntry)
    (e : REntry), Alone s c tid t → s.globalWf = true → t.rstack.length = 16 → t.rstack.getLast? = some e →
    fits t (t.fb.toNat + w.toNat) →
    let b := s.backing c tid
    t.lk.toNat + 16 ≤ b.size / 2 → reaches s s1 tid (BitVec.ofNat 64 (b.base + t.lk.toNat)) 16 .write pa h x →
    ∃ s' l u, exec (.call w off) s = .next s' ∧ s'.thread? s.cur.place tid = some u
      ∧ u = { t with
          rstack := ⟨t.pc + 4, t.fb, .call⟩ :: t.rstack.dropLast, lk := t.lk + 16, rsd := t.rsd + 1
          fb := BitVec.ofNat 32 (t.fb.toNat + w.toNat), pc := BitVec.ofInt 64 (t.pc.toNat + 4 * off.toInt), pts := u.pts }
      ∧ entrySays l e ∧ storesBytes s s' .dev pa 16 fun i => l.getD i 0

/-- A return of a thread whose hardware return stack is empty first refills one entry, in one 16-byte access, from the top
of the link area, at B + lk − 16; a trap entry there is RETURN_UNDERFLOW, and nothing is popped (04 R80 to R83, 17 R364). -/
def returnRefillsEntry : Prop :=
  ∀ (i : Instr) (s s1 : State) (c : Crew) (tid : Nat) (t : Thread) (pa h : Nat) (x : TlbEntry), Alone s c tid t →
    returns t i → t.rstack = [] →
    let b := s.backing c tid
    16 ≤ t.lk.toNat → t.lk.toNat ≤ b.size / 2 → uncopied s pa h →
    reaches s s1 tid (BitVec.ofNat 64 (b.base + t.lk.toNat - 16)) 16 .read pa h x →
    let l := s.bytes .dev pa 16
    (fieldAt l 12 4 = 0 → fits t (fieldAt l 8 4) →
      ∃ s' u, exec i s = .next s' ∧ sameBytes s s' ∧ s'.thread? s.cur.place tid = some u
        ∧ u = { t with
            pc := BitVec.ofNat 64 (fieldAt l 0 8), fb := BitVec.ofNat 32 (fieldAt l 8 4), rsd := t.rsd - 1
            lk := t.lk - 16, pts := u.pts })
    ∧ (fieldAt l 12 4 = 1 → ∃ s2 u, exec i s = .next (s2.fault s.cur.place tid ⟨.returnUnderflow, none, 0, 0⟩ (some s.cur.word))
        ∧ sameBytes s s2 ∧ s2.thread? s.cur.place tid = some u ∧ u = { t with pts := u.pts })

/-- Where logical register n is held in memory: B + stacksize/2 + 4n (04 R81). -/
def registerAt (b : Store) (n : Nat) : W64 := BitVec.ofNat 64 (b.base + b.size / 2 + 4 * n)

/-- A call that would pass the top of the stripe by n registers first spills n, then pushes and branches (04 R79, R83). A
spill of n + 1 is that of one register and then that of n; the spill of one stores the logical register at the mark, in one
4-byte access in the register area, and the mark rises by 1 (04 R79, R81, R82). -/
def callSpillsRegisters : Prop :=
  ∀ (s : State) (c : Crew) (tid : Nat) (t : Thread), Alone s c tid t →
    let b := s.backing c tid
    let p := s.cur.place
    (∀ (w : BitVec 6) (off : BitVec 18) (s2 : State) (t2 : Thread), t.rstack.length < 16 →
      t.sm.toNat + t.stripe.length < t.fb.toNat + BitVec.toNat w + 64 →
      s.spillRegs p tid b (t.fb.toNat + BitVec.toNat w + 64 - t.stripe.length - t.sm.toNat) = (none, s2) →
      s2.thread? p tid = some t2 →
      ∃ s', exec (.call w off) s = .next s' ∧ s' = { s2 with crews := s'.crews }
        ∧ s'.thread? p tid = some { t2 with
            rstack := ⟨t.pc + 4, t.fb, .call⟩ :: t2.rstack, rsd := t2.rsd + 1
            fb := BitVec.ofNat 32 (t.fb.toNat + BitVec.toNat w), pc := BitVec.ofInt 64 (t.pc.toNat + 4 * BitVec.toInt off) })
    ∧ (∀ n, s.spillRegs p tid b (n + 1) = match s.spillRegs p tid b 1 with
        | (none, s1) => s1.spillRegs p tid b n
        | r => r)
    ∧ ∀ (s1 : State) (pa h : Nat) (x : TlbEntry), s.globalWf = true →
      let i := t.sm.toNat % t.stripe.length
      4 * t.sm.toNat + 4 ≤ b.size - b.size / 2 → (∀ a ∈ t.awaiting, a.slot ≠ i) → i ∉ t.bad →
      reaches s s1 tid (registerAt b t.sm.toNat) 4 .write pa h x →
      ∃ s2 u, s.spillRegs p tid b 1 = (none, s2) ∧ s2.thread? p tid = some u
        ∧ u = { t with sm := t.sm + 1, pts := u.pts }
        ∧ storesBytes s s2 .dev pa 4 fun j => BitVec.ofNat 8 ((t.stripe.getD i 0).toNat / 256 ^ j)

/-- A return to a window one register below the mark refills that register, in one 4-byte access of the register area, and
the mark is the window's start (04 R79 to R83). -/
def returnRefillsRegister : Prop :=
  ∀ (i : Instr) (s s1 : State) (c : Crew) (tid : Nat) (t : Thread) (pc : W64) (fb : W32) (rest : List REntry) (pa h : Nat)
    (x : TlbEntry), Alone s c tid t → returns t i → t.rstack = ⟨pc, fb, .call⟩ :: rest → fb.toNat + 1 = t.sm.toNat →
    64 ≤ t.stripe.length →
    let b := s.backing c tid
    4 * fb.toNat + 4 ≤ b.size - b.size / 2 → uncopied s pa h → reaches s s1 tid (registerAt b fb.toNat) 4 .read pa h x →
    ∃ s' u, exec i s = .next s' ∧ sameBytes s s' ∧ s'.thread? s.cur.place tid = some u
      ∧ u = { t with
          rstack := rest, rsd := t.rsd - 1, fb, sm := fb, pc, stripe := u.stripe, bad := u.bad, awaiting := u.awaiting
          pts := u.pts }
      ∧ u.v 0 = BitVec.ofNat 32 (leNat (s.bytes .dev pa 4))
      ∧ (∀ j, j < t.stripe.length → j ≠ fb.toNat % t.stripe.length → u.stripe.getD j 0 = t.stripe.getD j 0)
      ∧ (∀ j, j ≠ fb.toNat % t.stripe.length → (j ∈ u.bad ↔ j ∈ t.bad))
      ∧ ∀ a : Awaiting, a.slot ≠ fb.toNat % t.stripe.length → (a ∈ u.awaiting ↔ a ∈ t.awaiting)

/-- A return to a window that lies n registers below the mark first refills n, then pops and branches: the registers from the
window's start on are those that were read, the mark is the window's start, and the stripe's other registers, and the
replies that they await, are as they were (04 R79, R83). A refill of n + 1 is that of one register and then that of n; the
refill of one reads it in one 4-byte access of the register area (04 R79, R81, R82). -/
def returnRefillsRegisters : Prop :=
  ∀ (s : State) (c : Crew) (tid : Nat) (t : Thread), Alone s c tid t →
    let b := s.backing c tid
    let p := s.cur.place
    (∀ (i : Instr) (s2 : State) (pc : W64) (fb : W32) (rest : List REntry) (vs : List W32), returns t i →
      t.rstack = ⟨pc, fb, .call⟩ :: rest → fb.toNat < t.sm.toNat → 64 ≤ t.stripe.length →
      s.readRegs p tid b (t.sm.toNat - fb.toNat) fb.toNat [] = (.ok vs, s2) →
      let slot (j : Nat) : Nat := (fb.toNat + j) % t.stripe.length
      let n := min (t.sm.toNat - fb.toNat) t.stripe.length
      ∃ s' u, exec i s = .next s' ∧ s' = { s2 with crews := s'.crews } ∧ s'.thread? p tid = some u
        ∧ u = { t with
            rstack := rest, rsd := t.rsd - 1, fb, sm := fb, pc, stripe := u.stripe, bad := u.bad, awaiting := u.awaiting
            pts := u.pts }
        ∧ u.stripe.length = t.stripe.length
        ∧ (∀ j, j < n → u.stripe.getD (slot j) 0 = vs.getD j 0)
        ∧ (∀ k, k < t.stripe.length → (∀ j, j < n → k ≠ slot j) → u.stripe.getD k 0 = t.stripe.getD k 0)
        ∧ (∀ k, k ∈ u.bad ↔ k ∈ t.bad ∧ ∀ j, j < n → k ≠ slot j)
        ∧ ∀ a : Awaiting, a ∈ u.awaiting ↔ a ∈ t.awaiting ∧ ∀ j, j < n → a.slot ≠ slot j)
    ∧ (∀ n x, s.readRegs p tid b (n + 1) x [] = match s.readRegs p tid b 1 x [] with
        | (.ok vs, s1) => (match s1.readRegs p tid b n (x + 1) [] with
          | (.ok ws, s2) => (.ok (vs ++ ws), s2)
          | r => r)
        | r => r)
    ∧ ∀ (s1 : State) (x pa h : Nat) (e : TlbEntry), 4 * x + 4 ≤ b.size - b.size / 2 → uncopied s pa h →
      reaches s s1 tid (registerAt b x) 4 .read pa h e →
      ∃ s2 u, s.readRegs p tid b 1 x [] = (.ok [BitVec.ofNat 32 (leNat (s.bytes .dev pa 4))], s2) ∧ sameBytes s s2
        ∧ s2.thread? p tid = some u ∧ u = { t with pts := u.pts }

/-- CALL, CALLC, CALLI, RET and RETC, their spills and their refills (14 R300, 17 R364; 04 R79 to R84). -/
def Obligations.CallsAndReturns : Prop :=
  callResults ∧ returnResults ∧ returnUnderflow ∧ callSpillsEntry ∧ returnRefillsEntry ∧ callSpillsRegisters
    ∧ returnRefillsRegister ∧ returnRefillsRegisters

/-- A call and the return from it bring the thread to the word after the call, with its registers, its window and its
return stack as they were; so do a call that spills the window's first register and a return that refills it (04 R79 to
R83). -/
def Obligations.CallThenReturn : Prop :=
  ∀ (s : State) (c : Crew) (tid : Nat) (t : Thread) (w : BitVec 6) (off : BitVec 18), Alone s c tid t →
    t.rstack.length < 16 →
    (t.sm.toNat ≤ t.fb.toNat → fits t (t.fb.toNat + w.toNat) →
      ∃ s1 s2, exec (.call w off) s = .next s1 ∧ exec .ret s1 = .next s2
        ∧ s2.thread? s.cur.place tid = some { t with pc := t.pc + 4 }
        ∧ ∀ n, ∀ u, s2.thread? s.cur.place tid = some u → u.v n = t.v n)
    ∧ ∀ (a : State) (pa h : Nat) (x : TlbEntry), s.globalWf = true → t.sm = t.fb → 64 ≤ t.stripe.length →
      w.toNat + 63 = t.stripe.length →
      let b := s.backing c tid
      let i := t.sm.toNat % t.stripe.length
      4 * t.sm.toNat + 4 ≤ b.size - b.size / 2 → (∀ a ∈ t.awaiting, a.slot ≠ i) → i ∉ t.bad → t.fb.toNat + w.toNat < 2 ^ 32 →
      reaches s a tid (registerAt b t.sm.toNat) 4 .write pa h x →
      ∃ s1, exec (.call w off) s = .next s1
        ∧ ∀ (a1 : State) (x1 : TlbEntry), uncopied s1 pa h → s1.backing c tid = b →
          reaches s1 a1 tid (registerAt b t.sm.toNat) 4 .read pa h x1 →
          ∃ s2 u, exec .ret s1 = .next s2 ∧ s2.thread? s.cur.place tid = some u
            ∧ u = { t with pc := t.pc + 4, pts := u.pts } ∧ ∀ n, u.v n = t.v n

/-! ## Special registers, traps and waits -/

/-- What MOVS gives of a special register (04 Table 4.2). -/
def specialValue (s : State) (c : Crew) (tid : Nat) (t : Thread) : SysReg → W32
  | .tid => BitVec.ofNat 32 tid
  | .crew => BitVec.ofNat 32 c.place.slot
  | .col => BitVec.ofNat 32 c.place.col
  | .die => BitVec.ofNat 32 c.place.die
  | .stage => BitVec.ofNat 32 c.at_.stage
  | .nthr => BitVec.ofNat 32 c.threads.length
  | .recAddr => t.recAddr
  | .clkLo => BitVec.ofNat 32 (s.die c.place.die).clk
  | .clkHi => t.clkHi
  | .nsLo => BitVec.ofNat 32 s.ns
  | .nsHi => t.nsHi
  | .fb => t.fb
  | .rsd => t.rsd
  | .fpf => BitVec.ofNat 32 t.fpf.toNat
  | .fp4x => BitVec.ofNat 32 c.fp4x.toNat
  | .cause => BitVec.ofNat 32 t.cause.toNat
  | .epcLo => BitVec.ofNat 32 t.epc.toNat
  | .epcHi => BitVec.ofNat 32 (t.epc.toNat / 2 ^ 32)
  | .ebadLo => BitVec.ofNat 32 t.ebad.toNat
  | .ebadHi => BitVec.ofNat 32 (t.ebad.toNat / 2 ^ 32)
  | .eword => t.eword
  | .pose => (s.die c.place.die).pose.seq
  | .ways => BitVec.ofNat 32 (s.col c.place.die c.place.col).count

/-- A read of a counter's low half latches its high half in the thread (04 R76). -/
def latched (s : State) (c : Crew) (t : Thread) : SysReg → Thread
  | .clkLo => { t with clkHi := BitVec.ofNat 32 ((s.die c.place.die).clk / 2 ^ 32) }
  | .nsLo => { t with nsHi := BitVec.ofNat 32 (s.ns / 2 ^ 32) }
  | _ => t

/-- MOVS writes V(D) with the special register, for every one of them (04 R76, R77). -/
def specialRegisterReads : Prop :=
  ∀ (d : VReg) (r : SysReg) (s : State), ∃ s', exec (.movs d r) s = .next s' ∧ groupOnly s s'
    ∧ ∀ c tid t, InGroup s c tid t → s'.thread? s.cur.place tid
        = some (s.goneOn ((latched s c t r).setV d.toNat (specialValue s c tid t r)))

/-- MOVT writes the thread's flags, or the crew's table of 4-bit values, and nothing else (04 R77). -/
def specialRegisterWrites : Prop :=
  ∀ (a : Src7) (s : State) (c : Crew) (tid : Nat) (t : Thread), Alone s c tid t →
    (∃ s', exec (.movt .fpf a) s = .next s' ∧ groupOnly s s' ∧ s'.thread? s.cur.place tid
        = some { t with fpf := BitVec.ofNat 5 (srcI c t a).toNat, pc := t.pc + 4 })
    ∧ ∃ s' c', exec (.movt .fp4x a) s = .next s' ∧ s' = { s with crews := s'.crews }
      ∧ (∀ p, p ≠ s.cur.place → s'.crew? p = s.crew? p) ∧ s'.crew? s.cur.place = some c'
      ∧ c' = { c with fp4x := BitVec.ofNat 16 (srcI c t a).toNat, threads := c'.threads }
      ∧ c'.threads[tid]? = some { t with pc := t.pc + 4 } ∧ ∀ j, j ≠ tid → c'.threads[j]? = c.threads[j]?

/-- MOVS and MOVT (04 R76, R77). -/
def Obligations.SpecialRegisters : Prop := specialRegisterReads ∧ specialRegisterWrites

/-- The trap frame holds what 04 Table 4.4 lists, at its offsets. -/
def trapFrameLayout : Prop :=
  ∀ (t : Thread) (emu : Bool),
    let f := trapFrame t emu
    f.length = 128 ∧ fieldAt f 0 8 = t.pc.toNat ∧ fieldAt f 8 8 = t.epc.toNat ∧ fieldAt f 0x10 8 = t.ebad.toNat
      ∧ fieldAt f 0x18 4 = t.eword.toNat ∧ fieldAt f 0x1C 1 = t.cause.toNat ∧ fieldAt f 0x1D 1 = t.cond.toNat
      ∧ fieldAt f 0x1E 1 = t.emu.toNat + (if emu then 0 else 2) ∧ fieldAt f 0x20 4 = t.fb.toNat
      ∧ ∀ i, i < 16 → fieldAt f (0x40 + 4 * i) 4 = (t.v i).toNat

/-- What ERET restores from a frame is what the entry saved in it: the PC (or the word after it), the condition bits, E,
the special registers and V(0) to V(15) (04 R86, R88). -/
def frameRestoresWhatEntrySaved : Prop :=
  ∀ (t u : Thread) (emu next : Bool) (f base : Nat), 64 ≤ u.stripe.length →
    let r := leaveThread f base (trapFrame t emu) next u
    r.pc = t.pc + (if next then 4 else 0) ∧ r.cond = t.cond ∧ r.emu = t.emu ∧ r.cause = t.cause ∧ r.epc = t.epc
      ∧ r.ebad = t.ebad ∧ r.eword = t.eword ∧ (∀ i, i < 16 → r.v i = t.v i)
      ∧ ∀ i, 16 ≤ i → i < 64 → r.v i = u.v i

/-- The trap frame (04 Table 4.4, R86, R88). -/
def Obligations.TrapFrames : Prop := trapFrameLayout ∧ frameRestoresWhatEntrySaved

/-- TRAP of a thread whose region has a software-trap handler, once every entry of its hardware return stack is spilled and
its frame can be stored: the thread goes to the handler with SOFTWARE_TRAP in sys.cause, its PC in sys.epc, the TRAP word in
sys.eword, the frame's address and old window on its return stack and the frame's address, cause and word in V(48) to V(51)
(04 R86, 17 R379). That sys.ebad stays, since the cause names no address, is the model's reading (log 6). A thread of which
a register that the frame takes still awaits its reply waits for the reply and then enters: the dependency of 02 R23, as
the model reads it for a frame (log 7). With no handler it takes the cause as a fault (04 R89). -/
def trapEntry : Prop :=
  ∀ (code : W16) (s s0 s1 s2 : State) (c : Crew) (tid : Nat) (t t0 t2 : Thread), Alone s c tid t →
    let h := (s.eff c.at_.rcb).traphandler
    let bs := s.backing c tid
    let p := s.cur.place
    (h = 0 → exec (.trap code) s = .next (s.fault p tid ⟨.softwareTrap, none, 0, 0⟩ (some s.cur.word)))
    ∧ (h ≠ 0 → s.spillEntries p tid bs t.rstack.length = (none, s0) → s0.thread? p tid = some t0 →
      let f := bs.base + t0.lk.toNat
      (t0.frameUnready = some .reply → t0.wait = .ready →
        ∃ s', exec (.trap code) s = .next s' ∧ onlyThread s0 s' p tid
          { t0 with wait := .replies, entry := some (.softwareTrap, some s.cur.word) })
      ∧ (t0.frameUnready = none → s0.storeFrame p tid bs f (trapFrame t0 false) 8 = (none, s1) →
        s1.slide p tid bs (t0.fb.toNat + 16) = (none, s2) →
        s2.thread? p tid = some t2 → t2.wait = .ready → 64 ≤ t2.stripe.length →
        ∃ s' u, exec (.trap code) s = .next s' ∧ s' = { s2 with crews := s'.crews } ∧ s'.thread? p tid = some u
          ∧ u.pc = h ∧ u.epc = t2.pc ∧ u.cause = 0x14 ∧ u.ebad = t2.ebad ∧ u.eword = s.cur.word ∧ u.emu = t2.emu
          ∧ u.rstack = ⟨BitVec.ofNat 64 f, t0.fb, .trap⟩ :: t2.rstack ∧ u.rsd = t2.rsd + 1 ∧ u.lk = t2.lk + 128
          ∧ u.v 48 = BitVec.ofNat 32 f ∧ u.v 49 = BitVec.ofNat 32 (f / 2 ^ 32) ∧ u.v 50 = 0x14 ∧ u.v 51 = s.cur.word
          ∧ (∀ i, 52 ≤ i → i < 64 → u.v i = 0) ∧ ∀ i, i < 48 → u.v i = t2.v i))

/-- The accesses of a trap entry. Its spill of n + 1 entries is that of the oldest, in one 16-byte access at B + lk, which
raises lk by 16, and then that of n; a frame is stored in 16-byte accesses in ascending address within the link area, and
they change no other byte, and nothing of the thread but its timestamp (04 R80 to R82, R86). -/
def trapAccesses : Prop :=
  ∀ (s : State) (c : Crew) (tid : Nat) (t : Thread), Alone s c tid t →
    let bs := s.backing c tid
    let p := s.cur.place
    (∀ n, s.spillEntries p tid bs (n + 1) = match s.spillEntries p tid bs 1 with
      | (none, a) => a.spillEntries p tid bs n
      | r => r)
    ∧ (∀ a l n, s.storeFrame p tid bs a l (n + 1) = match s.storeFrame p tid bs a l 1 with
      | (none, a') => a'.storeFrame p tid bs (a + 16) (l.drop 16) n
      | r => r)
    ∧ (s.globalWf = true → ∀ (a1 : State) (pa hm : Nat) (x : TlbEntry),
      (∀ e, t.rstack.getLast? = some e → t.lk.toNat + 16 ≤ bs.size / 2 →
        reaches s a1 tid (BitVec.ofNat 64 (bs.base + t.lk.toNat)) 16 .write pa hm x →
        ∃ a2 u l, s.spillEntries p tid bs 1 = (none, a2) ∧ a2.thread? p tid = some u
          ∧ u = { t with rstack := t.rstack.dropLast, lk := t.lk + 16, pts := u.pts }
          ∧ entrySays l e ∧ storesBytes s a2 .dev pa 16 fun i => l.getD i 0)
      ∧ ∀ (a : Nat) (l : List W8), bs.base ≤ a → a + 16 ≤ bs.base + bs.size / 2 → 16 ≤ l.length →
        reaches s a1 tid (BitVec.ofNat 64 a) 16 .write pa hm x →
        ∃ a2 u, s.storeFrame p tid bs a l 1 = (none, a2) ∧ a2.thread? p tid = some u ∧ u = { t with pts := u.pts }
          ∧ storesBytes s a2 .dev pa 16 fun i => l.getD i 0)

/-- A software trap and the accesses of its entry (04 R80 to R82, R86, R89; 17 R379). -/
def Obligations.TrapEntersHandler : Prop := trapEntry ∧ trapAccesses

/-- ERET of a thread whose top entry, in the hardware stack or refilled from the link area, is a trap entry whose frame can be
read: the thread is as the frame says, with the entry popped and the link area cut back to the frame; with any other top
entry, or with none, it takes ILLEGAL_INSN, and nothing has been popped (04 R80, R88; 15 R310). -/
def Obligations.EretRestoresFrame : Prop :=
  ∀ (next : Bool) (s s0 : State) (c : Crew) (tid : Nat) (t : Thread) (e : Option REntry), Alone s c tid t →
    topEntryIs s c tid t e s0 →
    let bs := s.backing c tid
    (∀ (s1 s2 : State) (t2 : Thread) (f : W64) (x : W32) (l : List W8), e = some ⟨f, x, .trap⟩ →
      s0.loadFrame s.cur.place tid bs f.toNat [] 8 = (.ok l, s1) →
      s1.slide s.cur.place tid bs (fieldAt l 0x20 4) = (none, s2) → s2.thread? s.cur.place tid = some t2 →
      64 ≤ t2.stripe.length →
      ∃ s' u, exec (.eret next) s = .next s' ∧ s' = { s2 with crews := s'.crews } ∧ s'.thread? s.cur.place tid = some u
        ∧ u.pc = BitVec.ofNat 64 (fieldAt l 0 8) + (if next then 4 else 0) ∧ u.cond = BitVec.ofNat 8 (fieldAt l 0x1D 1)
        ∧ u.cause = BitVec.ofNat 8 (fieldAt l 0x1C 1) ∧ u.epc = BitVec.ofNat 64 (fieldAt l 8 8)
        ∧ u.ebad = BitVec.ofNat 64 (fieldAt l 0x10 8) ∧ u.eword = BitVec.ofNat 32 (fieldAt l 0x18 4)
        ∧ u.emu = decide (fieldAt l 0x1E 1 % 2 = 1) ∧ u.rstack = t2.rstack.drop 1 ∧ u.rsd = t2.rsd - 1
        ∧ u.lk = BitVec.ofNat 32 (f.toNat - bs.base)
        ∧ ∀ i, i < 16 → u.v i = BitVec.ofNat 32 (fieldAt l (0x40 + 4 * i) 4))
    ∧ ((∀ x, e = some x → x.kind = .call) →
      exec (.eret next) s = .next (s0.trap s.cur.place tid ⟨.illegalInsn, none, 0, 0⟩ (some s.cur.word) true)
        ∧ ∃ u, s0.thread? s.cur.place tid = some u ∧ u = { t with pts := u.pts })

/-- The 64-byte fault record of a thread (11 Table 11.2). -/
def recordSays (bytes : List W8) (ticket : W32) (cause : W8) (c : Crew) (tid : Nat) (t : Thread) (eword : W32) (ns : Nat) :
    Prop :=
  bytes.length = 64 ∧ fieldAt bytes 0 4 = ticket.toNat ∧ fieldAt bytes 4 1 = cause.toNat ∧ fieldAt bytes 5 1 = tid % 256
    ∧ fieldAt bytes 6 1 = 0 ∧ fieldAt bytes 8 8 = c.at_.rcb % 2 ^ 64 ∧ fieldAt bytes 16 8 = t.pc.toNat
    ∧ fieldAt bytes 32 4 = eword.toNat ∧ fieldAt bytes 56 8 = ns % 2 ^ 64

/-- BRK parks the thread at the BRK with BREAKPOINT, its PC in sys.epc and its word in sys.eword, under the die's next
ticket (the next serial, with the die in bit 31, where no open ticket has that number), and its record goes to host
ring 2 while bit 8 of that ring's rsize is set, else to the fault domain; no other thread and no store changes (14
R298, 11 R223). Two clauses are the model's: sys.ebad, which the cause does not set, stays (its reading, log 6), and how
the ticket's number is chosen (its choice, log 14). -/
def Obligations.BreakpointParks : Prop :=
  ∀ (code : W16) (s : State) (c : Crew) (tid : Nat) (t : Thread), Alone s c tid t → t.wait = .ready →
    ∃ s' bytes, exec (.brk code) s = .next s' ∧
      let n := (s.die s.cur.place.die).ticket
      let next := BitVec.ofNat 32 (n % 0x80000000 + s.cur.place.die * 0x80000000)
      let k := (s.newTicket s.cur.place.die).1
      ((∀ x ∈ s.tickets, x.ticket ≠ next) → k = next) ∧
      s'.thread? s.cur.place tid = some { t with
          cause := 0x15, epc := t.pc, eword := s.cur.word, wait := .faultDomain k, entry := none, next := none }
      ∧ s'.outgoing = s.outgoing ++ [⟨s.cur.place.die,
          if (s.host.rings.getD 2 HostRing.reset).size.getLsbD 8 then .ring 2 else s.recordDest c.at_, bytes⟩]
      ∧ recordSays bytes k 0x15 c tid t s.cur.word s.ns ∧ sameBytes s s' ∧ s'.cols = s.cols ∧ s'.host = s.host
      ∧ (k ≠ 0 → ∃ x, s'.tickets = s.tickets ++ [x] ∧ x.ticket = k ∧ x.uid = c.uid ∧ x.tid = tid % 256)
      ∧ ∀ q j, ¬ (q = s.cur.place ∧ j = tid) → s'.thread? q j = s.thread? q j

/-- YIELD: not ready for 256 cycles, its PC past the YIELD; NAP: until its deadline at the NAP, or not at all for 0; and
what ends the two waits (16 R345, 17 R389). -/
def Obligations.YieldAndNap : Prop :=
  (∀ (s : State) (c : Crew) (tid : Nat) (t : Thread), Alone s c tid t →
    (∃ s', exec .yield s = .next s' ∧ onlyThread s s' s.cur.place tid
      { t with pc := t.pc + 4, wait := .yield ((s.die s.cur.place.die).clk + 256) })
    ∧ ∀ a mask, ∃ s', exec (.nap a mask) s = .next s' ∧ onlyThread s s' s.cur.place tid
      (if srcI c t a = 0 then { t with pc := t.pc + 4 } else { t with wait := .nap (s.ns + (srcI c t a).toNat) mask }))
  ∧ ∀ (s : State) (x : ThreadAt) (t : Thread), s.thread? x.crew x.tid = some t →
    (∀ n, t.wait = .yield n → n ≤ (s.die x.crew.die).clk →
      ∃ s', exec (.yieldExpiry x) s = .next s' ∧ onlyThread s s' x.crew x.tid { t with wait := .ready })
    ∧ ∀ deadline mask, t.wait = .nap deadline mask → deadline ≤ s.ns →
      ∃ s', exec (.napTimeout x) s = .next s' ∧ onlyThread s s' x.crew x.tid { t with wait := .ready, pc := t.pc + 4 }

/-! ## Memory instructions of a thread -/

/-- A memory form's mask bit is false in the thread (02 R47). -/
def masksOff (t : Thread) (m : Option CBit) : Prop := ∃ k, m = some k ∧ t.cond.getLsbD k.toNat = false

/-- The effective addresses of 13 R268: the base plus the signed immediate times the access size. -/
def globalAddress (t : Thread) (base : VReg) (imm : BitVec 5) (n : Nat) : W64 :=
  BitVec.ofInt 64 ((t.pair base.toNat).toNat + imm.toInt * n)
def localAddress (t : Thread) (base : VReg) (imm : BitVec 5) (n : Nat) : Nat :=
  (BitVec.ofInt 32 ((t.v base.toNat).toNat + imm.toInt * n)).toNat

/-- The registers that a load fills, of the number its bytes hold (15 R328). -/
def loadedWords : LdSize → Nat → List W32
  | .b, x | .h, x | .w, x => [BitVec.ofNat 32 x]
  | .sb, x => [BitVec.ofInt 32 (signedNat 8 x)]
  | .sh, x => [BitVec.ofInt 32 (signedNat 16 x)]
  | .d, x => [BitVec.ofNat 32 x, BitVec.ofNat 32 (x / 2 ^ 32)]
  | .q, x => [BitVec.ofNat 32 x, BitVec.ofNat 32 (x / 2 ^ 32), BitVec.ofNat 32 (x / 2 ^ 64), BitVec.ofNat 32 (x / 2 ^ 96)]

/-- Byte i of what a store of registers from r writes: their bytes, lowest first. -/
def registerByte (t : Thread) (r : VReg) (i : Nat) : W8 :=
  BitVec.ofNat 8 ((t.v (r.toNat + i / 4)).toNat / 256 ^ (i % 4))

/-- The thread has a reply of these words on the way to the registers from r, and goes on (01 R9, 15 R328). -/
def awaitsReply (s s' : State) (c : Crew) (tid : Nat) (t : Thread) (r : VReg) (ws : List W32) : Prop :=
  let slots := (List.range ws.length).map fun j => t.slot (r.toNat + j)
  (⟨s.serial, c.uid, tid, slots.zip ws⟩ : LoadReply) ∈ (s'.col s.cur.place.die s.cur.place.col).loads
    ∧ ∃ u, s'.thread? s.cur.place tid = some u ∧ u = { t with pc := t.pc + 4, pts := u.pts, awaiting := u.awaiting }
      ∧ ∀ x ∈ slots, (⟨x, s.serial⟩ : Awaiting) ∈ u.awaiting

/-- LDG: masked off it does nothing but go on; a load that reaches device memory sends a reply for its registers, and
where no cache holds a copy of the line that reply holds memory's bytes, extended as its size says; no store changes
(15 R328, 02 R47, 13 R268). A load of host memory, while the host is attached, passes no posted store: its reply holds
host memory's bytes behind all of them; with the host detached it takes HOST_DETACHED and counts in detread (07 R160,
12 R245). That this HOST_DETACHED names the effective address is the model's reading (log 10). -/
def globalLoads : Prop :=
  ∀ (z : LdSize) (r base : VReg) (mask : Option CBit) (imm : BitVec 5) (s : State) (c : Crew) (tid : Nat) (t : Thread),
    Alone s c tid t →
    (masksOff t mask → ∃ s', exec (.ldg z r base mask imm) s = .next s'
      ∧ onlyThread s s' s.cur.place tid { t with pc := t.pc + 4 })
    ∧ (∀ s1 pa h e, ¬ masksOff t mask → 104 * s.cur.place.die + s.cur.place.col < s.cols.length →
      reaches s s1 tid (globalAddress t base imm (ldBytes z)) (ldBytes z) .read pa h e →
      ∃ s' ws, exec (.ldg z r base mask imm) s = .next s' ∧ sameBytes s s' ∧ awaitsReply s s' c tid t r ws
        ∧ ws.length = (loadedWords z 0).length
        ∧ (uncopied s pa h → ws = loadedWords z (leNat (s.bytes .dev pa (ldBytes z))))
        ∧ ∀ q j, ¬ (q = s.cur.place ∧ j = tid) → s'.thread? q j = s.thread? q j)
    ∧ ∀ s1 pa e, ¬ masksOff t mask → 104 * s.cur.place.die + s.cur.place.col < s.cols.length →
      s.check s.cur.place tid (globalAddress t base imm (ldBytes z)) (ldBytes z) .read = (.host pa e, s1) →
      (s.attached = true → ∃ s', exec (.ldg z r base mask imm) s = .next s' ∧ s'.hostOut = [] ∧ sameBytes s.drainOut s'
        ∧ awaitsReply s s' c tid t r (loadedWords z (leNat (s.drainOut.bytes .host pa (ldBytes z))))
        ∧ ∀ q j, ¬ (q = s.cur.place ∧ j = tid) → s'.thread? q j = s.thread? q j)
      ∧ (s.attached = false → ∃ s2, exec (.ldg z r base mask imm) s
            = .next (s2.fault s.cur.place tid ⟨.hostDetached, some (globalAddress t base imm (ldBytes z)), 0, 0⟩ (some s.cur.word))
        ∧ sameBytes s s2 ∧ s2.host.detread = s.host.detread + 1 ∧ s2.thread? s.cur.place tid = some t)

/-- TAGGED_REPLY: the slots that still await the tag get the reply's words; the reply is gone (01 R9). A thread that waits
for replies to store its registers goes on (log 7). -/
def taggedReplies : Prop :=
  ∀ (s : State) (die col tag : Nat) (l : LoadReply) (p : CrewAt) (c : Crew) (t : Thread),
    (s.col die col).loads.find? (fun x => x.tag = tag) = some l → 104 * die + col < s.cols.length →
    s.crew? p = some c → c.uid = l.uid → c.threads[l.tid]? = some t → (l.writes.map Prod.fst).Nodup →
    ∃ s' u, exec (.taggedReply die col tag) s = .next s' ∧ s'.thread? p l.tid = some u
      ∧ (∀ x ∈ (s'.col die col).loads, x.tag ≠ tag) ∧ sameBytes s s'
      ∧ u = { t with
          stripe := u.stripe, awaiting := u.awaiting, bad := u.bad
          wait := if t.wait = .replies then .ready else t.wait }
      ∧ u.stripe.length = t.stripe.length
      ∧ (∀ i ∈ u.bad, i ∈ t.bad)
      ∧ (∀ i x, (i, x) ∈ l.writes → (⟨i, tag⟩ : Awaiting) ∈ t.awaiting → i < t.stripe.length → u.stripe.getD i 0 = x)
      ∧ (∀ i x, (i, x) ∈ l.writes → (⟨i, tag⟩ : Awaiting) ∉ u.awaiting)
      ∧ ∀ i, (⟨i, tag⟩ : Awaiting) ∉ t.awaiting → u.stripe.getD i 0 = t.stripe.getD i 0

/-- LDG and its reply (15 R328, 01 R9). -/
def Obligations.GlobalLoads : Prop := globalLoads ∧ taggedReplies

/-- STG: masked off it does nothing but go on; a store that reaches device memory writes its registers' bytes at the
physical address of its effective address, and no other byte (17 R371, 02 R47, 13 R268); to host memory it is posted
(07 R160), and with the host detached it is dropped and counted in detdrop (12 R245). -/
def Obligations.GlobalStores : Prop :=
  ∀ (z : StSize) (r base : VReg) (mask : Option CBit) (imm : BitVec 5) (s : State) (c : Crew) (tid : Nat) (t : Thread),
    Alone s c tid t → s.globalWf = true →
    let goesOn (s' : State) : Prop := ∃ u, s'.thread? s.cur.place tid = some u
      ∧ u = { t with pc := t.pc + 4, pts := u.pts } ∧ ∀ q j, ¬ (q = s.cur.place ∧ j = tid) → s'.thread? q j = s.thread? q j
    (masksOff t mask → ∃ s', exec (.stg z r base mask imm) s = .next s'
      ∧ onlyThread s s' s.cur.place tid { t with pc := t.pc + 4 })
    ∧ (∀ s1 pa h e, ¬ masksOff t mask → reaches s s1 tid (globalAddress t base imm (stBytes z)) (stBytes z) .write pa h e →
      ∃ s', exec (.stg z r base mask imm) s = .next s' ∧ goesOn s' ∧ s'.hostOut = s.hostOut
        ∧ storesBytes s s' .dev pa (stBytes z) (registerByte t r))
    ∧ ∀ s1 pa e, ¬ masksOff t mask →
      s.check s.cur.place tid (globalAddress t base imm (stBytes z)) (stBytes z) .write = (.host pa e, s1) →
      ∃ s', exec (.stg z r base mask imm) s = .next s' ∧ goesOn s' ∧ sameBytes s s'
        ∧ (s.attached = true → s'.hostOut
            = s.hostOut ++ [.store pa ((List.range (stBytes z)).map (registerByte t r)) (agentOf c tid) s.store])
        ∧ (s.attached = false → s'.hostOut = s.hostOut ∧ s'.host.detdrop = satInc s.host.detdrop)

/-- The order of bf16 codes that are no NaN, −0 below +0. -/
def bf16Place (x : Nat) : Int := if 0x8000 ≤ x then -((x % 0x8000 : Nat) : Int) - 1 else x

/-- The new memory value of 14 Table 14.5, on exact integers. -/
def atomicValue (op : Aop) (m v : W32) : Nat :=
  match op with
  | .add => (m.toNat + v.toNat) % 2 ^ 32
  | .sub => (m.toNat + (2 ^ 32 - v.toNat)) % 2 ^ 32
  | .and => (wordOf fun i => m.getLsbD i && v.getLsbD i).toNat
  | .or => (wordOf fun i => m.getLsbD i || v.getLsbD i).toNat
  | .xor => (wordOf fun i => m.getLsbD i != v.getLsbD i).toNat
  | .min => (if v.toInt < m.toInt then v else m).toNat
  | .max => (if m.toInt < v.toInt then v else m).toNat
  | .minu => min m.toNat v.toNat
  | .maxu => max m.toNat v.toNat
  | .exch => v.toNat
  | .fadd => (FpFmt.fp32.add .rne m.toNat v.toNat).1 % 2 ^ 32
  | .bfmax16 =>
    let x := v.toNat % 65536
    let y := m.toNat % 65536
    if 0x7F80 < x % 0x8000 then y else if 0x7F80 < y % 0x8000 then x else if bf16Place y < bf16Place x then x else y

/-- The mask of an atomic is false in the thread. -/
def atomOff (t : Thread) : AtomMask → Prop
  | .none => False
  | .c0 => t.cond.getLsbD 0 = false
  | .c1 => t.cond.getLsbD 1 = false
  | .c2 => t.cond.getLsbD 2 = false

/-- Byte i of a value of 4 bytes. -/
def valueByte (v i : Nat) : W8 := BitVec.ofNat 8 (v / 256 ^ i)

/-- A thread has gone on past its instruction, and only its timestamp may have changed. -/
def goneOnOnly (s s' : State) (tid : Nat) (t : Thread) : Prop :=
  ∃ u, s'.thread? s.cur.place tid = some u ∧ u = { t with pc := t.pc + 4, pts := u.pts }

/-- On device memory: one read-modify-write of 4 bytes (2 for bfmax16); ATOM and CAS send the old value to V(X); ATOMN
writes no register; a mask that is false stops all of it (14 R289, R302, Table 14.5). -/
def deviceAtomics : Prop :=
  ∀ (s s1 : State) (c : Crew) (tid : Nat) (t : Thread) (y : VReg) (n pa h : Nat) (e : TlbEntry), Alone s c tid t →
    s.globalWf = true → 104 * s.cur.place.die + s.cur.place.col < s.cols.length →
    reaches s s1 tid (t.pair y.toNat) n .atomic pa h e →
    let old := BitVec.ofNat 32 (leNat (s.bytes .dev pa n))
    (∀ op m x z, n = (if op = .bfmax16 then 2 else 4) →
      (atomOff t m → (∃ s', exec (.atom op m x y z) s = .next s' ∧ onlyThread s s' s.cur.place tid { t with pc := t.pc + 4 })
        ∧ ∃ s', exec (.atomn op m y z) s = .next s' ∧ onlyThread s s' s.cur.place tid { t with pc := t.pc + 4 })
      ∧ (¬ atomOff t m → (∃ s', exec (.atom op m x y z) s = .next s' ∧ awaitsReply s s' c tid t x [old]
            ∧ storesBytes s s' .dev pa n (valueByte (atomicValue op old (t.v (BitVec.toNat z)))))
        ∧ ∃ s', exec (.atomn op m y z) s = .next s' ∧ goneOnOnly s s' tid t
            ∧ storesBytes s s' .dev pa n (valueByte (atomicValue op old (t.v (BitVec.toNat z))))))
    ∧ ∀ d b v, n = 4 → ∃ s', exec (.cas d y b v) s = .next s' ∧ awaitsReply s s' c tid t d [old]
        ∧ storesBytes s s' .dev pa 4
            (valueByte (if old = t.v (BitVec.toNat b) then t.v (BitVec.toNat v) else old).toNat)

/-- The instruction's thread takes a cause that names an address, and no byte changes. -/
def deniedAt (i : Instr) (s : State) (tid : Nat) (cause : Cause) (va : W64) : Prop :=
  ∃ s2 syn entry, exec i s = .next (s2.fault s.cur.place tid ⟨cause, some va, syn, entry⟩ (some s.cur.word)) ∧ sameBytes s s2

/-- On host memory: FetchAdd (add), Swap (exch) and CAS, each one transaction behind every posted store, where the host's
link carries atomics; a link that does not gives ACCESS_TABLE_DENIED, another operation PERMISSION, and a detached host
HOST_DETACHED (07 R160, 12 R245). That this HOST_DETACHED names the pair's address is the model's reading (log 10). -/
def hostAtomics : Prop :=
  ∀ (s s1 : State) (c : Crew) (tid : Nat) (t : Thread) (y : VReg) (n pa : Nat) (e : TlbEntry), Alone s c tid t →
    s.globalWf = true → 104 * s.cur.place.die + s.cur.place.col < s.cols.length →
    s.check s.cur.place tid (t.pair y.toNat) n .atomic = (.host pa e, s1) →
    let old := BitVec.ofNat 32 (leNat (s.drainOut.bytes .host pa 4))
    (∀ op m x z, n = (if op = .bfmax16 then 2 else 4) → ¬ atomOff t m →
      (op ≠ .add → op ≠ .exch →
        deniedAt (.atom op m x y z) s tid .permission (t.pair y.toNat) ∧ deniedAt (.atomn op m y z) s tid .permission (t.pair y.toNat))
      ∧ (op = .add ∨ op = .exch →
        (s.attached = false → deniedAt (.atom op m x y z) s tid .hostDetached (t.pair y.toNat)
          ∧ deniedAt (.atomn op m y z) s tid .hostDetached (t.pair y.toNat))
        ∧ (s.attached = true → Config.hostAtomics = false → deniedAt (.atom op m x y z) s tid .accessTableDenied (t.pair y.toNat)
          ∧ deniedAt (.atomn op m y z) s tid .accessTableDenied (t.pair y.toNat))
        ∧ (s.attached = true → Config.hostAtomics = true →
          (∃ s', exec (.atom op m x y z) s = .next s' ∧ s'.hostOut = [] ∧ awaitsReply s s' c tid t x [old]
            ∧ storesBytes s.drainOut s' .host pa 4 (valueByte (atomicValue op old (t.v (BitVec.toNat z)))))
          ∧ ∃ s', exec (.atomn op m y z) s = .next s' ∧ s'.hostOut = [] ∧ goneOnOnly s s' tid t
            ∧ storesBytes s.drainOut s' .host pa 4 (valueByte (atomicValue op old (t.v (BitVec.toNat z)))))))
    ∧ ∀ d b v, n = 4 →
      (s.attached = false → deniedAt (.cas d y b v) s tid .hostDetached (t.pair y.toNat))
      ∧ (s.attached = true → Config.hostAtomics = false → deniedAt (.cas d y b v) s tid .accessTableDenied (t.pair y.toNat))
      ∧ (s.attached = true → Config.hostAtomics = true →
        ∃ s', exec (.cas d y b v) s = .next s' ∧ s'.hostOut = [] ∧ awaitsReply s s' c tid t d [old]
          ∧ storesBytes s.drainOut s' .host pa 4
              (valueByte (if old = t.v (BitVec.toNat b) then t.v (BitVec.toNat v) else old).toNat))

/-- ATOM, ATOMN and CAS on device memory and on host memory (14 R289, R302, Table 14.5; 07 R160). -/
def Obligations.AtomicAccesses : Prop := deviceAtomics ∧ hostAtomics

/-- LDL and LDT: masked off they do nothing but go on; else, when every line is full and the checks of 06 R120 pass, the
local bytes are the reply that their registers await, in column view with row and column changed (15 R329, R330; 06 R123;
01 R9). -/
def localLoads : Prop :=
  ∀ (r base : VReg) (mask : Option CBit) (imm : BitVec 5) (s : State) (c : Crew) (tid : Nat) (t : Thread),
    Alone s c tid t → 104 * s.cur.place.die + s.cur.place.col < s.cols.length →
    let leads (i : Instr) (ws : List W32) : Prop := ∃ s', exec i s = .next s' ∧ awaitsReply s s' c tid t r ws ∧ sameBytes s s'
      ∧ ∀ q j, ¬ (q = s.cur.place ∧ j = tid) → s'.thread? q j = s.thread? q j
    (masksOff t mask → (∀ z, ∃ s', exec (.ldl z r base mask imm) s = .next s'
        ∧ onlyThread s s' s.cur.place tid { t with pc := t.pc + 4 })
      ∧ ∀ v z, ∃ s', exec (.ldt v z r base mask imm) s = .next s'
        ∧ onlyThread s s' s.cur.place tid { t with pc := t.pc + 4 })
    ∧ (¬ masksOff t mask →
      (∀ z, let a := localAddress t base imm (ldBytes z)
        s.localReady c a (ldBytes z) (ldBytes z) true = .go →
        leads (.ldl z r base mask imm) (loadedWords z (leNat (s.localBytes c a (ldBytes z)))))
      ∧ ∀ v z, let a := localAddress t base imm (tBytes z)
        s.viewReady c v z a true = .go →
        leads (.ldt v z r base mask imm)
          ((List.range (tRegs z)).map fun j => BitVec.ofNat 32 (leNat (s.localBytes c (viewAddr v (a + 4 * j)) 4))))

/-- STL and STT: masked off they do nothing but go on; else, when the checks pass, they write their registers' bytes to
local memory and no other byte; a store neither waits for a line nor fills one (17 R372, R373; 06 R123, R126). -/
def localStores : Prop :=
  ∀ (r base : VReg) (mask : Option CBit) (imm : BitVec 5) (s : State) (c : Crew) (tid : Nat) (t : Thread),
    Alone s c tid t → s.memoriesWf = true → c.place.col < 104 → 104 * c.place.die + c.place.col < s.cols.length →
    s.crewByUid? c.uid = some c →
    let goesOn (s' : State) : Prop := ∃ u, s'.thread? s.cur.place tid = some u
      ∧ u = { t with pc := t.pc + 4, pts := u.pts } ∧ ∀ q j, ¬ (q = s.cur.place ∧ j = tid) → s'.thread? q j = s.thread? q j
    (masksOff t mask → (∀ z, ∃ s', exec (.stl z r base mask imm) s = .next s'
        ∧ onlyThread s s' s.cur.place tid { t with pc := t.pc + 4 })
      ∧ ∀ v z, ∃ s', exec (.stt v z r base mask imm) s = .next s'
        ∧ onlyThread s s' s.cur.place tid { t with pc := t.pc + 4 })
    ∧ (¬ masksOff t mask →
      (∀ z, let a := localAddress t base imm (stBytes z)
        s.localReady c a (stBytes z) (stBytes z) false = .go →
        ∃ s', exec (.stl z r base mask imm) s = .next s' ∧ goesOn s'
          ∧ storesBytes s s' (localSpace c a).1 (localSpace c a).2 (stBytes z) (registerByte t r))
      ∧ ∀ v z, let a := localAddress t base imm (tBytes z)
        s.viewReady c v z a false = .go →
        ∃ s', exec (.stt v z r base mask imm) s = .next s' ∧ goesOn s'
          ∧ (∀ j, j < tRegs z → le32 (s'.localBytes c (viewAddr v (a + 4 * j)) 4) = t.v (r.toNat + j))
          ∧ ∀ sp b, sp.real → (∀ j, j < tRegs z → ¬ (sp = (localSpace c (viewAddr v (a + 4 * j))).1
                ∧ (localSpace c (viewAddr v (a + 4 * j))).2 ≤ b
                ∧ b < (localSpace c (viewAddr v (a + 4 * j))).2 + 4)) → s'.byte sp b = s.byte sp b)

/-- LDL, LDT, STL and STT (15 R329, R330; 17 R372, R373). -/
def Obligations.LocalAccesses : Prop := localLoads ∧ localStores

/-- PREF goes on with no register, no store and no cause changed, wherever it points (16 R353). -/
def prefetchChangesNoValue : Prop :=
  ∀ (level : PrefLevel) (base : VReg) (mask : Option CBit) (imm : BitVec 5) (s : State) (c : Crew) (tid : Nat) (t : Thread),
    Alone s c tid t →
    ∃ s', exec (.pref level base mask imm) s = .next s' ∧ sameBytes s s' ∧ s'.outgoing = s.outgoing
      ∧ s'.thread? s.cur.place tid = some { t with pc := t.pc + 4 } ∧ s'.tickets = s.tickets ∧ s'.hostOut = s.hostOut
      ∧ (∀ q j, ¬ (q = s.cur.place ∧ j = tid) → s'.thread? q j = s.thread? q j)
      ∧ (masksOff t mask → s' = { s with crews := s'.crews })

/-- FLSET of whole lines of the crew's allocation: e makes them empty, f makes them full, and no other line changes
(06 R128, 15 R319). -/
def lineStates : Prop :=
  ∀ (x y : VReg) (s : State) (c : Crew) (tid : Nat) (t : Thread), Alone s c tid t → t.wait = .ready →
    s.crews.Pairwise (fun a b => a.place ≠ b.place) →
    let a := (t.v x.toNat).toNat
    let n := (t.v y.toNat).toNat
    let inside (l : Nat) : Prop := a ≤ 128 * l ∧ 128 * l < a + n
    let leads (i : Instr) (p : Nat → Prop) : Prop := ∃ s' c' u, exec i s = .next s' ∧ s'.crew? s.cur.place = some c'
      ∧ (∀ l, l ∈ c'.empty ↔ p l) ∧ c'.threads[tid]? = some u ∧ u = { t with pc := t.pc + 4, pts := u.pts } ∧ sameBytes s s'
    a % 128 = 0 → n % 128 = 0 → n ≠ 0 → a + n ≤ 0x1000000 → s.checkLocal c a n 128 = none →
    leads (.flsetE x y) (fun l => l ∈ c.empty ∨ inside l) ∧ leads (.flsetF x y) (fun l => l ∈ c.empty ∧ ¬ inside l)

/-- PREF and FLSET (16 R353, 15 R319). -/
def Obligations.PrefetchAndLineStates : Prop := prefetchChangesNoValue ∧ lineStates

/-- FENCE sets the thread's fence point to the present place of the store order, and with host scope waits while a host
store before it is not transmitted; FENCE_HOST_TRANSMITTED transmits those stores and lets the thread go on (07 R156,
R158; 15 R317). With host scope it takes HOST_DETACHED when a host store of a thread or transfer that precedes it has been
dropped (12 Table 12.3): such a store is never transmitted, so the fault stays until a reset, the model's reading of the
two rules (log 82). Three more points are its readings: that a FENCE of any scope is the thread's fence point and that
FENCE.host waits for host stores of any agent (log 24), and that its HOST_DETACHED names no address (log 10). -/
def Obligations.Fences : Prop :=
  (∀ (scope : Scope) (s : State) (c : Crew) (tid : Nat) (t : Thread), Alone s c tid t →
    ((scope = .host → s.hostLost = false) →
      ∃ s', exec (.fence scope) s = .next s' ∧ onlyThread s s' s.cur.place tid
        (if scope = .host ∧ s.hostOut.any (Posted.before s.store)
          then { t with fence := s.store, wait := .hostTx s.store }
          else { t with fence := s.store, pc := t.pc + 4 }))
    ∧ (scope = .host → s.hostLost = true →
      exec (.fence scope) s = .next (s.fault s.cur.place tid ⟨.hostDetached, none, 0, 0⟩ (some s.cur.word))))
  ∧ ∀ (s : State) (x : ThreadAt) (t : Thread) (place : Nat), s.thread? x.crew x.tid = some t → t.wait = .hostTx place →
    s.globalWf = true →
    ∃ s', exec (.fenceHostTransmitted x) s = .next s'
      ∧ s'.thread? x.crew x.tid = some { t with wait := .ready, pc := t.pc + 4 }
      ∧ (∀ y ∈ s'.hostOut, y.before place = false)
      ∧ (∀ y, y ∈ s'.hostOut → y ∈ s.hostOut) ∧ (∀ sp b, sp ≠ .host → s'.byte sp b = s.byte sp b)
      ∧ ∀ a b g p, s.hostOut = [.store a [b] g p] → p < place → s'.byte .host a = b

/-- ULD that reaches device memory makes one load for its issue group: it writes G(D) with the word there, and every
thread of the group goes on; a translation miss makes all of them wait, as one access (02 R32, 17 R384, 08 R181). -/
def uniformLoads : Prop :=
  ∀ (d base : GReg) (imm : BitVec 14) (s : State) (c : Crew) (tid : Nat) (rest : List Nat),
    s.crew? s.cur.place = some c → s.cur.tids = tid :: rest → s.cur.tids.Nodup → s.cur.peal = false →
    let ea : W64 := BitVec.ofInt 64 ((W32.pair (c.g.getD base.toNat 0) (c.g.getD (base.toNat + 1) 0)).toNat + imm.toInt)
    (∀ (s1 : State) (pa h : Nat) (e : TlbEntry), reaches s s1 tid ea 4 .read pa h e → uncopied s pa h →
      ∃ s' c', exec (.uld d base imm) s = .next s' ∧ s'.crew? s.cur.place = some c' ∧ sameBytes s s'
        ∧ c' = { c with g := c.g.set d.toNat (BitVec.ofNat 32 (leNat (s.bytes .dev pa 4))), threads := c'.threads }
        ∧ ∀ j t, InGroup s c j t → ∃ u, c'.threads[j]? = some u ∧ u = { t with pc := t.pc + 4, pts := u.pts })
    ∧ ∀ s1, s.check s.cur.place tid ea 4 .read = (.walk, s1) →
      ∃ s' n, exec (.uld d base imm) s = .next s' ∧ sameBytes s s' ∧ ∀ j t, InGroup s c j t →
        ∃ u, s'.thread? s.cur.place j = some u
          ∧ u = { t with wait := .walk ea AccKind.read.code s.cur.word .core, missed := some ⟨ea, n, ea⟩, pts := u.pts }

/-- The U set and its loads (02 R32; 17 R382 to R384). -/
def Obligations.UniformResults : Prop := uniformResults ∧ uniformLoads

/-! ## Barrier objects and copies -/

/-- No thread waits at a BARW. -/
def noBarrierWaiter (s : State) : Prop := ∀ c ∈ s.crews, ∀ t ∈ c.threads, ∀ o p w, t.wait ≠ .barrier o p w

/-- complete(o) of 10 R216. -/
def completed (pending : Nat) (phase error : Bool) (expected arrived : Nat) : Barrier :=
  if pending = 0 ∧ arrived = expected ∧ expected ≠ 0 then ⟨pending, !phase, error, expected, 0⟩
  else ⟨pending, phase, error, expected, arrived⟩

/-- arrive(o, n) of 10 R216. -/
def arrived (o : Barrier) (n : Nat) : Barrier :=
  let late := decide (o.expected ≤ o.arrived)
  let full := decide (2 ^ 56 ≤ o.pending + n)
  completed (if full then 0 else o.pending + n) o.phase (o.error || late || full) o.expected
    (if late then o.arrived else o.arrived + 1)

/-- The thread u is t past the instruction, but for its timestamp. -/
def pastIt (t u : Thread) : Prop := u = { t with pc := t.pc + 4, pts := u.pts }

/-- BARI sets the object up, BARA arrives at it, BART tests it, BARW goes on when the phase differs and else waits;
each is a read-modify-write, or a read, of an object in the crew's local memory with no uncorrectable error, while no thread
waits at a BARW; of an object that is not there, or has such an error, each takes the cause of its check (10 R215 to R217, 14
R291). -/
def barrierInstructions : Prop :=
  ∀ (x y : VReg) (s : State) (c : Crew) (tid : Nat) (t : Thread), Alone s c tid t → s.memoriesWf = true →
    s.crewByUid? c.uid = some c → c.place.col < 104 → 104 * c.place.die + c.place.col < s.cols.length →
    noBarrierWaiter s →
    let b := (t.v x.toNat).toNat
    let n := (t.v y.toNat).toNat
    let o := s.barrier c b
    let object (i : Instr) (o' : Barrier) : Prop := ∃ s' u, exec i s = .next s' ∧ s'.thread? s.cur.place tid = some u
      ∧ pastIt t u ∧ s'.barrier c b = o'
      ∧ ∀ sp a, sp.real → ¬ (sp = (localSpace c b).1 ∧ (localSpace c b).2 ≤ a ∧ a < (localSpace c b).2 + 16) →
          s'.byte sp a = s.byte sp a
    let differs := decide (o.phase ≠ (t.v y.toNat).getLsbD 0)
    (∀ e, s.barrierBad c b = some e → ∀ i, (i = .bari x y ∨ i = .bara x y ∨ i = .barw x y ∨ ∃ z, i = .bart z x y) →
      exec i s = .next (s.take s.cur.place tid e (some s.cur.word)))
    ∧ (s.barrierBad c b = none → object (.bari x y) ⟨0, false, false, n, 0⟩ ∧ object (.bara x y) (arrived o n)
    ∧ (differs = false → ∃ s', exec (.barw x y) s = .next s' ∧ onlyThread s s' s.cur.place tid
        { t with wait := .barrier (BitVec.ofNat 32 b) o.phase s.cur.word })
    ∧ (differs = true → ∃ s' u, exec (.barw x y) s = .next s' ∧ s'.thread? s.cur.place tid = some u
        ∧ pastIt { t with cond := setBit8 t.cond 6 o.error } u ∧ sameBytes s s')
    ∧ ∀ z : VReg, ∃ s' u, exec (.bart z x y) s = .next s' ∧ s'.thread? s.cur.place tid = some u
        ∧ pastIt { t.setV z.toNat (if differs then 1 else 0) with cond := setBit8 t.cond 6 (differs && o.error) } u
        ∧ sameBytes s s')

/-- How a landing and an abort change an object (10 R214, R216): only a landing of the present phase counts off, held at
zero; an abort of the present phase flips it, and every abort sets the error bit. -/
def barrierLandingAndAbort : Prop :=
  ∀ (o : Barrier) (tag : Bool) (k : Nat),
    Barrier.land tag k o
      = (if tag = o.phase then completed (o.pending - k) o.phase o.error o.expected o.arrived else o)
    ∧ Barrier.abort tag o = (if tag = o.phase then ⟨0, !o.phase, true, o.expected, 0⟩ else { o with error := true })
    ∧ (o.pending < 2 ^ 56 → o.expected < 2 ^ 32 → o.arrived < 2 ^ 32 →
      Barrier.ofBytes o.toBytes = o ∧ o.toBytes.length = 16)

/-- An arrival that completes the object lets a waiter of its crew go on, with the error bit in c6 (10 R216, R217). -/
def arrivalWakesWaiter : Prop :=
  ∀ (x y : VReg) (s : State) (c : Crew) (tid j : Nat) (t u : Thread) (ph : Bool) (w : W32), Alone s c tid t →
    s.memoriesWf = true → s.crewByUid? c.uid = some c → 104 * c.place.die + c.place.col < s.cols.length → j ≠ tid →
    c.threads[j]? = some u → s.crews.Pairwise (fun a b => a.place ≠ b.place ∧ a.uid ≠ b.uid) →
    let b := (t.v x.toNat).toNat
    u.wait = .barrier (BitVec.ofNat 32 b) ph w → s.barrierBad c b = none → t.wait = .ready →
    (∀ d ∈ s.crews, ∀ i v, d.threads[i]? = some v → ∀ o p w', v.wait = .barrier o p w' → d = c ∧ i = j) →
    let o' := arrived (s.barrier c b) (t.v y.toNat).toNat
    o'.phase ≠ ph →
    ∃ s' u', exec (.bara x y) s = .next s' ∧ s'.thread? s.cur.place j = some u'
      ∧ pastIt { u with wait := .ready, cond := setBit8 u.cond 6 o'.error } u' ∧ s'.barrier c b = o'

/-- Barrier objects (10 R215 to R217). -/
def Obligations.BarrierObjects : Prop := barrierInstructions ∧ barrierLandingAndAbort ∧ arrivalWakesWaiter

/-- XCOPY of a valid descriptor and object, with room among the column's 64 transfers: a well-formed one is accepted, with
the arrival of its destination bytes, and carries the command's fields; a malformed one aborts at the object and starts
nothing; the thread goes on either way (10 R208 to R214). -/
def Obligations.CopyAcceptance : Prop :=
  ∀ (ft : Bool) (scope : Scope) (acq rel : Bool) (x y : VReg) (s : State) (c : Crew) (tid : Nat) (t : Thread),
    Alone s c tid t → s.memoriesWf = true → s.crewByUid? c.uid = some c →
    104 * c.place.die + c.place.col < s.cols.length → noBarrierWaiter s →
    let d := (t.v x.toNat).toNat
    let b := (t.v y.toNat).toNat
    let col := s.col c.place.die c.place.col
    s.xcopyChecks c d b = none → col.inFlight < 64 → s.copyWaiters s.cur.place.die s.cur.place.col = false →
    s.localReady c d 192 64 true = .go →
    let desc := CopyDesc.ofBytes (s.localBytes c d 192)
    let o := s.barrier c b
    let bad := desc.malformed (s.sourceSpan c desc) false (c.lmode.getLsbD 0) c.lsize
    let goesOn (s' : State) : Prop := ∃ u, s'.thread? s.cur.place tid = some u
      ∧ u = { t with pc := t.pc + 4, pts := u.pts, fence := if acq then s'.store else t.fence }
    (bad = true →
      ∃ s', exec (.xcopy ft scope acq rel x y) s = .next s' ∧ goesOn s' ∧ s'.barrier c b = Barrier.abort o.phase o
        ∧ (s'.col c.place.die c.place.col).transfers = col.transfers)
    ∧ (bad = false →
      ∃ s' k, exec (.xcopy ft scope acq rel x y) s = .next s' ∧ goesOn s' ∧ s'.barrier c b = arrived o desc.size
        ∧ (s'.col c.place.die c.place.col).transfers = col.transfers ++ [k]
        ∧ k.uid = c.uid ∧ k.barrier = some (t.v y.toNat) ∧ k.phase = (arrived o desc.size).phase ∧ k.track = ft
        ∧ k.scope = scope ∧ k.acquire = acq ∧ k.release = rel ∧ k.gsrc = decide (desc.sspace = 0)
        ∧ k.gdst = decide (desc.dspace = 0) ∧ k.guard = desc.guard
        ∧ k.kind = .copy desc.xform desc.xarg desc.src desc.dst (desc.ext 0) desc.dcap
        ∧ (acq = false → k.place = t.fence))

/-- COPY_SECTOR_READ of a sector of local memory that no earlier store leaves a choice for: its bytes join the transfer's
buffer, and it is read no more (07 R154). COPY_SECTOR_LAND of a one-run sector of local memory: its bytes are stored, no
other byte is, and with the last sector of a transfer without an object the transfer ends (10 R213). -/
def sectorsReadAndLand : Prop :=
  (∀ (s : State) (die col a n : Nat) (rest : List (Nat × Nat)) (c : Crew) (t : Transfer) (sp : Space) (x : Nat),
    (s.col die col).transfers.find? (fun k => k.tag = t.tag) = some t → 104 * die + col < s.cols.length →
    s.crewByUid? t.uid = some c → c.place.die = die → c.place.col = col → t.reads = (a, n) :: rest → t.waiting = none →
    t.gsrc = false → (∀ f arg q r l e, t.kind = .copy f arg q r l e → f ≠ 3 ∧ f ≠ 4) → t.isFill = false → s.past = [] →
    s.localSector c a n true = .local_ sp x →
    ∃ s' t', exec (.copySectorRead die col t.tag) s = .next s' ∧ sameBytes s s'
      ∧ (s'.col die col).transfers.find? (fun k => k.tag = t.tag) = some t' ∧ t'.reads = rest
      ∧ t'.buf = t.buf ++ ((s.bytes sp x n).zipIdx a).map (fun k => (k.2, k.1)))
  ∧ ∀ (s : State) (die col a : Nat) (c : Crew) (t : Transfer) (w : WSector) (l : List W8) (sp : Space) (x : Nat),
    (s.col die col).transfers.find? (fun k => k.tag = t.tag) = some t → col < 104 → 104 * die + col < s.cols.length →
    s.crewByUid? t.uid = some c → c.place.die = die → c.place.col = col → s.memoriesWf = true →
    t.reads = [] → t.writes = [w] → t.late = [] → t.waiting = none → t.isFill = false → t.guard = 0 → t.barrier = none →
    t.fold = none → t.abortAtEnd = false → t.lines = [] → t.gdst = false → l ≠ [] →
    (t.release = true → t.scope ≠ .host) →
    t.ready w = .bytes (l.mapIdx fun i b => (a + i, b)) false → s.localSector c a l.length false = .local_ sp x →
    ∃ s', exec (.copySectorLand die col t.tag) s = .next s' ∧ storesBytes s s' sp x l.length (fun i => l.getD i 0)
      ∧ ∀ k ∈ (s'.col die col).transfers, k.tag ≠ t.tag

/-- COPY_SECTOR_LAND of the last sector, one run of local memory, of a copy with a barrier object elsewhere: its bytes, and
those that no sector counts, land at the object under the copy's phase; and the sector's bytes are stored, or, where
nothing orders them before the completion, stay with the transfer, to be stored later (10 R213, R214; 07 R157; that this
is one step, log 4). -/
def lastSectorCountsOff : Prop :=
  ∀ (s : State) (die col : Nat) (c : Crew) (t : Transfer) (w : WSector) (l : List W8) (sp : Space) (x : Nat) (o : W32),
    (s.col die col).transfers.find? (fun k => k.tag = t.tag) = some t → col < 104 → 104 * die + col < s.cols.length →
    s.crewByUid? t.uid = some c → c.place.die = die → c.place.col = col → s.memoriesWf = true → noBarrierWaiter s →
    t.reads = [] → t.writes = [w] → t.late = [] → t.waiting = none → t.isFill = false → t.guard = 0 → t.barrier = some o →
    t.fold = none → t.abortAtEnd = false → t.lines = [] → t.gdst = false → l ≠ [] →
    (t.release = true → t.scope ≠ .host) →
    t.ready w = .bytes (l.mapIdx fun i b => (w.addr + i, b)) false → s.localSector c w.addr l.length false = .local_ sp x →
    s.barrierBad c o.toNat = none →
    let q := localSpace c o.toNat
    (q.1 ≠ sp ∨ q.2 + 16 ≤ x ∨ x + l.length ≤ q.2) →
    let elsewhere (sp' : Space) (b : Nat) : Prop := ¬ (sp' = q.1 ∧ q.2 ≤ b ∧ b < q.2 + 16)
    ∃ s', exec (.copySectorLand die col t.tag) s = .next s'
      ∧ s'.barrier c o.toNat = Barrier.land t.phase (w.cells.length + t.surplus) (s.barrier c o.toNat)
      ∧ (((∀ sp' b, sp'.real → elsewhere sp' b → s'.byte sp' b
              = if sp' = sp ∧ x ≤ b ∧ b < x + l.length then l.getD (b - x) 0 else s.byte sp' b)
            ∧ ∀ k ∈ (s'.col die col).transfers, k.tag ≠ t.tag)
        ∨ ((t.release = true → s.inReach c t.scope sp x = false)
            ∧ (∀ sp' b, sp'.real → elsewhere sp' b → s'.byte sp' b = s.byte sp' b)
            ∧ ∃ t', (s'.col die col).transfers.find? (fun k => k.tag = t.tag) = some t' ∧ t'.writes = []
              ∧ t'.late = [⟨w.addr, l.mapIdx fun i b => (w.addr + i, b), .local_ sp x⟩]))

/-- AMAX_FOLD stores the BF16 maximum of the word and the drained elements in one atomic access, and the transfer ends
(09 R202). -/
def amaxFoldStoresMaximum : Prop :=
  ∀ (s s1 : State) (die col a pa : Nat) (c : Crew) (t : Transfer) (e : TlbEntry),
    (s.col die col).transfers.find? (fun k => k.tag = t.tag) = some t → 104 * die + col < s.cols.length →
    s.crewByUid? t.uid = some c → c.place.die = die → c.place.col = col → s.globalWf = true → noBarrierWaiter s →
    t.fold = some a → t.waiting = none → t.writes = [] → t.late = [] → t.lines = [] →
    s.globalSector c t a 2 .atomic = (.device pa e, s1) → s1.poisoned pa 2 = false →
    let new := atomicValue .bfmax16 (BitVec.ofNat 32 (leNat (s.bytes .dev pa 2))) (BitVec.ofNat 32 t.amax)
    ∃ s', exec (.amaxFold die col t.tag) s = .next s' ∧ (∀ k ∈ (s'.col die col).transfers, k.tag ≠ t.tag)
      ∧ ∀ b, s'.byte .dev b = if pa ≤ b ∧ b < pa + 2 then BitVec.ofNat 8 (new / 256 ^ (b - pa)) else s.byte .dev b

/-- The sectors of a transfer, the last one's landing at a barrier object, and the fold of a drain's maximum (07 R154 to
R157; 10 R213, R214; 09 R202). -/
def Obligations.TransferSectors : Prop := sectorsReadAndLand ∧ lastSectorCountsOff ∧ amaxFoldStoresMaximum

/-- XLUT of valid operands, while no copy in flight names the slot and no XLUT of the column waits: the slot holds the
bytes, their number and the crew (10 R218). -/
def Obligations.LutLoads : Prop :=
  ∀ (x z : VReg) (slot : BitVec 2) (s : State) (c : Crew) (tid : Nat) (t : Thread), Alone s c tid t →
    let a := (t.v x.toNat).toNat
    let n := (t.v z.toNat).toNat
    let col := s.col c.place.die c.place.col
    104 * c.place.die + c.place.col < s.cols.length → a % 16 = 0 → n % 16 = 0 → 16 ≤ n → n ≤ 4096 →
    col.luts.length = 4 → s.lutWaiters c.place.die c.place.col = false → col.transfers.any (Transfer.namesSlot slot.toNat) = false → s.localReady c a n 16 true = .go →
    ∃ s' u, exec (.xlut x slot z) s = .next s' ∧ s'.thread? s.cur.place tid = some u ∧ pastIt t u ∧ sameBytes s s'
      ∧ (s'.col c.place.die c.place.col).luts[slot.toNat]? = some ⟨n, some c.uid, s.localBytes c a n⟩
      ∧ ∀ k, k ≠ slot.toNat → (s'.col c.place.die c.place.col).luts[k]? = col.luts[k]?

/-! ## Crew-wide instructions and the matrix engine -/

/-- The thread, alone in its issue group, in its crew and in the declared set of convergence register k, comes ready to a
crew-wide instruction: the set is complete with it. Its crew has no twin, and its matrix engine is not being reset. -/
structure SignsAlone (s : State) (c : Crew) (tid : Nat) (t : Thread) (k : Nat) : Prop where
  alone : Alone s c tid t
  ready : t.wait = .ready
  small : tid < 32
  present : c.present = BitVec.ofNat 32 (2 ^ tid)
  register : ∃ pc, c.cv[k]? = some ⟨BitVec.ofNat 32 (2 ^ tid), 0, pc⟩
  single : c.twin = none ∧ c.widowed = false
  engine : (s.col c.place.die c.place.col).resetting = false
  column : 104 * c.place.die + c.place.col < s.cols.length
  resident : s.crewByUid? c.uid = some c

/-- The state in which the complete set's operation is performed: the thread has signed, and waits. -/
def signedState (s : State) (tid : Nat) (t : Thread) (k : Nat) : State :=
  s.modCrew s.cur.place fun c =>
    { c with
      cv := c.cv.modify k fun v => { v with signed := BitVec.ofNat 32 (2 ^ tid), pc := some t.pc }
      threads := c.threads.modify tid fun t => { t with wait := .convergence k s.cur.word } }

/-- The signer goes on, and its register is clear again (02 R34). -/
def signerWent (s s' : State) (c c' : Crew) (tid : Nat) (t : Thread) (k : Nat) : Prop :=
  s'.crew? s.cur.place = some c' ∧ (∃ u, c'.threads[tid]? = some u ∧ pastIt t u)
    ∧ c'.cv[k]? = some ⟨BitVec.ofNat 32 (2 ^ tid), 0, none⟩ ∧ c'.present = c.present

/-- The crew-wide instructions: their convergence register, and whether its declared set must be the whole crew (02
R40). -/
def crewWide : Instr → Option (Nat × Bool)
  | .obres _ _ cv | .obrel _ cv | .obld _ _ _ cv | .obgat _ _ _ cv | .mma _ _ _ cv | .mmac _ _ _ cv | .mdft _ _ _ _ cv
  | .mdrn _ _ cv | .mzro _ _ cv | .tkget _ cv | .tkput _ cv | .mtwn cv => some (cv.toNat, true)
  | .conv cv => some (cv.toNat, false)
  | _ => none

/-- A signer of a declared set that is not the last waits with its bit in the mask; a thread outside the declared set, at
another PC than the signers, or, but for CONV, with a set that is not the whole crew, takes PARTIAL_CONVERGENCE (02 R34
to R37, R40). -/
def Obligations.Signing : Prop :=
  ∀ (i : Instr) (k : Nat) (whole : Bool), crewWide i = some (k, whole) →
    ∀ (s : State) (c : Crew) (tid : Nat) (t : Thread) (v : Cv), Alone s c tid t → c.cv[k]? = some v → tid < 32 →
    let good : Bool := v.declared.getLsbD tid && (!whole || v.declared == c.present) && (v.signed == 0 || v.pc == some t.pc)
    (good = true → v.signed ||| BitVec.ofNat 32 (2 ^ tid) ≠ v.declared →
      ∃ s' c', exec i s = .next s' ∧ s' = { s with crews := s'.crews } ∧ s'.crew? s.cur.place = some c'
        ∧ c'.cv[k]? = some ⟨v.declared, v.signed ||| BitVec.ofNat 32 (2 ^ tid), some t.pc⟩
        ∧ c'.threads[tid]? = some { t with wait := .convergence k s.cur.word }
        ∧ ∀ j, j ≠ tid → c'.threads[j]? = c.threads[j]?)
    ∧ (good = false →
      exec i s = .next (s.fault s.cur.place tid ⟨.partialConvergence, none, 0, 0⟩ (some s.cur.word)))

/-- CONV, and MTWN of a crew without a twin, let a complete set go on and change nothing else (02 R40, 09 R203). -/
def convergenceCompletes : Prop :=
  ∀ (s : State) (c : Crew) (tid : Nat) (t : Thread) (cv : CBit), SignsAlone s c tid t cv.toNat →
    ∀ i, i = .conv cv ∨ i = .mtwn cv →
    ∃ s' c', exec i s = .next s' ∧ signerWent s s' c c' tid t cv.toNat ∧ s' = { s with crews := s'.crews }
      ∧ c'.ob = c.ob ∧ c'.tiles = c.tiles

/-- CONV.init declares the present threads that V(Y) names, unless threads have signed; CONV.query writes the masks to a
pair (02 R40). -/
def convergenceRegisters : Prop :=
  ∀ (s : State) (c : Crew) (tid : Nat) (t : Thread) (cv : CBit) (v : Cv), Alone s c tid t → c.cv[cv.toNat]? = some v →
    (∀ y, v.signed = 0 → ∃ s' c', exec (.convInit cv y) s = .next s' ∧ s'.crew? s.cur.place = some c'
      ∧ c'.cv[cv.toNat]? = some ⟨t.v (BitVec.toNat y) &&& c.present, 0, none⟩
      ∧ c'.threads[tid]? = some { t with pc := t.pc + 4 } ∧ s' = { s with crews := s'.crews })
    ∧ (∀ y, v.signed ≠ 0 → exec (.convInit cv y) s
      = .next (s.fault s.cur.place tid ⟨.partialConvergence, none, 0, 0⟩ (some s.cur.word)))
    ∧ ∀ z, ∃ s', exec (.convQuery z cv) s = .next s' ∧ groupOnly s s' ∧ s'.thread? s.cur.place tid
      = some { (t.setV (BitVec.toNat z) v.signed).setV (BitVec.toNat z + 1) v.declared with pc := t.pc + 4 }

/-- OBRES of a well-formed record, with the range free and room in the operand buffer, reserves it; OBREL of a range
that no operation reads releases it, and of a free range does nothing (09 R192, R193); that a fill still under way then
writes the range no more is the model's choice (log 21). -/
def reservations : Prop :=
  ∀ (s : State) (c : Crew) (tid : Nat) (t : Thread) (cv : CBit) (ob : BitVec 4), SignsAlone s c tid t cv.toNat →
    c.ob.length = 16 →
    (∀ y, let a := (t.v (BitVec.toNat y)).toNat
      let r := Reservation.ofBytes (s.localBytes c a 32)
      s.localReady c a 32 32 true = .go → c.range? ob.toNat = none → r.malformed = false →
      s.operandUsed c + r.oblen * 256 ≤ 0x40000 →
      ∃ s' c', exec (.obres ob y cv) s = .next s' ∧ signerWent s s' c c' tid t cv.toNat ∧ sameBytes s s'
        ∧ c'.ob = c.ob.set ob.toNat (some r) ∧ c'.tiles = c.tiles)
    ∧ (c.range? ob.toNat = none ∨ s.rangeRead c ob.toNat = false →
      ∃ s' c', exec (.obrel ob cv) s = .next s' ∧ signerWent s s' c c' tid t cv.toNat ∧ sameBytes s s'
        ∧ c'.range? ob.toNat = none ∧ (∀ k, k ≠ ob.toNat → c'.ob[k]? = c.ob[k]?) ∧ c'.tiles = c.tiles
        ∧ (c.range? ob.toNat ≠ none →
          ∀ k ∈ (s'.col c.place.die c.place.col).transfers, (c.uid, ob.toNat) ∉ k.fills))

/-- OBRES_SPACE_FREED: a reservation that waited for space is made once there is room, and its signer goes on (09
R192). -/
def spaceFreed : Prop :=
  ∀ (s : State) (c : Crew) (tid : Nat) (t : Thread) (cv : CBit) (ob : BitVec 4) (y : VReg) (pc : W64) (w : W32) (met : Bool),
    s.crew? c.place = some c → c.threads[tid]? = some t → tid < 32 → c.twin = none → c.widowed = false →
    (s.col c.place.die c.place.col).resetting = false → t.wait = .convergence cv.toNat w → c.ob.length = 16 →
    c.held = [⟨cv.toNat, .obres ob y cv, pc, tid, .space, w, met⟩] →
    let a := (t.v y.toNat).toNat
    let r := Reservation.ofBytes (s.localBytes c a 32)
    s.localReady c a 32 32 true = .go → c.range? ob.toNat = none → r.malformed = false →
    s.operandUsed c + r.oblen * 256 ≤ 0x40000 →
    ∃ s' c' u, exec (.obresSpaceFreed c.place) s = .next s' ∧ s'.crew? c.place = some c'
      ∧ c'.ob = c.ob.set ob.toNat (some r) ∧ c'.held = [] ∧ c'.threads[tid]? = some u
      ∧ pastIt { t with wait := .ready } u

/-- OBLD whose checks pass is accepted as a fill of the range, behind the threads; OBGAT of a plain range gathers its rows
from local memory at once, zeros for the index 0xFFFF (09 R194, R195). -/
def rangeFills : Prop :=
  ∀ (s : State) (c : Crew) (tid : Nat) (t : Thread) (cv : CBit) (ob : BitVec 4) (y z : VReg),
    SignsAlone s c tid t cv.toNat → c.ob.length = 16 →
    (∀ k ∈ (s.col c.place.die c.place.col).transfers, k.isFill = true → k.reads ≠ []) →
    (∀ c0 p s1, (signedState s tid t cv.toNat).crew? s.cur.place = some c0 →
      (signedState s tid t cv.toNat).planObld c0 tid ob y z none = (.ok p, s1) → readSectors (sourcesOf p.cells) ≠ [] →
      ∃ s' c' k, exec (.obld ob y z cv) s = .next s' ∧ signerWent s s' c c' tid t cv.toNat
        ∧ k ∈ (s'.col c.place.die c.place.col).transfers ∧ k.uid = c.uid
        ∧ k.kind = .fill [⟨c.uid, ob.toNat, p.cells, p.zrows, p.vcols⟩]
        ∧ k.reads = readSectors (sourcesOf p.cells) ∧ k.writes = [] ∧ k.acquire = false ∧ k.barrier = none)
    ∧ ∀ r, c.range? ob.toNat = some r → r.mode.toNat % 4 = 0 → r.q4n = false → Memory.wf r.data = true →
      s.rangeRead c ob.toNat = false → s.fillsInto c ob.toNat = [] →
      let iv := (t.v y.toNat).toNat
      let l := s.localBytes c iv (4 + 2 * r.rows)
      let at_ (i : Nat) : Nat := ((t.v z.toNat).toNat + fieldAt l (4 + 2 * i) 2 * fieldAt l 0 4) % 2 ^ 32
      iv % 4 = 0 → s.localReady c iv (4 + 2 * r.rows) 1 true = .go → fieldAt l 0 4 % 4 = 0 →
      (∀ i, i < r.rows → fieldAt l (4 + 2 * i) 2 = 0xFFFF ∨ s.localReady c (at_ i) r.rowBytes 1 true = .go) →
      ∃ s' c' q, exec (.obgat ob y z cv) s = .next s' ∧ signerWent s s' c c' tid t cv.toNat ∧ sameBytes s s'
        ∧ c'.range? ob.toNat = some q ∧ ∀ i b, i < r.rows → b < r.rowBytes →
          q.data.read (i * r.rowBytes + b)
            = if fieldAt l (4 + 2 * i) 2 = 0xFFFF then 0 else (s.localBytes c (at_ i) r.rowBytes).getD b 0

/-- OBRES, OBREL, OBFIL and the space that a waiting set gets (09 R192 to R195). -/
def Obligations.OperandRanges : Prop := reservations ∧ spaceFreed ∧ rangeFills

/-- MMA, MMAC, MDFT and MZRO whose checks pass go to the column's engine behind the operations that are there, and their
signer goes on; no tile changes yet (09 R196 to R198, 16 R335, R338, R344). -/
def matrixOperationsAccepted : Prop :=
  ∀ (s : State) (c : Crew) (tid : Nat) (t : Thread) (cv : CBit) (c0 : Crew), SignsAlone s c tid t cv.toNat →
    (signedState s tid t cv.toNat).crew? s.cur.place = some c0 →
    let s0 := signedState s tid t cv.toNat
    let queued (i : Instr) (obs : List Nat) : Prop := ∃ s' c' o, exec i s = .next s'
      ∧ signerWent s s' c c' tid t cv.toNat ∧ sameBytes s s' ∧ c'.ob = c.ob ∧ c'.tiles = c.tiles
      ∧ (s'.col c.place.die c.place.col).ops = (s.col c.place.die c.place.col).ops ++ [o]
      ∧ o.instr = i ∧ o.uid = c.uid ∧ o.drain = none ∧ o.fills = obs.flatMap (s.fillsInto c)
    (∀ x a b, s0.multiplyPerf c0 false (BitVec.toNat x) (BitVec.toNat a) (BitVec.toNat b) = .done →
      queued (.mma x a b cv) [BitVec.toNat a, BitVec.toNat b])
    ∧ (∀ x a b, s0.multiplyPerf c0 true (BitVec.toNat x) (BitVec.toNat a) (BitVec.toNat b) = .done →
      queued (.mmac x a b cv) [BitVec.toNat a, BitVec.toNat b])
    ∧ (∀ inv n x a s1, s0.performMdft c0 tid (.mdft inv n x a cv) n x a cv = (.done, s1) →
      queued (.mdft inv n x a cv) [BitVec.toNat a])
    ∧ ∀ q x, c.matrixSide [BitVec.toNat x] = true →
      queued (.mzro q x cv) []

/-- MDRN whose checks pass, without guidance, goes to the engine with its descriptor and arrives once at its object with
the bytes of its output (09 R202, 16 R336). -/
def drainsAccepted : Prop :=
  ∀ (s s1 : State) (c c0 : Crew) (tid : Nat) (t : Thread) (cv : CBit) (x : BitVec 3) (y : VReg) (d : DrainDesc),
    SignsAlone s c tid t cv.toNat → s.memoriesWf = true → noBarrierWaiter s →
    (signedState s tid t cv.toNat).crew? s.cur.place = some c0 →
    (signedState s tid t cv.toNat).planMdrn c0 tid x y = (.ok d, s1) → d.guided = false →
    let o := s.barrier c d.barrier.toNat
    ∃ s' c' k, exec (.mdrn x y cv) s = .next s' ∧ signerWent s s' c c' tid t cv.toNat
      ∧ (s'.col c.place.die c.place.col).ops = (s.col c.place.die c.place.col).ops ++ [k]
      ∧ k.instr = .mdrn x y cv ∧ k.uid = c.uid ∧ k.drain = some (d, (arrived o (64 * d.rowBytes)).phase)
      ∧ s'.barrier c d.barrier.toNat = arrived o (64 * d.rowBytes) ∧ c'.tiles = c.tiles

/-- The new value of element (i, j) of a 64 × 64 tile after a real multiplication: its old value and, group of 16 after
group of 16, the exact sums of products, each added once (05 R113, 09 R197). -/
def multiplied (i48q2 : Bool) (k : Nat) (a b : List (List (Option (Fp × Fp)))) (i j : Nat) (old : W48) : W48 :=
  (groupSums false false (k / 16) (a.getD i []) (b.map fun row => row.getD j none)).foldl (accumulate i48q2) old

/-- The same of a component of a complex element: the real parts, or the imaginary parts, of the products (09 R197). -/
def complexMultiplied (imag : Bool) (k : Nat) (a : List (List (Option (Fp × Fp)))) (b : List (Option (Fp × Fp))) (i : Nat)
    (old : W48) : W48 :=
  (groupSums true imag (k / 16) (a.getD i []) b).foldl (accumulate false) old

/-- Element m of a tile, or of a tile and the next one. -/
def elementOf (c : Crew) (x m : Nat) : W48 := (c.tile (x + m / 4096)).list.getD (m % 4096) 0

/-- Element e of a drained tile before the steps that its descriptor turns on (09 R202). -/
def drainedElement (c : Crew) (x e : Nat) : W48 := tileFa48 (c.tile x).i48q2 ((c.tile x).list.getD e 0)

/-- MATRIX_OPERATION_FINISHED of the one operation that can run: it leaves the queue; MZRO clears its tile and sets its
type, and a real MMA of 64 rows and 64 columns adds its products to each element (09 R196 to R198). An operation of which
a range or a tile has failed its check since its acceptance changes no tile and no range (11 R236). -/
def matrixOperationFinishes : Prop :=
  ∀ (s : State) (die col : Nat) (o : MatOp) (c : Crew), 104 * die + col < s.cols.length →
    (s.col die col).ops.filter (s.col die col).canRun = [o] → s.crewByUid? o.uid = some c →
    (∀ q x cv, o.instr = .mzro q x cv → o.drain = none → o.damaged c = false →
      ∃ s' c', exec (.matrixOperationFinished die col) s = .next s' ∧ s'.crewByUid? o.uid = some c'
        ∧ (∀ p ∈ (s'.col die col).ops, p.id ≠ o.id) ∧ sameBytes s s'
        ∧ c'.tiles = c.tiles.modify (BitVec.toNat x) fun t =>
          { t with elems := [], i48q2 := q, bad := false })
    ∧ (o.damaged c = true → o.drain = none →
      ∃ s' c', exec (.matrixOperationFinished die col) s = .next s' ∧ s'.crewByUid? o.uid = some c'
        ∧ (∀ p ∈ (s'.col die col).ops, p.id ≠ o.id) ∧ sameBytes s s' ∧ c'.tiles = c.tiles ∧ c'.ob = c.ob)
    ∧ ∀ x a b cv ra rb, o.instr = .mma x a b cv → o.drain = none → c.range? (BitVec.toNat a) = some ra →
      c.range? (BitVec.toNat b) = some rb → ra.rows = 64 → rb.cols = 64 → BitVec.toNat x < c.tiles.length →
      o.damaged c = false →
      ∃ s' c', exec (.matrixOperationFinished die col) s = .next s' ∧ s'.crewByUid? o.uid = some c'
        ∧ (∀ p ∈ (s'.col die col).ops, p.id ≠ o.id) ∧ sameBytes s s'
        ∧ (∀ n, n ≠ BitVec.toNat x → c'.tiles[n]? = c.tiles[n]?)
        ∧ ∀ i j, i < 64 → j < 64 → (c'.tile (BitVec.toNat x)).list.getD (64 * i + j) 0
          = multiplied ra.i48q2 ra.m.cls.k ra.matrix rb.matrix i j ((c.tile (BitVec.toNat x)).list.getD (64 * i + j) 0)

/-- The same of MMAC of 32 rows and 64 columns, and of MDFT of 64 rows: to both components of each complex element, which lie
side by side in row-major order, they add the products with the other operand, or with the generated powers of ω; the
other elements, and the other tiles, stay (09 R191, R196, R197; 16 R335; 05 R111). -/
def complexOperationsFinish : Prop :=
  ∀ (s : State) (die col : Nat) (o : MatOp) (c : Crew), 104 * die + col < s.cols.length →
    (s.col die col).ops.filter (s.col die col).canRun = [o] → s.crewByUid? o.uid = some c → o.drain = none →
    o.damaged c = false →
    let ends (f : State → Crew → Prop) : Prop := ∃ s' c', exec (.matrixOperationFinished die col) s = .next s'
      ∧ s'.crewByUid? o.uid = some c' ∧ c' = { c with tiles := c'.tiles } ∧ (∀ p ∈ (s'.col die col).ops, p.id ≠ o.id)
      ∧ sameBytes s s' ∧ f s' c'
    (∀ x a b cv ra rb, o.instr = .mmac x a b cv → c.range? (BitVec.toNat a) = some ra → c.range? (BitVec.toNat b) = some rb →
      ra.rows = 32 → rb.cols = 64 → BitVec.toNat x < c.tiles.length →
      ends fun _ c' => (∀ n, n ≠ BitVec.toNat x → c'.tiles[n]? = c.tiles[n]?)
        ∧ ∀ i j imag, i < 32 → j < 64 →
          let m := 2 * (64 * i + j) + (if imag then 1 else 0)
          elementOf c' (BitVec.toNat x) m
            = complexMultiplied imag 32 ra.matrix (rb.matrix.map fun row => row.getD j none) i (elementOf c (BitVec.toNat x) m))
    ∧ ∀ inv n x a cv ra, o.instr = .mdft inv n x a cv → c.range? (BitVec.toNat a) = some ra → ra.rows = 64 →
      BitVec.toNat x + (if n = .n64 then 1 else 0) < c.tiles.length →
      let N := 2 ^ dftLog n
      ends fun _ c' => (∀ k, k ≠ BitVec.toNat x → (n = .n64 → k ≠ BitVec.toNat x + 1) → c'.tiles[k]? = c.tiles[k]?)
        ∧ (∀ i j imag, i < 64 → j < N →
          let m := 2 * (N * i + j) + (if imag then 1 else 0)
          elementOf c' (BitVec.toNat x) m = complexMultiplied imag N ra.matrix ((dftColumns inv ra.m.fmt (dftLog n)).getD j []) i
            (elementOf c (BitVec.toNat x) m))
        ∧ ∀ m, 128 * N ≤ m → m < 4096 → elementOf c' (BitVec.toNat x) m = elementOf c (BitVec.toNat x) m

/-- The same of MDRN: the engine has taken the tile's elements, of a guided drain in a pair those of both twins' tiles guided
(09 R202 step 1), no tile changes, and the drain's stores begin: a transfer of its crew at its object, under its phase,
that will write every byte of the output rows from those elements, with the fold of the maximum to follow where the
descriptor asks for it. -/
def drainsFinish : Prop :=
  ∀ (s : State) (o : MatOp) (c : Crew) (x : BitVec 3) (y : VReg) (cv : CBit) (d : DrainDesc) (phase : Bool),
    let die := c.place.die
    let col := c.place.col
    104 * die + col < s.cols.length → (s.col die col).ops.filter (s.col die col).canRun = [o] →
    s.crewByUid? o.uid = some c → o.instr = .mdrn x y cv → o.drain = some (d, phase) → o.damaged c = false →
    (∀ u q, o.twin = some u → s.crewByUid? u = some q → (q.tile (BitVec.toNat x)).bad = false) →
    ∃ s' t l, exec (.matrixOperationFinished die col) s = .next s' ∧ s'.crews = s.crews ∧ sameBytes s s'
      ∧ (∀ p ∈ (s'.col die col).ops, p.id ≠ o.id)
      ∧ (s'.col die col).transfers = (s.col die col).transfers ++ [t]
      ∧ t.kind = .drain d l ∧ t.uid = o.uid ∧ t.barrier = some d.barrier ∧ t.phase = phase ∧ t.release = d.release
      ∧ t.scope = d.scope ∧ t.gsrc = false ∧ t.gdst = false ∧ t.fold = (if d.amaxOn then some d.amax else none)
      ∧ (d.residual = false → t.reads = [])
      ∧ (o.twin.bind s.crewByUid? = none → ∀ e, e < 4096 → look 0 l e = drainedElement c (BitVec.toNat x) e)
      ∧ (∀ q, o.twin.bind s.crewByUid? = some q → ∀ e, e < 4096 → look 0 l e
          = (if c.first then guide d.g (drainedElement c (BitVec.toNat x) e) (drainedElement q (BitVec.toNat x) e)
             else guide d.g (drainedElement q (BitVec.toNat x) e) (drainedElement c (BitVec.toNat x) e)))
      ∧ ∀ r k, r < 64 → k < d.rowBytes → ∃ w ∈ t.writes, (d.dst + r * d.pitch + k,
          if d.fmt.width = 4 then ByteSrc.drain (64 * r + 2 * k) none
          else ByteSrc.drain (64 * r + k / (d.fmt.width / 8)) (some (k % (d.fmt.width / 8)))) ∈ w.cells

/-- The matrix engine's operations and drains (09 R196 to R202). -/
def Obligations.MatrixOperations : Prop :=
  matrixOperationsAccepted ∧ drainsAccepted ∧ matrixOperationFinishes ∧ complexOperationsFinish ∧ drainsFinish

/-- TKGET gives a tile's token to the vector side once no operation in the engine acts on the tile, TKPUT gives it back;
ACLD and ACST then move one element: an I48Q2 element as a sign-extended pair, another through FP32, with the flags of the
conversion (09 R199, R200; 14 R285). -/
def Obligations.TileTokensAndElements : Prop :=
  (∀ (s : State) (c : Crew) (tid : Nat) (t : Thread) (cv : CBit) (x : BitVec 3), SignsAlone s c tid t cv.toNat →
    x.toNat < c.tiles.length →
    let sided (i : Instr) (v : Bool) : Prop := ∃ s' c', exec i s = .next s' ∧ signerWent s s' c c' tid t cv.toNat
      ∧ c'.tiles = c.tiles.modify x.toNat (fun k => { k with vector := v }) ∧ c'.ob = c.ob
      ∧ s' = { s with crews := s'.crews }
    (s.tileBusy c x.toNat = false → sided (.tkget x cv) true) ∧ sided (.tkput x cv) false)
  ∧ ∀ (s : State) (c : Crew) (tid : Nat) (t : Thread) (x : VReg) (acc : BitVec 3) (z : VReg) (k : Tile), Alone s c tid t →
    c.tiles[acc.toNat]? = some k → k.vector = true → (k.i48q2 = true → x.toNat % 2 = 0) →
    s.tilesDamaged c [acc.toNat] = false →
    let e := (t.v z.toNat).toNat % 4096
    let v := look 0 k.elems e
    let w := FpFmt.fp32.encode .rne false (FpFmt.fa48.decode v.toNat) false
    (∃ s', exec (.acld x acc z) s = .next s' ∧ groupOnly s s' ∧ s'.thread? s.cur.place tid = some
      (if k.i48q2 then { t.setPair x.toNat (BitVec.ofInt 64 v.toInt) with pc := t.pc + 4 }
       else { t.setV x.toNat (BitVec.ofNat 32 w.1) with fpf := t.fpf ||| w.2, pc := t.pc + 4 }))
    ∧ (tableFrom (0 : W48) none k.elems = true →
      ∃ s' c' k', exec (.acst x acc z) s = .next s' ∧ s'.crew? s.cur.place = some c' ∧ c'.tiles[acc.toNat]? = some k'
        ∧ c'.threads[tid]? = some { t with
            pc := t.pc + 4, fpf := t.fpf ||| (if !k.i48q2 && isSignallingCode (t.v x.toNat) then Fl.invalid else 0) }
        ∧ s' = { s with crews := s'.crews } ∧ (∀ n, n ≠ acc.toNat → c'.tiles[n]? = c.tiles[n]?)
        ∧ ∀ n, look 0 k'.elems n = if n = e then (if k.i48q2 then sat48 (t.pair x.toNat).toInt else fa48OfFp32 (t.v x.toNat))
            else look 0 k.elems n)

/-- Two twins that both wait at MTWN become a bound pair, and both go on (09 R203, Table 9.7). -/
def twinsBind : Prop :=
  ∀ (s : State) (c d : Crew) (tid : Nat) (t : Thread) (cv : CBit) (g : Held) (cv' : CBit) (w : W32) (u : Thread), Alone s c tid t →
    t.wait = .ready → tid < 32 → c.present = BitVec.ofNat 32 (2 ^ tid) → (s.col c.place.die c.place.col).resetting = false →
    (∃ pc, c.cv[cv.toNat]? = some ⟨BitVec.ofNat 32 (2 ^ tid), 0, pc⟩) → c.widowed = false →
    c.twin = some d.place → s.crew? d.place = some d → d.place ≠ c.place → d.held = [g] → g.why = .twin →
    g.instr = .mtwn cv' → g.cv = cv'.toNat → d.threads = [u] → u.wait = .convergence cv'.toNat w →
    ∃ s' c' d', exec (.mtwn cv) s = .next s' ∧ s'.crew? c.place = some c' ∧ s'.crew? d.place = some d'
      ∧ c'.bound = true ∧ d'.bound = true ∧ d'.held = []
      ∧ c'.threads[tid]? = some { t with pc := t.pc + 4 }
      ∧ d'.threads = [{ u with wait := .ready, pc := u.pc + 4 }] ∧ s' = { s with crews := s'.crews }

/-- Convergence registers and twins (02 R33 to R38, 09 R203). -/
def Obligations.Convergence : Prop := convergenceCompletes ∧ convergenceRegisters ∧ twinsBind

/-! ## Services, the end of a thread, reefing, caches -/

/-- SYSC #0 gives the crew number and the effective domain and priority, SYSC #1 the region's ways, the column's count and
whether the region owns the scratchpad, in V(0), V(1), V(2) (17 R375, Table 17.5). EXIT takes the thread from the present
set and every declared set of a crew in which no thread has signed; the crew ends with its last thread (15 R311). -/
def Obligations.ServicesAndExit : Prop :=
  (∀ s : State,
    (∃ s', exec .syscIdentity s = .next s' ∧ groupOnly s s' ∧ ∀ c tid t, InGroup s c tid t →
      s'.thread? s.cur.place tid = some (s.goneOn ((t.setV 0 (BitVec.ofNat 32 c.crewno)).setV 1
        (BitVec.ofNat 32 ((s.eff c.at_.rcb).domain.toNat + 65536 * ((s.eff c.at_.rcb).priority % 64))))))
    ∧ ∃ s', exec .syscBudget s = .next s' ∧ groupOnly s s' ∧ ∀ c tid t, InGroup s c tid t →
      let k := s.col c.place.die c.place.col
      s'.thread? s.cur.place tid = some (s.goneOn (((t.setV 0 (BitVec.ofNat 32 (s.eff c.at_.rcb).ways)).setV 1
        (BitVec.ofNat 32 k.count)).setV 2 (if k.owner = some c.at_.rcb then 1 else 0))))
  ∧ ∀ (s : State) (c : Crew) (tid : Nat) (t : Thread), Alone s c tid t → tid < 32 → c.twin = none →
    (∀ v ∈ c.cv, v.signed = 0) →
    let off : W32 := ~~~ BitVec.ofNat 32 (2 ^ tid)
    ∃ s' c', exec .exit s = .next s' ∧ s'.crew? s.cur.place = some c' ∧ c'.present = c.present &&& off
      ∧ c'.cv = c.cv.map (fun v => { v with declared := v.declared &&& off })
      ∧ c'.phase = (if c'.present = 0 then .ended else c.phase) ∧ (∀ j, j ≠ tid → c'.threads[j]? = c.threads[j]?)
      ∧ sameBytes s s' ∧ ∀ p, p ≠ s.cur.place → s'.crew? p = s.crew? p

/-- SCWAY, and SCFL of a class up to 2, queue behind the column's requests, and their thread waits; SCFL of a higher class
is illegal (06 R134, R137). -/
def reefRequests : Prop :=
  ∀ (x : VReg) (s : State) (c : Crew) (tid : Nat) (t : Thread), Alone s c tid t →
    104 * c.place.die + c.place.col < s.cols.length →
    let p := s.cur.place
    let asked (r : ReefReq) : ThreadAt × Bool × W32 := (r.thread, r.ways, r.arg)
    let queues (i : Instr) (ways : Bool) : Prop := ∃ s', exec i s = .next s'
      ∧ s'.thread? p tid = some { t with wait := .reef ways } ∧ sameBytes s s'
      ∧ (s'.col p.die p.col).reefs.map asked = (s.col p.die p.col).reefs.map asked ++ [(⟨p, tid⟩, ways, t.v x.toNat)]
      ∧ ∀ q j, ¬ (q = p ∧ j = tid) → s'.thread? q j = s.thread? q j
    queues (.scway x) true
    ∧ ((t.v x.toNat).toNat ≤ 2 → queues (.scfl x) false)
    ∧ (2 < (t.v x.toNat).toNat →
      exec (.scfl x) s = .next (s.take p tid ⟨.illegalInsn, none, 0, 0⟩ (some s.cur.word)))

/-- SCWAY_COMPLETE within the region's budget sets the column's count: mebibytes of scratchpad gained or lost read 0, the
others as before, and the thread goes on; beyond it, or on another region's scratchpad, the thread takes
ACCESS_TABLE_DENIED at the first byte past and the count stays (06 R133 to R135). SCFL_COMPLETE cleans the bank's lines,
removes them, or removes its saturated shared lines, by its class (06 R137). Two things are the model's choice: the first
byte past for a number of mebibytes beyond the scratchpad's 16 (log 81), and when a request's cost is worked off, the
premise here (log 43). -/
def reefCompletions : Prop :=
  ∀ (s : State) (c : Crew) (tid : Nat) (t : Thread) (r : ReefReq) (rest : List ReefReq),
    let die := c.place.die
    let col := c.place.col
    let k := s.col die col
    col < 104 → 104 * die + col < s.cols.length → s.crew? c.place = some c → c.threads[tid]? = some t →
    k.reefs = r :: rest →
    r.thread = ⟨c.place, tid⟩ → r.cost = 0 → t.wait = .reef r.ways →
    let n := r.arg.toNat
    let beyond : Prop := (s.eff c.at_.rcb).ways < n ∨ 16 < n ∨ 0 < k.count ∧ k.owner ≠ some c.at_.rcb
    let went : Thread := { t with wait := .ready, pc := t.pc + 4 }
    (r.ways = true → ¬ beyond → ∃ s', exec (.scwayComplete die col) s = .next s'
      ∧ s'.thread? c.place tid = some went ∧ (s'.col die col).count = n ∧ (s'.col die col).reefs.length = rest.length
      ∧ (n ≠ k.count → (s'.col die col).owner = if n = 0 then none else some c.at_.rcb)
      ∧ ∀ sp a, sp.real → s'.byte sp a = if sp = .scr die col ∧ min n k.count * 0x100000 ≤ a ∧ a < max n k.count * 0x100000 then 0
          else s.byte sp a)
    ∧ (r.ways = true → beyond → ∃ s' u, exec (.scwayComplete die col) s = .next s' ∧ s'.thread? c.place tid = some u
      ∧ u.cause = 0x08 ∧ u.ebad = BitVec.ofNat 64 (0x1000000 + n * 0x100000) ∧ u.pc = t.pc ∧ u.wait ≠ .ready
      ∧ (s'.col die col).count = k.count ∧ sameBytes s s')
    ∧ (r.ways = false → n ≤ 2 → ∃ s', exec (.scflComplete die col) s = .next s'
      ∧ s'.thread? c.place tid = some went ∧ sameBytes s s' ∧ (s'.col die col).reefs.length = rest.length
      ∧ (n = 0 → ∀ x ∈ (s'.die die).stack, x.bank = col → x.dirty = false)
      ∧ (n = 1 → ∀ x ∈ (s'.die die).stack, x.bank ≠ col)
      ∧ (n = 2 → ∀ x ∈ (s'.die die).dedup, x.bank = col → x.count ≠ 255))

/-- SCWAY and SCFL (06 R130 to R137). -/
def Obligations.Reefing : Prop := reefRequests ∧ reefCompletions

/-- A thread's range of V(Y) bytes at pair(X) is not empty and lies in one page; what the page's check for a kind of access
gives; where `pass`, host and register pages pass (14 R305). -/
def onePage (s : State) (tid : Nat) (t : Thread) (x y : VReg) (pass : Bool) (k : AccKind) (r : Checked × State) : Prop :=
  let a := (t.pair x.toNat).toNat
  let n := (t.v y.toNat).toNat
  n ≠ 0 ∧ a % 4096 + n ≤ 4096 ∧ s.checkPage s.cur.place tid pass (t.pair x.toNat) k = r
/-- The page may be used: it is neither refused nor to be walked to first. -/
def pagePasses : Checked → Prop
  | .bad _ | .walk => False
  | _ => True

/-- CWB, CINV, IINV and IPIN of a range in one page wait for their completions, with the range's lines gone from every
data cache (CINV), every instruction cache (IINV), or held pinned (IPIN); an empty range goes on; a refused page is the
thread's cause, but CWB and CINV pass over pages of host memory and registers; for a page whose translation no TLB holds the thread waits (14 R305, 15 R326, R327; 08 R181). That the
lines change at the instruction's own step, before the wait, is the model's choice (log 29). -/
def cacheRanges : Prop :=
  ∀ (x y : VReg) (s : State) (c : Crew) (tid : Nat) (t : Thread), Alone s c tid t →
    let p := s.cur.place
    let a := (t.pair x.toNat).toNat
    let n := (t.v y.toNat).toNat
    let waits (i : Instr) (op : CacheOp) (lines : List Nat) (also : State → Prop) : Prop := ∃ s', exec i s = .next s' ∧ sameBytes s s'
      ∧ s'.thread? p tid = some { t with wait := .cacheOp op lines } ∧ also s'
      ∧ ∀ q j, ¬ (q = p ∧ j = tid) → s'.thread? q j = s.thread? q j
    (n = 0 → ∀ i, i = .cwb x y ∨ i = .cinv x y ∨ i = .iinv x y ∨ i = .ipin x y ∨ i = .iunp x y →
      ∃ s', exec i s = .next s' ∧ onlyThread s s' p tid { t with pc := t.pc + 4 })
    ∧ (∀ pass k i, pass = true ∧ k = .read ∧ (i = .cwb x y ∨ i = .cinv x y)
        ∨ pass = false ∧ (k = .read ∧ (i = .iinv x y ∨ i = .iunp x y) ∨ k = .fetch ∧ i = .ipin x y) →
      (∀ b s1, onePage s tid t x y pass k (.bad b, s1) → exec i s = .next (s1.take p tid b (some s.cur.word)))
      ∧ ∀ s1, onePage s tid t x y pass k (.walk, s1) → ∃ s' u, exec i s = .next s' ∧ s'.thread? p tid = some u ∧ sameBytes s s'
        ∧ u = { t with wait := .walk (t.pair x.toNat) k.code s.cur.word .core, missed := u.missed, pts := u.pts })
    ∧ (∀ r s1, onePage s tid t x y true .read (r, s1) → pagePasses r →
      waits (.cwb x y) .cwb [] (fun _ => True)
      ∧ waits (.cinv x y) .cinv [] (fun s' => ∀ pa h e, r = .device pa h e → ∀ l ∈ linesOf pa n,
          (∀ k ∈ s'.cols, ∀ q ∈ k.copies, q.line ≠ l)
          ∧ (∀ q ∈ s'.die0.rdc ++ s'.die1.rdc, q.line ≠ l) ∧ (∀ q ∈ (s'.die h).l2, q.1 ≠ l)
          ∧ ∀ q ∈ (s'.die h).stack, q.line ≠ l))
    ∧ (∀ r s1, onePage s tid t x y false .read (r, s1) → pagePasses r →
      waits (.iinv x y) .iinv [] (fun s' => ∀ l ∈ linesOf a n, ∀ k ∈ s'.cols, ∀ q ∈ k.icache, q.line ≠ l))
    ∧ ∀ s1 pa h e, onePage s tid t x y false .fetch (.device pa h e, s1) → 104 * p.die + p.col < s.cols.length → a % 128 + n ≤ 128 →
      pa % 128 = a % 128 → homeOf (pa / 128 * 128) = some h → (h = p.die ∨ ∀ k ∈ (s.die p.die).rdc, k.line ≠ pa / 128) →
      (s.col p.die p.col).iline? (a / 128) = none → s.poisoned (pa / 128 * 128) 1 = false →
      ((s.col p.die p.col).icache.filter ILine.pinned).length < 256 →
      waits (.ipin x y) .ipin [a / 128] (fun s' => ∃ q ∈ (s'.col p.die p.col).icache, q.line = a / 128 ∧ q.pinned = true
        ∧ ∀ j, j < 32 → q.words.getD j 0 = le32 (s.bytes .dev (pa / 128 * 128 + 4 * j) 4))

/-- IPRE goes on whatever its range holds, with no store and no register changed; IUNP of a range in one page leaves none
of its lines pinned; FBAR drops the fetched words and waits for a fetch; and each of the four waits ends by its own
completion, that of IPIN once every line that it pinned is present and pinned: the thread else executes the IPIN again
(14 R305, 15 R313, R326; that a completion is an event of its own, log 29). -/
def codeCacheControl : Prop :=
  (∀ (x y : VReg) (s : State) (c : Crew) (tid : Nat) (t : Thread), Alone s c tid t →
    let p := s.cur.place
    (∃ s', exec (.ipre x y) s = .next s' ∧ sameBytes s s' ∧ s'.thread? p tid = some { t with pc := t.pc + 4 }
      ∧ s'.outgoing = s.outgoing ∧ ∀ q j, ¬ (q = p ∧ j = tid) → s'.thread? q j = s.thread? q j)
    ∧ (∃ s', exec .fbar s = .next s'
      ∧ onlyThread s s' p tid { t with pc := t.pc + 4, next := none, fbuf := none, wait := .fetch })
    ∧ ∀ r s1, onePage s tid t x y false .read (r, s1) → pagePasses r → 104 * p.die + p.col < s.cols.length →
      ∃ s', exec (.iunp x y) s = .next s' ∧ sameBytes s s' ∧ s'.thread? p tid = some { t with pc := t.pc + 4 }
        ∧ ∀ q ∈ (s'.col p.die p.col).icache, q.line ∈ linesOf (t.pair x.toNat).toNat (t.v y.toNat).toNat → q.pinned = false)
  ∧ ∀ (s : State) (q : ThreadAt) (t : Thread) (op : CacheOp) (lines : List Nat), s.thread? q.crew q.tid = some t →
    t.wait = .cacheOp op lines →
    let held : Prop := ∀ l ∈ lines, ((s.col q.crew.die q.crew.col).iline? l).any ILine.pinned = true
    (op = .ipin → ¬ held → ∃ s', exec (.ipinComplete q) s = .next s' ∧ onlyThread s s' q.crew q.tid { t with wait := .ready })
    ∧ ∀ i, (op = .ipin → held) → i = (match op with
      | .cwb => Instr.cwbComplete q
      | .cinv => .cinvComplete q
      | .iinv => .iinvComplete q
      | .ipin => .ipinComplete q) →
      ∃ s', exec i s = .next s' ∧ onlyThread s s' q.crew q.tid { t with wait := .ready, pc := t.pc + 4 }

/-- CWB, CINV, IINV, IPIN and FBAR. -/
def Obligations.CacheInstructions : Prop := cacheRanges ∧ codeCacheControl

/-- The thread of the group stands at the PEAL with an integer word in V(N). -/
def atIntegerWord (s : State) (n : VReg) (c : Crew) (tid : Nat) (t : Thread) : Prop :=
  InGroup s c tid t ∧ c.has tid = true ∧ t.wait = .ready ∧ t.pc = s.cur.pc ∧ t.bad = []
    ∧ ∃ i d f, decode (t.v n.toNat) = .ok i ∧ arithmeticRule i = some (d, f)

/-- PEAL of integer words: in each of its slots the threads of the least word that is left execute it, reading their
registers as they are, and hold the pipe for the next; after the last word every thread goes on past the PEAL, those of
the last word with the latest timestamp of the words before (02 R43 to R46). A word that does not decode is
ILLEGAL_PEAL_WORD, with the word in sys.eword, where the region has no emulation handler (02 R42, 16 R352). -/
def Obligations.PealRunsComputedWords : Prop :=
  (∀ (n : VReg) (s : State) (w : W32), s.cur.tids.Nodup →
    let p := s.cur.place
    let held (k : State) (j : Nat) : W32 := ((k.thread? p j).map fun t => t.v n.toNat).getD 0
    s.pealOf ⟨p, s.cur.tids, s.cur.pc, s.cur.pipe⟩ = none → 104 * p.die + p.col < s.cols.length →
    (∀ tid ∈ s.cur.tids, ∃ c t, atIntegerWord s n c tid t) →
    (∃ j ∈ s.cur.tids, held s j = w) → (∀ j ∈ s.cur.tids, w ≤ held s j) →
    let last : Bool := s.cur.tids.all fun j => held s j == w
    ∃ s', exec (.peal n) s = .next s' ∧ sameBytes s s'
      ∧ (∀ q j, ¬ (q = p ∧ j ∈ s.cur.tids) → s'.thread? q j = s.thread? q j)
      ∧ (∀ c tid t i d f, InGroup s c tid t → decode (t.v n.toNat) = .ok i → arithmeticRule i = some (d, f) →
        s'.thread? p tid = some (if last then { t.setV d.toNat (f c t) with pc := t.pc + 4, peal := false, missed := none }
          else if t.v n.toNat = w then { t.setV d.toNat (f c t) with peal := true, missed := none } else { t with peal := true }))
      ∧ (last = true → ∀ r ∈ (s'.col p.die p.col).peals, ¬ (r.place = p ∧ r.tids = s.cur.tids ∧ r.pipe = s.cur.pipe))
      ∧ (last = false → ∃ r ∈ (s'.col p.die p.col).peals, r.place = p ∧ r.tids = s.cur.tids ∧ r.pc = s.cur.pc
        ∧ r.pipe = s.cur.pipe ∧ r.illegal = [] ∧ (∀ j, j ∈ r.done ↔ j ∈ s.cur.tids ∧ held s j = w)
        ∧ (∀ x ∈ r.todo, x.tids = s.cur.tids.filter (fun j => held s j = x.word))
        ∧ ∀ v, v ∈ r.todo.map PealWord.word ↔ v ≠ w ∧ ∃ j ∈ s.cur.tids, held s j = v))
  ∧ (∀ (n : VReg) (s : State) (r : PealRun) (x : PealWord) (i : Instr) (d : VReg) (f : Crew → Thread → W32),
    let p := s.cur.place
    s.pealOf ⟨p, s.cur.tids, s.cur.pc, s.cur.pipe⟩ = some r → 104 * p.die + p.col < s.cols.length → r.tids.Nodup →
    r.todo = [x] → x.again = false → x.tids.Nodup → r.illegal = [] → decode x.word = .ok i → arithmeticRule i = some (d, f) →
    (∀ j ∈ r.tids, j ∈ r.done ∨ j ∈ x.tids) → (∀ j ∈ x.tids, j ∈ r.tids ∧ j ∉ r.done) →
    (∀ j ∈ r.tids, ∃ c t, InGroup s c j t ∧ c.has j = true ∧ t.wait = .ready ∧ t.pc = r.pc ∧ t.bad = []) →
    ∃ s', exec (.peal n) s = .next s' ∧ sameBytes s s'
      ∧ (∀ q ∈ (s'.col p.die p.col).peals, ¬ (q.place = p ∧ q.tids = r.tids ∧ q.pipe = r.pipe))
      ∧ ∀ c tid t, InGroup s c tid t → s'.thread? p tid = some
          (if tid ∈ x.tids then { t.setV d.toNat (f c t) with pc := t.pc + 4, peal := false, missed := none, pts := max t.pts r.pts }
           else { t with pc := t.pc + 4, peal := false }))
  ∧ ∀ (n : VReg) (s : State) (c : Crew) (tid : Nat) (t : Thread) (e : DecodeError), Alone s c tid t →
    c.has tid = true → t.wait = .ready → t.pc = s.cur.pc → s.pealOf ⟨s.cur.place, s.cur.tids, s.cur.pc, s.cur.pipe⟩ = none →
    decode (t.v n.toNat) = .error e → (s.eff c.at_.rcb).emuhandler = 0 → t.emu = false →
    ∃ s' u, exec (.peal n) s = .next s' ∧ s'.thread? s.cur.place tid = some u ∧ u.cause = 0x02
      ∧ u.eword = t.v n.toNat ∧ u.pc = t.pc ∧ u.epc = t.pc ∧ sameBytes s s'

/-! ## Stage queues and range units -/

/-- The stage after one record is appended to fewer than a crew's records: a crew forms when it is the last (03 R56, R58,
R59). -/
def appendedTo (st : Stage) (d : StageDesc) (bytes : List W8) (now : Nat) : Stage :=
  let q := st.queue ++ [⟨bytes, now, 0⟩]
  if q.length < (if d.paired then 2 * d.crewsize else d.crewsize) ∨ d.persistent = true then { st with queue := q }
  else { st with
    queue := [], formed := st.formed ++ [if d.paired then ⟨evens q, some (odds q), now⟩ else ⟨q, none, now⟩]
    waiting := some (st.waiting.getD now) }

/-- The queue of a stage holds fewer records than a crew, or pair, needs. -/
def gathered (st : Stage) (d : StageDesc) : Prop := st.queue.length < (if d.paired then 2 * d.crewsize else d.crewsize)

/-- ENQ and ENQ.nb to a stage of the region on the same die append the record at V(Y) and go on, ENQ.nb with c6 clear;
to a full queue ENQ waits with its record and ENQ.nb goes on with c6 set; to the other die both send the record and
wait; an index that names no such stage is BAD_STAGE (03 R56, R57; 15 R309). -/
def enqueueOutcomes : Prop :=
  ∀ (x y : VReg) (s : State) (c : Crew) (tid : Nat) (t : Thread), Alone s c tid t →
    let p := s.cur.place
    let a := (t.v y.toNat).toNat
    let target : StageAt := ⟨c.at_.rcb, (t.v x.toNat).toNat⟩
    (s.enqTarget target = none → ∀ i, i = .enq x y ∨ i = .enqNb x y →
      exec i s = .next (s.fault p tid ⟨.badStage, none, 0, 0⟩ (some s.cur.word)))
    ∧ ∀ d st, s.enqTarget target = some d → s.stage? target = some st → st.desc = some d → a % 16 = 0 →
      s.localReady c a d.recsize 16 true = .go →
      let record := s.localBytes c a d.recsize
      let c6 (b : Bool) (u : Thread) : Thread := { u with cond := setBit8 u.cond 6 b }
      (d.die = c.place.die → st.queue.length < d.capacity → gathered st d →
        (∃ s' u, exec (.enq x y) s = .next s' ∧ s'.thread? p tid = some u ∧ pastIt t u ∧ sameBytes s s'
          ∧ s'.stage? target = some (appendedTo st d record s.ns))
        ∧ ∃ s' u, exec (.enqNb x y) s = .next s' ∧ s'.thread? p tid = some u ∧ pastIt (c6 false t) u ∧ sameBytes s s'
          ∧ s'.stage? target = some (appendedTo st d record s.ns))
      ∧ (d.die = c.place.die → d.capacity ≤ st.queue.length →
        (∃ s' u, exec (.enq x y) s = .next s' ∧ s'.thread? p tid = some u ∧ s'.regions = s.regions
          ∧ u = { t with wait := .queue (t.v x.toNat).toNat record, pts := u.pts })
        ∧ ∃ s' u, exec (.enqNb x y) s = .next s' ∧ s'.thread? p tid = some u ∧ pastIt (c6 true t) u
          ∧ s'.regions = s.regions)
      ∧ (d.die ≠ c.place.die → ∀ nb i, i = (if nb then Instr.enqNb x y else .enq x y) →
        ∃ s' u, exec i s = .next s' ∧ s'.thread? p tid = some u ∧ u = { t with wait := .remoteEnq, pts := u.pts }
          ∧ s'.transit = s.transit ++ [⟨target, record, some ⟨p, tid⟩, nb⟩] ∧ s'.regions = s.regions)

/-- ENQ_QUEUE_ROOM appends a parked ENQ's record once there is room, and its thread goes on. REMOTE_ENQ_ACCEPT takes the
die's next record from the other die: appended while there is room; else the thread of an ENQ waits with it and the thread
of an ENQ.nb goes on with c6 set (03 R56, R57). -/
def enqueueWaitsEnd : Prop :=
  (∀ (s : State) (q : ThreadAt) (c : Crew) (t : Thread) (i : Nat) (record : List W8) (st : Stage) (d : StageDesc),
    s.crew? q.crew = some c → c.threads[q.tid]? = some t → t.wait = .queue i record → c.phase = .running →
    s.stage? ⟨c.at_.rcb, i⟩ = some st → st.desc = some d → st.queue.length < d.capacity → gathered st d →
    ∃ s', exec (.enqQueueRoom q) s = .next s' ∧ s'.thread? q.crew q.tid = some { t with wait := .ready, pc := t.pc + 4 }
      ∧ s'.stage? ⟨c.at_.rcb, i⟩ = some (appendedTo st d record s.ns) ∧ sameBytes s s')
  ∧ ∀ (s : State) (die : Nat) (x : Transit) (th : ThreadAt) (t : Thread) (st : Stage) (d : StageDesc),
    s.transit.find? (s.arrived die) = some x → x.thread = some th → s.thread? th.crew th.tid = some t →
    t.wait = .remoteEnq → s.stage? x.stage = some st → st.desc = some d →
    let ends (u : Thread) (st' : Stage) : Prop := ∃ s', exec (.remoteEnqAccept die) s = .next s'
      ∧ s'.thread? th.crew th.tid = some u ∧ s'.transit = s.transit.erase x ∧ s'.stage? x.stage = some st'
    let went (b : Bool) : Thread :=
      { t with wait := .ready, pc := t.pc + 4, cond := if x.nb then setBit8 t.cond 6 b else t.cond }
    (st.queue.length < d.capacity → gathered st d → ends (went false) (appendedTo st d x.bytes s.ns))
    ∧ (d.capacity ≤ st.queue.length →
      ends (if x.nb then went true else { t with wait := .queue x.stage.stage x.bytes }) st)

/-- ENQ and ENQ.nb, and what ends their waits (03 R56, R57; 15 R309). -/
def Obligations.Enqueues : Prop := enqueueOutcomes ∧ enqueueWaitsEnd

/-- QSTAT of a stage of the region COMPLETES: on the crew's die it writes the records that wait (0 of a killed region or a
persistent stage) and the capacity, a value that the spec leaves open where the stage's descriptor could not be read, and
the thread goes on; of a stage on the other die it waits for that die's answer, which writes the same and lets it go on
(03 R69, 16 R357). The open capacity is a value that the model leaves free (log 71). -/
def qstatCompletes : Prop :=
  ∀ (x y : VReg) (s : State) (c : Crew) (tid : Nat) (t : Thread) (st : Stage),
    let a : StageAt := ⟨c.at_.rcb, (t.v y.toNat).toNat⟩
    let n : Nat := if s.killed a.rcb = true ∨ st.desc.map StageDesc.persistent = some true then 0 else st.queue.length
    let answers (s s' : State) (u : Thread) (x : Nat) : Prop := ∃ k : W32, (∀ m, st.capacity = some m → k = BitVec.ofNat 32 m)
      ∧ s'.thread? c.place tid = some { (u.setV x (BitVec.ofNat 32 n)).setV (x + 1) k with wait := .ready, pc := u.pc + 4 }
      ∧ sameBytes s s' ∧ s'.regions = s.regions ∧ ∀ q j, ¬ (q = c.place ∧ j = tid) → s'.thread? q j = s.thread? q j
    s.stage? a = some st →
    (Alone s c tid t → t.wait = .ready → (∀ d, st.desc = some d → d.die = c.place.die) →
      ∃ s', exec (.qstat x y) s = .next s' ∧ answers s s' t x.toNat)
    ∧ (Alone s c tid t → (∃ d, st.desc = some d ∧ d.die ≠ c.place.die) →
      ∃ s', exec (.qstat x y) s = .next s' ∧ onlyThread s s' s.cur.place tid { t with wait := .remoteQstat a.stage x.toNat })
    ∧ ∀ r, s.crew? c.place = some c → c.threads[tid]? = some t → t.wait = .remoteQstat a.stage r →
      answers s (s.answerQstat c tid) t r

/-- RANGE of a unit that is bound to a stage of the crew's region COMPLETES: it hands out the unit's next numbers, in V(X)
and V(X + 1), as many as 03 R68 says: the chunk, or the remaining numbers divided among the stage's resident crews,
rounded up, where that is more, and never more than remain; the count 0 once none remains (17 R360). The unit is one of
the issuing crew's die (the model's choice, log 85). No unit that R67 admits has the divisor 0; of one that had, the
quotient is 0 here, a value of the model's (log 85). -/
def rangeCompletes : Prop :=
  ∀ (x : VReg) (unit : BitVec 4) (s : State) (c : Crew) (tid : Nat) (t : Thread) (r : RangeUnit), Alone s c tid t →
    (s.die c.place.die).ranges.find? (fun q => q.1 = unit.toNat) = some (unit.toNat, r) → r.stage.rcb = c.at_.rcb →
    let active := (s.crews.filter fun k => k.at_ = r.stage ∧ k.phase ≠ .ended).length
    let share := r.divisor * max 1 active
    let n := min (max r.minChunk ((r.remaining.toNat + share - 1) / share)) r.remaining.toNat
    ∃ s' r', exec (.range x unit) s = .next s' ∧ s'.thread? s.cur.place tid = some
        { (t.setV x.toNat r.next).setV (x.toNat + 1) (BitVec.ofNat 32 n) with pc := t.pc + 4 }
      ∧ (s'.die c.place.die).ranges.find? (fun q => q.1 = unit.toNat) = some (unit.toNat, r')
      ∧ r' = { r with next := r.next + BitVec.ofNat 32 n, remaining := r.remaining - BitVec.ofNat 32 n }
      ∧ sameBytes s s' ∧ ∀ q j, ¬ (q = s.cur.place ∧ j = tid) → s'.thread? q j = s.thread? q j

/-- QSTAT of an index of no stage of the region, and RANGE of a unit bound to none of its stages, are BAD_STAGE (03 R68,
R69). -/
def badStages : Prop :=
  ∀ (s : State) (c : Crew) (tid : Nat) (t : Thread), Alone s c tid t →
    let refused (i : Instr) : Prop :=
      exec i s = .next (s.fault s.cur.place tid ⟨.badStage, none, 0, 0⟩ (some s.cur.word))
    (∀ x y, s.stage? ⟨c.at_.rcb, (t.v (BitVec.toNat y)).toNat⟩ = none → refused (.qstat x y))
    ∧ ∀ x unit, (∀ u r, (s.die c.place.die).ranges.find? (fun q => q.1 = BitVec.toNat unit) = some (u, r) →
        r.stage.rcb ≠ c.at_.rcb) → refused (.range x unit)

/-- CREW_TIMER_LAPSE COMPLETES: of a timed stage of which some waiting record, or, if it is paired, some one of two or
more, has waited the stage's time, it forms one crew, or pair, of the records that wait, at most the stage's crew size
(of each twin); a record left over waits on; no other stage changes (03 R58, R59). -/
def crewTimerLapseCompletes : Prop :=
  ∀ (s : State) (a : StageAt) (st : Stage) (d : StageDesc) (q : QRec),
    s.stage? a = some st → st.desc = some d → d.timed = true → d.persistent = false → q ∈ st.queue →
    q.ns + d.timer ≤ s.ns → 0 < d.crewsize → (d.paired = true → 2 ≤ st.queue.length) →
    let k := min d.crewsize (if d.paired then st.queue.length / 2 else st.queue.length)
    let n := if d.paired then 2 * k else k
    let taken := st.queue.take n
    ∃ s', exec (.crewTimerLapse a) s = .next s' ∧ sameBytes s s' ∧ s'.crews = s.crews
      ∧ s'.stage? a = some { st with
          queue := st.queue.drop n
          formed := st.formed ++ [if d.paired then ⟨evens taken, some (odds taken), s.ns⟩ else ⟨taken, none, s.ns⟩]
          waiting := some (st.waiting.getD s.ns) }
      ∧ ∀ b, b ≠ a → s'.stage? b = s.stage? b

/-- QSTAT, RANGE and the crew timer (03 R58, R59, R68, R69). -/
def Obligations.QueueReadsAndTimers : Prop := qstatCompletes ∧ rangeCompletes ∧ crewTimerLapseCompletes ∧ badStages

/-! ## Fixed-function engines -/

/-- The vertical queue of a unit has an entry free, and no request waits for one. -/
def queueRoom (s : State) (p : CrewAt) (u : FfUnit) : Bool :=
  decide (((s.col p.die p.col).ff.filter fun r => r.unit == u && r.step == .queued).length < 128)
    && !((s.col p.die p.col).ff.any fun r => r.unit == u && r.step == .waiting)

/-- A read of each page of an extent passes its checks, from the page on whose walk the thread has waited for (17 R376; 08
R181). -/
def extentPasses (s : State) (p : CrewAt) (tid a n : Nat) : Prop :=
  ∃ s1, s.extentReadable p tid (piecesFrom (s.goesOnAt p tid a) (pagePieces a n)) = (.done, s1)

/-- TEX and TRAV of a well-formed record whose extent can be read enter their queue with what they sample, the first of
their destinations and their fence point: the four registers from V(X) await the reply, and the thread goes on; with the
queue full the request waits for an entry, and its thread with it. RAST of a well-formed record arrives at its object with
the bytes of its tile, or, with the queue full, waits first (03 R71; 17 R361, R362, R376, R380). -/
def fixedFunctionRequests : Prop :=
  ∀ (s : State) (c : Crew) (tid : Nat) (t : Thread) (y : VReg), Alone s c tid t →
    104 * c.place.die + c.place.col < s.cols.length →
    let p := s.cur.place
    let a := (t.v y.toNat).toNat
    a % 16 = 0 →
    let asked (s' : State) (unit : FfUnit) (record : List W8) (step : FfStep) (r : FfRequest) : Prop :=
      r ∈ (s'.col p.die p.col).ff ∧ r.tag = s.serial ∧ r.unit = unit ∧ r.uid = c.uid ∧ r.tid = tid ∧ r.record = record
        ∧ r.step = step ∧ r.pc = s.cur.pc ∧ r.word = s.cur.word ∧ r.waiting = none
    let asks (i : Instr) (unit : FfUnit) (x : VReg) (n : Nat) (u0 v0 : W32) : Prop :=
      (queueRoom s p unit = true → ∃ s' u r, exec i s = .next s' ∧ sameBytes s s' ∧ s'.thread? p tid = some u
        ∧ u = { t with pc := t.pc + 4, pts := u.pts, awaiting := u.awaiting, wait := .ready }
        ∧ (∀ j, j < 4 → (⟨t.slot (x.toNat + j), s.serial⟩ : Awaiting) ∈ u.awaiting)
        ∧ asked s' unit (s.localBytes c a n) .queued r ∧ r.slot = t.slot x.toNat ∧ r.u = u0 ∧ r.v = v0 ∧ r.place = t.fence)
      ∧ (queueRoom s p unit = false → ∃ s' u r, exec i s = .next s' ∧ sameBytes s s' ∧ s'.thread? p tid = some u
        ∧ u = { t with wait := .ffQueue unit, pts := u.pts }
        ∧ asked s' unit (s.localBytes c a n) .waiting r ∧ r.slot = t.slot x.toNat ∧ r.u = u0 ∧ r.v = v0)
    (∀ x z, let d := TexDesc.ofBytes (s.localBytes c a 32)
      s.localReady c a 32 16 true = .go → d.malformed = false →
      extentPasses (s.seeLocal c tid a 32) p tid d.base d.extent →
      asks (.tex x y z) .tex x 32 (t.v (BitVec.toNat z)) (t.v (BitVec.toNat z + 1)))
    ∧ (∀ x, let r := Ray.ofBytes (s.localBytes c a 64)
      s.localReady c a 64 16 true = .go → r.malformed = false →
      extentPasses (s.seeLocal c tid a 64) p tid r.ebase r.esize →
      asks (.trav x y) .trav x 64 0 0)
    ∧ (let b := BinRec.ofBytes (s.localBytes c a 64)
      s.localReady c a 64 16 true = .go → b.malformed = false → s.barrierBad c b.barrier = none →
      s.memoriesWf = true → s.crewByUid? c.uid = some c → noBarrierWaiter s →
      (queueRoom s p .rast = true → ∃ s' u r, exec (.rast y) s = .next s' ∧ s'.thread? p tid = some u
        ∧ u = { t with pc := t.pc + 4, pts := u.pts, fence := u.fence, wait := .ready }
        ∧ s'.barrier c b.barrier = arrived (s.barrier c b.barrier) (8 * b.w * b.h)
        ∧ asked s' .rast (s.localBytes c a 64) .queued r)
      ∧ (queueRoom s p .rast = false → ∃ s' u r, exec (.rast y) s = .next s' ∧ sameBytes s s' ∧ s'.thread? p tid = some u
        ∧ u = { t with wait := .ffQueue .rast, pts := u.pts } ∧ asked s' .rast (s.localBytes c a 64) .waiting r))

/-- FF_REQUEST_TAKEUP takes the unit's oldest queued request up: TEX and TRAV for their reply, RAST as a transfer of its
record (03 R71). -/
def fixedFunctionTakeups : Prop :=
  ∀ (s : State) (die col : Nat) (unit : FfUnit) (r : FfRequest), 104 * die + col < s.cols.length →
    (s.col die col).ff.find? (fun q => q.unit == unit && q.step == .queued) = some r →
    (s.col die col).ff.any (fun q => q.unit == unit && q.step == .waiting) = false →
    (unit ≠ .rast → ∃ s', exec (.ffRequestTakeup die col unit) s = .next s' ∧ sameBytes s s'
      ∧ (s'.col die col).ff = (s.col die col).ff.map fun q => if q.tag = r.tag then { q with step := .taken } else q)
    ∧ ∀ c, unit = .rast → s.crewByUid? r.uid = some c →
      ∃ s' k, exec (.ffRequestTakeup die col unit) s = .next s' ∧ sameBytes s s'
        ∧ (s'.col die col).ff = (s.col die col).ff.filter (fun q => q.tag ≠ r.tag)
        ∧ (s'.col die col).transfers = (s.col die col).transfers ++ [k]
        ∧ k.kind = .raster r.record ∧ k.tag = r.tag ∧ k.uid = r.uid ∧ k.phase = r.phase ∧ k.pts = r.pts

/-- TEX, TRAV and RAST enter a vertical queue and are taken up (03 R71). -/
def Obligations.FixedFunctionRequests : Prop := fixedFunctionRequests ∧ fixedFunctionTakeups

/-- The reply of a taken request writes its four registers, where they still await it, and the request is gone; a thread
that waits for replies to store its registers goes on (log 7). -/
def replied (s s' : State) (die col : Nat) (r : FfRequest) (ws : List W32) : Prop :=
  (∀ q ∈ (s'.col die col).ff, q.tag ≠ r.tag) ∧ (∀ sp a, sp ≠ .host → s'.byte sp a = s.byte sp a)
    ∧ ∀ p c t, s.crew? p = some c → c.uid = r.uid → c.threads[r.tid]? = some t → 4 ≤ t.stripe.length →
      s.crews.Pairwise (fun a b => a.place ≠ b.place ∧ a.uid ≠ b.uid) →
      ∃ u, s'.thread? p r.tid = some u
        ∧ u = { t with
            stripe := u.stripe, awaiting := u.awaiting, bad := u.bad
            wait := if t.wait = .replies then .ready else t.wait }
        ∧ ∀ j, j < 4 → let slot := (r.slot + j) % t.stripe.length
          (⟨slot, r.tag⟩ : Awaiting) ∉ u.awaiting
          ∧ ((⟨slot, r.tag⟩ : Awaiting) ∈ t.awaiting → u.stripe.getD slot 0 = ws.getD j 0)

/-- TEX_REPLY of a sample of one texel gives its channels: rgba8 as exact 255ths rounded once, fp32 as they stand, one
channel with 0, 0 and 1 (17 R377, Table 17.6); a read whose check fails after the acceptance, but for a page that is not
present, is the thread's cause at the TEX, with its destinations unchanged (08 Table 8.9; that the thread parks where it
stands, log 23). TRAV_REPLY that comes to an address that is no node, at the root or, after a walk
that it waited for, at the node it had come to, or to a node of neither kind, is the malformed result; a ray with a NaN,
which meets no box, misses (17 R380, 08 R181). -/
def fixedFunctionReplies : Prop :=
  (∀ (s s1 : State) (die col : Nat) (r : FfRequest) (k : Tap),
    104 * die + col < s.cols.length → (s.col die col).serving r.tag .tex = some r →
    let d := TexDesc.ofBytes r.record
    let read := s.ffRead ⟨die, col, r⟩ ⟨r.place, r.pts⟩ (d.texelAt k) d.texel
    d.taps r.u r.v = [k] →
    (∀ l f, d.bilinear = false → read = (.ok (l, f), s1) →
      let word (j : Nat) : W32 := BitVec.ofNat 32 (fieldAt l (4 * j) 4)
      ∃ s', exec (.texReply die col r.tag) s = .next s'
        ∧ (d.tfmt = 2 → replied s s' die col r [word 0, word 1, word 2, word 3])
        ∧ (d.tfmt = 3 → replied s s' die col r [word 0, 0, 0, 0x3F800000])
        ∧ (d.tfmt = 0 → replied s s' die col r ((List.range 4).map fun j => ratio (fieldAt l j 1) 255)))
    ∧ ∀ (b : Bad) (c : Crew) (t : Thread), read = (.error (.bad b), s1) → b.cause ≠ .pageNotPresent →
      s.crewByUid? r.uid = some c → s.crew? c.place = some c → c.has r.tid = true → c.threads[r.tid]? = some t →
      ∃ s' u, exec (.texReply die col r.tag) s = .next s' ∧ (∀ q ∈ (s'.col die col).ff, q.tag ≠ r.tag)
        ∧ s'.thread? c.place r.tid = some u ∧ u.stripe = t.stripe ∧ u.cause = b.cause.code ∧ u.epc = r.pc ∧ u.eword = r.word
        ∧ u.pc = t.pc ∧ ∃ k, u.wait = .faultDomain k)
  ∧ ∀ (s : State) (die col : Nat) (r : FfRequest), 104 * die + col < s.cols.length →
    (s.col die col).serving r.tag .trav = some r →
    let ray := Ray.ofBytes r.record
    -- the node that comes next: the root, or, of a traversal that has waited for a walk, the one it had come to
    ∀ node, (r.travel = none ∧ node = ray.root
      ∨ ∃ k rest, r.travel = some k ∧ k.nodes = node :: rest ∧ 0 < k.left ∧ k.found.broken = false) →
    (node % 128 ≠ 0 ∨ ray.inExtent node 128 = false →
      ∃ s', exec (.travReply die col r.tag) s = .next s' ∧ replied s s' die col r [0x7FC00000, 0xFFFFFFFE, 0, 0])
    ∧ ∀ l f s1, node % 128 = 0 → ray.inExtent node 128 = true →
      s.ffReads ⟨die, col, r⟩ ⟨r.place, r.pts⟩ (sectorsOf node 128) = (.ok (l, f), s1) →
      (1 < fieldAt l 0 1 →
        ∃ s', exec (.travReply die col r.tag) s = .next s' ∧ replied s s' die col r [0x7FC00000, 0xFFFFFFFE, 0, 0])
      ∧ (r.travel = none → fieldAt l 0 8 = 0 → fieldAt l 0x48 0x38 = 0 → ray.anyNan = true →
          ray.inExtent (fieldAt l 8 8) 128 = true → ray.inExtent (fieldAt l 0x10 8) 128 = true →
        ∃ s', exec (.travReply die col r.tag) s = .next s' ∧ replied s s' die col r [0x7F800000, 0xFFFFFFFF, 0, 0])

/-- RAST_RUN of a record that clears and names no triangle gives every pixel of its tile infinite depth and attribute 0,
to be written; a triangle that covers a pixel's sample gives it its depth there when the test passes (17 R362). -/
def rasterRuns : Prop :=
  (∀ (s : State) (die col : Nat) (c : Crew) (t : Transfer) (record : List W8),
    (s.col die col).transfers.find? (fun k => k.tag = t.tag) = some t → 104 * die + col < s.cols.length →
    t.kind = .raster record → s.crewByUid? t.uid = some c → c.place.die = die → c.place.col = col → t.waiting = none →
    t.writes = [] → t.late = [] →
    let r := BinRec.ofBytes record
    r.malformed = false → r.clear = true → r.count = 0 →
    ∃ s' k, exec (.rastRun die col t.tag) s = .next s' ∧ sameBytes s s'
      ∧ (s'.col die col).transfers.find? (fun q => q.tag = t.tag) = some k ∧ k = { t with writes := k.writes }
      ∧ ∀ px py j, px < r.w → py < r.h → j < 8 → ∃ w ∈ k.writes,
          (r.out + py * r.pitch + 8 * px + j, ByteSrc.const ((bytes32 0x7F800000 ++ bytes32 0).getD j 0)) ∈ w.cells)
  ∧ ∀ (r : BinRec) (px py : Nat) (f : W32 × W32) (v1 v2 v3 : Vertex) (a b c : Vec) (z : W32),
    v1.at_ = some a → v2.at_ = some b → v3.at_ = some c →
    coverDepth a b c ((2 * (r.x0 + px) + 1 : Nat) * 2 ^ 148) ((2 * (r.y0 + py) + 1 : Nat) * 2 ^ 148) = some z →
    r.shade px py f (v1, v2, v3)
      = if r.depthTest = true ∧ floatRelation .lt z f.1 = false then f else (z, v1.attr)

/-- What TEX, TRAV and RAST give (17 R362, R377, R380). -/
def Obligations.FixedFunctionReplies : Prop := fixedFunctionReplies ∧ rasterRuns

/-! ## Grants, launch, start and end -/

/-- The places of the resident crews are distinct. -/
def placesDistinct (s : State) : Prop := s.crews.Pairwise fun a b => a.place ≠ b.place

/-- COLUMN_GRANT deals columns in service, each to one stage, sends every leaf controller those of its cluster, and
restarts the die's watchdog; of a frozen die, or after a fatal error, it grants nothing (03 R63, 12 R253). What a pre-emption
chooses besides, victims and the column for which they make room, changes none of this (03 R65); that none is chosen while a
victim of the die is being saved is the model's reading (log 46). HALYARD_MESSAGE makes the oldest grants of a
link the leaf's, and tells the scheduler of a launch (12 R252, 03 R64). Three things are the model's choice: that a column
is given to one stage (log 39), what the messages of a halyard link say, a launch's among them (log 63), and that a grant
restarts the watchdog (log 64). -/
def Obligations.GrantsAreDisjoint : Prop :=
  (∀ (s : State) (die : Nat), die ≤ 1 →
    (s.fatal = none → (s.die die).frozen = false →
      ∃ (s' : State) (given : List (StageAt × Nat)), exec (.columnGrant die) s = .next s' ∧ sameBytes s s'
        ∧ s'.crews = s.crews ∧ s'.regions = s.regions ∧ (s'.die die).watchdog = s.ns
        ∧ (∃ vs, s'.victims = s.victims ++ vs ∧ (s.victims.any (fun p => p.die == die) = true → vs = []))
        ∧ (given.map Prod.snd).Nodup
        ∧ (∀ x ∈ given, x.2 < 104 ∧ (s.col die x.2).enabled = true ∧ (s.col die x.2).fenced = false)
        ∧ (s'.die die).down = (s.die die).down.zipIdx.map fun l => HalyardLink.send (.grant (clusterGrants given l.2)) l.1)
    ∧ (s.fatal ≠ none ∨ (s.die die).frozen = true → ∃ s', exec (.columnGrant die) s = .next s'
      ∧ s' = { s with grantNs := s'.grantNs }))
  ∧ ∀ (s : State) (die cluster : Nat) (k : HalyardLink) (m : Halyard) (rest : List Halyard), die ≤ 1 →
    (∀ l, m = .grant l → (s.die die).down[cluster]? = some k → k.flight = m :: rest →
      ∃ s', exec (.halyardMessage die cluster .toLeaf) s = .next s' ∧ sameBytes s s' ∧ s'.crews = s.crews
        ∧ (s'.die die).down[cluster]? = some k.consume
        ∧ ∀ r ∈ s.regions, ∃ q ∈ s'.regions, q.rcb = r.rcb ∧ q.stages.length = r.stages.length
          ∧ ∀ i x y, r.stages[i]? = some x → q.stages[i]? = some y → y = { x with grant := y.grant }
            ∧ (x.desc.map StageDesc.die ≠ some die → y = x)
            ∧ (x.desc.map StageDesc.die = some die → (∀ n, n / 8 ≠ cluster → (n ∈ x.grant → n ∈ y.grant))
              ∧ ∀ ns, l.find? (fun g => g.1 = ⟨r.rcb, i⟩) = some (⟨r.rcb, i⟩, ns) → ∀ n ∈ ns, n ∈ y.grant))
    ∧ ∀ a, m = .launched a → (s.die die).up[cluster]? = some k → k.flight = m :: rest →
      ∃ s', exec (.halyardMessage die cluster .toGlobal) s = .next s' ∧ sameBytes s s' ∧ s'.crews = s.crews
        ∧ (s'.die die).lastServed = some a ∧ (s'.die die).up[cluster]? = some k.consume

/-- The thread as a launch leaves it: all registers and flags zero, at the stage's entry (02 R22). -/
def freshThread (t : Thread) (d : StageDesc) (i : Nat) : Prop :=
  t.pc = d.entry ∧ t.cond = 0 ∧ (∀ n, t.v n = 0) ∧ t.fb = 0 ∧ t.sm = 0 ∧ t.lk = 0 ∧ t.rstack = [] ∧ t.rsd = 0 ∧ t.emu = false
    ∧ t.fpf = 0 ∧ t.recAddr = BitVec.ofNat 32 (i * d.recsize) ∧ t.tag = false ∧ t.wait = .ready
    ∧ t.stripe.length = (match d.stripeCode with
      | 0 => 64
      | 1 => 96
      | 2 => 128
      | 3 => 192
      | _ => 256)

/-- CREW_LAUNCH of an unpaired stage without bindings places its oldest crew in a free slot of the column: one thread for
each record, all present; registers, convergence registers, ranges and tiles as 02 R22, R31, R33 and 09 R198 say; its
records at the start of its local memory, which is zero beyond them (03 R60, R53). That the leaf controller reports the
launch on its link (12 R252) in a message of its own is the model's choice (log 63). -/
def launchPlacesCrew : Prop :=
  ∀ (s : State) (a : StageAt) (col n : Nat) (d : StageDesc) (f : Formed),
    s.launchable a col = some (d, f) → f.second = none → d.paired = false → d.nbind = 0 →
    s.freeNumber a.rcb = some n → f.records.length ≤ 32 →
    ∃ s' c, exec (.crewLaunch a col) s = .next s' ∧ s'.crews = s.crews ++ [c] ∧ c.place.die = d.die ∧ c.place.col = col
      ∧ c.place.slot < 64 ∧ (∀ k ∈ s.crews, k.place ≠ c.place) ∧ c.at_ = a ∧ c.crewno = n ∧ c.uid = s.serial
      ∧ (∀ k ∈ s.crews, k.at_.rcb = a.rcb → k.crewno ≠ n)
      ∧ c.phase = .placed ∧ c.present.toNat = 2 ^ f.records.length - 1 ∧ c.threads.length = f.records.length
      ∧ (∀ i t, c.threads[i]? = some t → freshThread t d i) ∧ c.g = List.replicate 32 0 ∧ c.fp4x = 0
      ∧ c.cv = List.replicate 8 ⟨c.present, 0, none⟩ ∧ c.ob = List.replicate 16 none
      ∧ c.tiles = List.replicate d.tiles ⟨[], false, false, false⟩ ∧ c.lsize = d.lsize ∧ c.lmode = d.lmode ∧ c.empty = []
      ∧ (∀ i, c.mem.read i = (f.records.flatMap QRec.bytes).getD i 0)
      ∧ (s'.die d.die).up[col / 8]? = ((s.die d.die).up[col / 8]?).map (HalyardLink.send (.launched a))
      ∧ ∀ sp b, sp ≠ .loc s.serial → s'.byte sp b = s.byte sp b

/-- CREW_START lets the threads of a crew run once its prologue's copies have been issued and have landed; a crew with a
binding error goes, and its record with the error's index and cause is sent (03 R61, R62). CREW_END frees a crew that has
ended and whose transfers, operations and requests are complete, with the tags of its lookup tables (15 R311, 10 R219). -/
def crewStartAndEnd : Prop :=
  ∀ (s : State) (c : Crew), s.crew? c.place = some c →
    let k := s.col c.place.die c.place.col
    -- no request waits for an entry of a vertical queue, which the end of the crew could free
    let calm : Prop := k.ff.all (fun r => r.step != .waiting) = true
    let gone (s' : State) : Prop := s'.crew? c.place = none ∧ (calm → ∀ q, q ≠ c.place → s'.crew? q = s.crew? q)
      ∧ ∀ a, s'.byte .dev a = s.byte .dev a ∧ s'.byte .host a = s.byte .host a
    k.transfers.all (fun t => t.uid != c.uid) = true →
    (c.phase = .placed → c.bindErr = none → (s.desc c.at_).nbind ≤ c.bindNext / 32 →
      ∃ s', exec (.crewStart c.place) s = .next s' ∧ s'.crew? c.place = some { c with phase := .running }
        ∧ s' = { s with crews := s'.crews } ∧ ∀ q, q ≠ c.place → s'.crew? q = s.crew? q)
    ∧ (∀ e, c.phase = .placed → c.bindErr = some e → c.twin = none →
      ∃ s' bytes, exec (.crewStart c.place) s = .next s' ∧ gone s'
        ∧ ⟨c.place.die, s.recordDest c.at_, bytes⟩ ∈ s'.outgoing
        ∧ (calm → s'.outgoing = s.outgoing ++ [⟨c.place.die, s.recordDest c.at_, bytes⟩]) ∧ fieldAt bytes 4 1 = e.cause.code.toNat
        ∧ fieldAt bytes 5 1 = 0xFF ∧ fieldAt bytes 6 1 = 2 ∧ fieldAt bytes 7 1 = e.index % 256
        ∧ fieldAt bytes 24 8 = e.ebad.toNat)
    ∧ (c.phase = .ended → k.ops.all (fun o => o.uid != c.uid && o.twin != some c.uid) = true → k.ff.all (fun r => r.uid != c.uid) = true →
      ∃ s', exec (.crewEnd c.place) s = .next s' ∧ gone s' ∧ (calm → s'.outgoing = s.outgoing)
        ∧ ∀ l ∈ (s'.col c.place.die c.place.col).luts,
            104 * c.place.die + c.place.col < s.cols.length → l.owner ≠ some c.uid)

/-- A crew's launch, start and end (03 R60 to R62; 15 R311). -/
def Obligations.LaunchStartEnd : Prop := launchPlacesCrew ∧ crewStartAndEnd

/-! ## Saves -/

/-- The image of a save lays the crew out as 11 Tables 11.4 and 11.5 say: header, crew fields, thread blocks, registers
in stripe order, local memory. -/
def saveImageLayout : Prop :=
  ∀ (s : State) (c : Crew) (o : SaveOf), c.g.length = 32 → c.cv.length = 8 → c.ob.length = 16 →
    Memory.wf c.mem = true →
    let d := s.desc c.at_
    let l := s.imageOf c o
    let y := c.layout d o.scratch
    let n := stripeSize d.stripeCode
    fieldAt l 0 4 = 0x5653564F ∧ fieldAt l 4 2 = 1 ∧ fieldAt l 8 4 = c.present.toNat ∧ fieldAt l 0xC 2 = c.at_.stage % 65536
      ∧ fieldAt l 0xE 2 = c.crewno % 65536 ∧ fieldAt l 0x20 8 = c.at_.rcb % 2 ^ 64
      ∧ (∀ i, i < 32 → fieldAt l (0x100 + 4 * i) 4 = (c.g.getD i 0).toNat)
      ∧ (∀ i t, i < d.crewsize → c.threads[i]? = some t → c.present.getLsbD i = true →
        let b := 0x500 + 512 * i
        fieldAt l b 8 = t.pc.toNat ∧ fieldAt l (b + 0x10) 4 = t.fb.toNat ∧ fieldAt l (b + 0x14) 4 = t.sm.toNat
          ∧ fieldAt l (b + 0x18) 4 = t.lk.toNat ∧ fieldAt l (b + 0x1C) 1 = t.cond.toNat
          ∧ fieldAt l (b + 0x28) 8 = t.epc.toNat ∧ fieldAt l (b + 0x30) 8 = t.ebad.toNat
          ∧ fieldAt l (b + 0x38) 4 = t.eword.toNat ∧ fieldAt l (b + 0x3C) 1 = t.cause.toNat)
      ∧ (∀ i t j, i < d.crewsize → c.threads[i]? = some t → j < n →
        fieldAt l (0x500 + 512 * d.crewsize + 4 * (n * i + j)) 4 = (t.stripe.getD j 0).toNat)
      ∧ ∀ a, a < c.lsize → fieldAt l (y.lmem + a) 1 = (c.mem.read a).toNat

/-- CREW_SAVE seals a crew with a save entry once it can be sealed; once its transfers and operations are drained and the
checks of its image pass and the image is written, it becomes the latest saved crew of its stage and its place is free.
SAVE_TIMEOUT lets a crew run on 200 µs after it was sealed for pre-emption, and sends a record of kind 3 without a ticket,
with cause 0 (11 R229). -/
def savesAndTimeouts : Prop :=
  ∀ (s : State) (c : Crew), s.crew? c.place = some c → c.twin = none →
    (∀ why a, c.phase = .running → (s.saveEntry c).1 = .ok a → a ≠ 0 → s.sealable c = true → why ≠ .fencing →
      (why = .preemption → (s.die c.place.die).frozen = false) →
      ∃ s' c', exec (.crewSave c.place why) s = .next s' ∧ s'.crew? c.place = some c' ∧ c'.phase = .sealed why s.ns
        ∧ c' = { c with phase := c'.phase, threads := c'.threads } ∧ sameBytes s s'
        ∧ ∀ (i : Nat) (t : Thread), c.threads[i]? = some t → (∀ u, t.wait ≠ .ffQueue u) → c'.threads[i]? = some t)
    ∧ (∀ why since a o s1 s2 st, c.phase = .sealed why since → why ≠ .fencing → s.drained c = true →
      (why = .preemption → (s.die c.place.die).frozen = false) →
      s.checkSaves why false [c] [c.place] = (.ok [(c, a, o)], s1) → s1.stateDamaged c o.scratch = false →
      s1.writeImages [(c, a, o)] = (.good, s2) → s.stage? c.at_ = some st →
      ∃ s' st' x, exec (.crewSave c.place why) s = .next s' ∧ s'.crew? c.place = none
        ∧ ((s.col c.place.die c.place.col).ff.all (fun r => r.step != .waiting) = true →
          ∀ q, q ≠ c.place → s'.crew? q = s.crew? q)
        ∧ s'.stage? c.at_ = some st' ∧ st'.saved = x :: st.saved
        ∧ x.crew = c ∧ x.image = a ∧ x.disposed = [] ∧ st'.queue = st.queue ∧ st'.formed = st.formed)
    ∧ ∀ since, c.phase = .sealed .preemption since → since + 200000 ≤ s.ns →
      ∃ s' x, exec (.saveTimeout c.place) s = .next s' ∧ s'.crew? c.place = some { c with phase := .running }
        ∧ s'.outgoing = s.outgoing ++ [x] ∧ fieldAt x.bytes 6 1 = 3 ∧ fieldAt x.bytes 0 4 = 0 ∧ fieldAt x.bytes 4 1 = 0
        ∧ sameBytes s s'

/-- CREW_RESUME of one saved crew, when its image can be read, rebuilds the crew in a free slot of the column: its present
set, and for each ready thread the PC, the window, the condition bits and the registers that the image holds (11 R229). -/
def resumeRebuildsCrew : Prop :=
  ∀ (s s1 : State) (a : StageAt) (col : Nat) (st : Stage) (d : StageDesc) (x : Saved) (l : List W8),
    s.stage? a = some st → st.desc = some d → s.mayResume a st d col = true → st.toResume = [x] → x.disposed = [] →
    x.detach = false → x.scratch = 0 → x.crew.threads.length ≤ 32 →
    s.readImages d col [x] = (.ok [l], s1) →
    ∃ s' c, exec (.crewResume a col) s = .next s' ∧ c ∈ s'.crews ∧ c.place.die = d.die ∧ c.place.col = col
      ∧ (∀ k ∈ s.crews, k.place ≠ c.place) ∧ c.uid = x.crew.uid ∧ c.crewno = x.crew.crewno ∧ c.phase = .running
      ∧ c.present = BitVec.ofNat 32 (fieldAt l 8 4) ∧ c.threads.length = x.crew.threads.length
      ∧ ∀ (i : Nat) (t : Thread), x.crew.threads[i]? = some t → x.crew.present.getLsbD i = true → t.wait = .ready →
        ∃ u, c.threads[i]? = some u ∧ u.wait = .ready
          ∧ (let b := 0x500 + 512 * i
            let n := stripeSize d.stripeCode
            b + 512 ≤ l.length →
              u.pc = BitVec.ofNat 64 (fieldAt l b 8) ∧ u.fb = BitVec.ofNat 32 (fieldAt l (b + 0x10) 4)
              ∧ u.cond = BitVec.ofNat 8 (fieldAt l (b + 0x1C) 1) ∧ u.epc = BitVec.ofNat 64 (fieldAt l (b + 0x28) 8)
              ∧ u.awaiting = []
              ∧ (t.stripe.length = n → (0x500 + 512 * d.crewsize) + 4 * n * (i + 1) ≤ l.length → ∀ j, j < n →
                u.stripe.getD j 0 = BitVec.ofNat 32 (fieldAt l (0x500 + 512 * d.crewsize + 4 * n * i + 4 * j) 4)))

/-- The save image, saves and resumptions (11 R227 to R229). -/
def Obligations.Saves : Prop := saveImageLayout ∧ savesAndTimeouts ∧ resumeRebuildsCrew

/-! ## Cycles -/

/-- The head run of entries in the order of a PC table (02 R25). -/
def runOf : List PcEntry → List PcEntry
  | [] => []
  | e :: t => e :: t.takeWhile fun x => x.pc == e.pc && x.slot == e.slot

/-- A run issues on a pipe of a column, as one of the groups of a list (02 R25). -/
def runIssues (l : List Group) (die col pipe : Nat) (r : List PcEntry) : Prop :=
  ∀ e t, r = e :: t → (⟨⟨die, col, e.slot⟩, r.map PcEntry.tid, BitVec.ofNat 64 e.pc, pipe⟩ : Group) ∈ l

/-- The groups of a list are those that the ready threads of a column in service form in one cycle, before whose groups those
of `before` run (02 R24, R25, R46). -/
def columnIssues (s : State) (before l : List Group) (die col : Nat) : Prop :=
  let s0 : State := { s with pending := before }
  let table := s0.pcTable die col
  let ready := table.filter fun e => !s0.grouped die col e
  let held (pipe : Nat) : Bool := (s.col die col).peals.any fun r => r.pipe == pipe
  let r0 := if held 0 then [] else runOf (ready.filter fun e => !e.uset)
  table.Pairwise (fun a b => keyLe a.key b.key = true)
    ∧ ((s.col die col).fenced = false → ∀ c ∈ s.crews, c.place.die = die → c.place.col = col → c.phase = .running →
      ∀ tid t, c.threads[tid]? = some t → tid < 32 → c.present.getLsbD tid = true → c.issuable t = true →
      ∃ e ∈ table, e.slot = c.place.slot ∧ e.tid = tid ∧ e.pc = t.pc.toNat ∧ e.tag = t.tag ∧ e.class1 = !t.aged)
    ∧ runIssues l die col 0 r0
    ∧ (held 1 = false → runIssues l die col 1 (runOf ((ready.filter fun e => !e.uset).drop r0.length)))
    ∧ runIssues l die col 2 (runOf (ready.filter PcEntry.uset))

/-- The group is one that a PEAL keeps on its pipe. -/
def ofPeal (s : State) (g : Group) : Bool := s.cols.any fun k => k.peals.any fun r => g == ⟨r.place, r.tids, r.pc, r.pipe⟩

/-- ISSUE_CYCLE forms groups, behind the accesses whose misses have ended: those of the PEALs that hold a pipe, and, of
threads that are present, ready, in no PEAL and at the group's PC in a running crew, others in which no thread stands
twice, nor one whose access comes before them; on each column, of the ready threads in the order of its PC table, the head
run of the L set goes to pipe 0, the head run of the rest to pipe 1 and the head run of the U set to the U pipe, where no
PEAL holds the pipe; both dies' cycle counts rise by one, and time by five twelfths of a
nanosecond; every 256 cycles the timestamps are due to tick; after a fatal error no group is formed (02 R23 to R26, R46;
07 R165; 11 R238). That a due event stands in the agenda, ahead of all others, is the model's order (log 1). -/
def issueGroups : Prop :=
  ∀ s : State, placesDistinct s → ∃ s' l, exec .issueCycle s = .next s'
    ∧ 12 * s'.ns + s'.nsPart = 12 * s.ns + s.nsPart + 5 ∧ s'.die0.clk = s.die0.clk + 1 ∧ s'.die1.clk = s.die1.clk + 1
    ∧ (s.fatal ≠ none → s'.pending = s.pending ∧ s'.crews = s.crews)
    ∧ (s.fatal = none → (s'.die0.clk % 256 = 0 → Instr.ptsTick ∈ s'.agenda)
      ∧ s'.pending = s.settle.pending ++ l
      ∧ (∀ g ∈ l, ofPeal s' g = false → g.tids ≠ [] ∧ ∃ c, s'.crew? g.place = some c ∧ c.phase = .running
        ∧ ∀ tid ∈ g.tids, c.present.getLsbD tid = true ∧ (∀ h ∈ s.settle.pending, h.place = g.place → tid ∉ h.tids)
          ∧ ∃ t, c.threads[tid]? = some t ∧ t.wait = .ready ∧ t.peal = false ∧ t.pc = g.pc)
      ∧ ((l.filter fun g => !ofPeal s' g).flatMap fun g => g.tids.map fun tid => (g.place, tid)).Nodup
      ∧ ∀ die col, columnIssues s' s.settle.pending l die col)

/-- AGEING_PROMOTION moves every ready entry of a path, of which some entry in class 1 has reached its region's threshold,
to class 0, and no other thread (02 R29); PTS_TICK adds 1 to every resident thread's and accepted command's timestamp (07
R165); QUIESCENCE_UPDATE sets the quiescence counter to the least timestamp of the accesses in flight, or to the floor with
none in flight, and what it has not passed stays (07 R168). Which accesses are in flight is the model's reading (log 50):
misses but no fetch, appends on their way to the other die, and the sectors of accepted commands. -/
def cycleEvents : Prop :=
  (∀ (s : State) (die col : Nat), ∃ s', exec (.ageingPromotion die col) s = .next s' ∧ s' = { s with crews := s'.crews }
    ∧ ∀ p c tid t, s.crew? p = some c → c.threads[tid]? = some t →
      let ready (i : Nat) (u : Thread) : Prop := c.threads[i]? = some u ∧ c.present.getLsbD i = true ∧ c.issuable u = true
      let promoted : Prop := p.die = die ∧ p.col = col ∧ c.phase = .running ∧ ready tid t
        ∧ ∃ j u, ready j u ∧ u.aged = false ∧ (s.eff c.at_.rcb).ageing ≤ u.age ∧ u.pc = t.pc
      (promoted → s'.thread? p tid = some { t with aged := true }) ∧ (¬ promoted → s'.thread? p tid = some t))
  ∧ (∀ s : State, ∃ s', exec .ptsTick s = .next s' ∧ s' = { s with crews := s'.crews, cols := s'.cols }
    ∧ (∀ p tid, s'.thread? p tid = (s.thread? p tid).map fun t => { t with pts := t.pts + 1 })
    ∧ ∀ die col, (s'.col die col).transfers = ((s.col die col).transfers.map fun t => { t with pts := t.pts + 1 })
      ∧ (s'.col die col).ops = ((s.col die col).ops.map fun o => { o with pts := o.pts + 1 })
      ∧ (s'.col die col).ff = (s.col die col).ff.map fun r => { r with pts := r.pts + 1 })
  ∧ ∀ s : State, ∃ s', exec .quiescenceUpdate s = .next s' ∧ s' = { s with die0 := s'.die0, die1 := s'.die1 }
    ∧ (let inFlight (n : Nat) : Prop :=
        (∃ k ∈ s.cols, (∃ t ∈ k.transfers, t.pts = n) ∨ (∃ o ∈ k.ops, o.drain.isSome = true ∧ o.pts = n)
          ∨ ∃ r ∈ k.ff, r.step ≠ .waiting ∧ r.pts = n)
        ∨ ∃ c ∈ s.crews, ∃ t ∈ c.threads, t.pts = n
          ∧ (t.wait = .remoteEnq ∨ ∃ va k w b, t.wait = .walk va k w b ∧ Machine.accOf k ≠ .fetch)
      let least (q floor : Nat) : Prop := (∀ n, inFlight n → q ≤ n) ∧ (inFlight q ∨ (∀ n, ¬ inFlight n) ∧ q = floor)
      least s'.die0.quiet s.die0.floor ∧ least s'.die1.quiet s.die1.floor)
    ∧ (∀ x, x ∈ s'.die0.quarantine ↔ x ∈ s.die0.quarantine ∧ s'.die0.quiet ≤ x.2.2)
    ∧ ∀ x, x ∈ s'.die1.narrowed ↔ x ∈ s.die1.narrowed ∧ s'.die1.quiet ≤ x.stamp

/-- INSTRUCTION_FETCH_RETURN gives the waiting thread its word: of a pinned line that the column holds, or of memory
where no line is held, and no copy by the remote-data cache; with no translation at hand it waits for the walk (07
R170, 15 R313, 08 R181). That the word is the one that memory holds as the fetch ends is the model's choice (log 76). -/
def fetchReturns : Prop :=
  ∀ (s : State) (q : ThreadAt) (t : Thread), s.thread? q.crew q.tid = some t → t.wait = .fetch → t.fbuf = none →
    t.pc.toNat % 4 = 0 → t.pc.toNat < 2 ^ 57 →
    let i := t.pc.toNat % 128 / 4
    let k := s.col q.crew.die q.crew.col
    (∀ x, k.iline? (t.pc.toNat / 128) = some x → x.pinned = true →
      ∃ s' u, exec (.instructionFetchReturn q) s = .next s' ∧ onlyThread s s' q.crew q.tid u ∧ u.wait = .ready
        ∧ u.next = some ⟨t.pc, x.words.getD i 0⟩ ∧ u.pc = t.pc)
    ∧ (k.iline? (t.pc.toNat / 128) = none → s.lookup q.crew.die q.crew.col t.pc.toNat = .miss →
      ∃ s' u, exec (.instructionFetchReturn q) s = .next s' ∧ s'.thread? q.crew q.tid = some u ∧ sameBytes s s'
        ∧ u = { t with wait := .walk t.pc AccKind.fetch.code 0 .core, missed := u.missed, pts := u.pts })
    ∧ ∀ s1 pa h e, k.iline? (t.pc.toNat / 128) = none → s.lookup q.crew.die q.crew.col t.pc.toNat ≠ .miss →
      s.poisoned pa 4 = false → s.checkNow (s.threadMaster q.crew q.tid t.pc) false t.pc 4 .fetch = (.device pa h e, s1) →
      homeOf (pa / 128 * 128) = some h → (h = q.crew.die ∨ ∀ k ∈ (s.die q.crew.die).rdc, k.line ≠ pa / 128) → pa % 128 = 4 * i →
      ∃ s' u, exec (.instructionFetchReturn q) s = .next s' ∧ s'.thread? q.crew q.tid = some u ∧ u.wait = .ready ∧ u.pc = t.pc
        ∧ u.next = some ⟨t.pc, le32 (s.bytes .dev (pa / 128 * 128 + 4 * i) 4)⟩ ∧ sameBytes s s'

/-- The issue cycle, the events of a cycle, and fetches (02 R23 to R29; 07 R165, R168, R170). -/
def Obligations.IssueCycles : Prop := issueGroups ∧ cycleEvents ∧ fetchReturns

/-! ## Translation -/

/-- A translation held on a die rests on the entry at an address: its walk reads it. -/
def restsOn (s : State) (die at_ va level : Nat) : Prop := ∃ x ∈ s.pathOf die va, level ≤ x.1 ∧ x.2.1 = at_

/-- LEAF_CHANGE of an entry that may change stores it, leaves nothing in any TLB or walk cache that rests on it, raises
the floors of both dies above the store, and quarantines a freed page; a pinned leaf is left alone but by system
software, and no entry maps a page that is in quarantine (07 R167, R168; 08 R184). Which entries drop, with those whose
walk reads the entry, and that a change which would map such a page does nothing, are the model's reading and its choice
(logs 49, 51). -/
def leafChanges : Prop :=
  ∀ (s : State) (ch : LeafChange) (h : Nat), homeOf ch.at_ = some h → ch.at_ % 8 = 0 → s.globalWf = true →
    let old := le64 (s.bytes .dev ch.at_ 8)
    let pinned : Prop := old.getLsbD 0 = true ∧ old.getLsbD 1 = true ∧ old.getLsbD 7 = true
    (pinned → ch.bySystem = false → exec (.leafChange ch) s = .next s)
    ∧ (s.mapsQuarantined ch.value ch.level = true → exec (.leafChange ch) s = .next s)
    ∧ ((pinned → ch.bySystem = true) → s.mapsQuarantined ch.value ch.level = false → ch.value.getLsbD 3 = false →
      ∃ s' t, exec (.leafChange ch) s = .next s'
        ∧ storesBytes s s' .dev ch.at_ 8 (fun i => BitVec.ofNat 8 (ch.value.toNat / 256 ^ i))
        ∧ (∀ d, d ≤ 1 → (∀ e ∈ (s'.die d).tlb, e ∈ (s.die d).tlb ∧ ¬ restsOn s d ch.at_ e.va 0)
          ∧ (∀ w ∈ (s'.die d).walkCache, w ∈ (s.die d).walkCache ∧ ¬ restsOn s d ch.at_ (w.key * 2 ^ levelBits w.level) w.level)
          ∧ ∀ col e, col < 104 → e ∈ (s'.col d col).l1 → e ∈ (s.col d col).l1 ∧ ¬ restsOn s d ch.at_ e.va 0)
        ∧ s'.stamp (ch.at_ / 128) = (t, t)
        ∧ s'.die0.floor = max s.die0.floor (t + 1) ∧ s'.die1.floor = max s.die1.floor (t + 1) ∧ s'.crews = s.crews
        ∧ ∀ a n, ch.freed = some (a, n) → (a, n, t + 1) ∈ (s'.die ((homeOf a).getD h)).quarantine)

/-- PAGE_WALK gives the oldest queued miss an idle walker. WALK_COMPLETE installs the page it finds, and every thread that
it covers performs its waiting access, threads of one access together (02 R32), a fetch and a PEAL going on; a page that is
not present is asked for, and the threads wait for the paging service or the host (08 R181 to R183); their special
registers hold the cause from then on, the model's reading (log 6). -/
def pageWalks : Prop :=
  (∀ (s : State) (die : Nat) (l1 l2 : List Walk) (w : Walk), die ≤ 1 → (s.die die).walks = l1 ++ w :: l2 →
    (∀ x ∈ l1, x.queued = false) → w.queued = true →
    ((s.die die).walks.filter fun x => !x.queued && !x.asked).length < 16 →
    ∃ s', exec (.pageWalk die) s = .next s' ∧ (s'.die die).walks = l1 ++ { w with queued := false } :: l2
      ∧ sameBytes s s' ∧ s'.crews = s.crews)
  ∧ ∀ (s : State) (die page : Nat) (w : Walk), die ≤ 1 →
    (s.die die).walks.find? (fun x => x.page = page ∧ !x.queued ∧ !x.asked) = some w → placesDistinct s →
    ∀ p tid t va kind word who, p.die = die → s.thread? p tid = some t → t.wait = .walk va kind word who →
    -- threads of one access stand at one PC
    (∀ j u va' kind' word' who', s.thread? p j = some u → u.wait = .walk va' kind' word' who' →
      (u.missed.map Missed.serial).getD 0 = (t.missed.map Missed.serial).getD 0 →
      u.pc = t.pc ∧ u.peal = t.peal ∧ Machine.accOf kind' = Machine.accOf kind) →
    (∀ e ws, s.walk die (4096 * page) = (.page e, ws) → e.covers va.toNat = true →
      ∃ s', exec (.walkComplete die page) s = .next s' ∧ sameBytes s s' ∧ e ∈ (s'.die die).tlb
        ∧ (Machine.accOf kind = .fetch → s'.thread? p tid = some { t with wait := .fetch })
        ∧ (Machine.accOf kind ≠ .fetch → s'.thread? p tid = some { t with wait := .ready, next := some ⟨t.pc, word⟩ }
          ∧ (t.peal = false → ∃ g ∈ s'.pending, g.place = p ∧ g.pc = t.pc ∧ tid ∈ g.tids)))
    ∧ ∀ l en dn ws, s.walk die (4096 * page) = (.stop .pageNotPresent l en dn, ws) → va.toNat / 4096 = page →
      s.attached = true → w.waiters ≠ 0 →
      let word' : Option W32 := if Machine.accOf kind = .fetch then none else some word
      ∃ s' syn, exec (.walkComplete die page) s = .next s' ∧ sameBytes s s'
        ∧ s'.thread? p tid = some { t with
            wait := .pageFault die va syn en word' (s.eff w.region).faultsToHost, missed := none
            cause := 0x04, epc := t.pc, ebad := va, eword := word'.getD t.eword }
        ∧ ∃ x ∈ (s'.die die).walks, x.page = page ∧ x.asked = true

/-- PAGING_SERVICE_REPLY stores the entry it installs and lets the threads that wait for the page try again, or refuses
it: they take PAGE_NOT_PRESENT at their address; it neither replaces a pinned leaf nor maps a page in quarantine (08 R183,
R184; 07 R168). That a reply which would map such a page does nothing is the model's choice (log 51). -/
def pagingReplies : Prop :=
  ∀ (s : State) (die page : Nat) (p : CrewAt) (tid : Nat) (t : Thread) (va : W64) (syn : W32) (en : W64) (word : Option W32),
    die ≤ 1 → placesDistinct s → s.globalWf = true →
    (s.die die).walks.any (fun w => w.page = page ∧ w.asked ∧ !w.toHost) = true → p.die = die →
    s.thread? p tid = some t → t.wait = .pageFault die va syn en word false → va.toNat / 4096 = page →
    let answered (s' : State) : Prop := ∀ w ∈ (s'.die die).walks, w.page = page → w.asked = true → w.toHost = true
    let level := s.askedLevel die page
    (∀ at_ e, s.pinnedAt at_ = true ∨ s.mapsQuarantined e level = true →
      exec (.pagingServiceReply die page (.map at_ e)) s = .next s)
    ∧ (∀ at_ e h, homeOf at_ = some h → at_ % 8 = 0 → s.mapsQuarantined e level = false → s.pinnedAt at_ = false →
      e.getLsbD 3 = false →
      ∃ s', exec (.pagingServiceReply die page (.map at_ e)) s = .next s' ∧ answered s'
        ∧ s'.thread? p tid = some { t with wait := .ready }
        ∧ storesBytes s s' .dev at_ 8 (fun i => BitVec.ofNat 8 (BitVec.toNat e / 256 ^ i)))
    ∧ ∃ s' u, exec (.pagingServiceReply die page .refuse) s = .next s' ∧ answered s' ∧ s'.thread? p tid = some u
      ∧ u.cause = 0x04 ∧ u.ebad = va ∧ u.pc = t.pc ∧ u.epc = t.pc

/-- ACCESS_TABLE_WRITE sets one master's four windows of one table, with the bits outside the fields zero, and no other
entry (08 R186, R188). -/
def accessTableWrites : Prop :=
  ∀ (s : State) (die target master : Nat) (ws : List (W64 × W64)), die ≤ 1 → target < 7 → master < 256 → ws.length = 4 →
    ∃ s', exec (.accessTableWrite die target master ws) s = .next s' ∧ sameBytes s s' ∧ s'.crews = s.crews
      ∧ (s'.die die).windows target master
        = ws.map (fun w => (w.1 &&& 0x000FFFFFFFFFF000#64, w.2 &&& 0x000FFFFFFFFFF1FF#64))
      ∧ ∀ d t m, d ≤ 1 → (d, t, m) ≠ (die, target, master) → (s'.die d).windows t m = (s.die d).windows t m

/-- Leaf changes, page walks, the paging service and access-table writes (07 R167; 08 R181 to R188). -/
def Obligations.TranslationEvents : Prop := leafChanges ∧ pageWalks ∧ pagingReplies ∧ accessTableWrites

/-! ## Dispositions, launch packets and records on their way -/

/-- A ticket of a thread's fault record, at its destination, is the one of its number; its thread is parked under it. -/
structure ParkedUnder (s : State) (x : Ticket) (k : Crew) (u : Thread) : Prop where
  listed : x ∈ s.tickets
  only : ∀ y ∈ s.tickets, y.ticket = x.ticket → y = x
  arrived : s.delivered x = true
  thread : x.rkind = 0
  byUid : s.crewByUid? x.uid = some k
  byPlace : s.crew? k.place = some k
  present : k.has x.tid = true
  state : k.threads[x.tid]? = some u
  parked : u.wait = .faultDomain x.ticket

/-- What retry and skip make of the thread (11 Table 11.3), past the accesses of who disposed of it (11 R225). -/
def goesOnBy (u : Thread) (skip : Bool) (pts : Nat) : Thread :=
  { u with wait := .ready, next := none, pc := if skip then u.epc + 4 else u.epc, pts := max u.pts pts }

/-- SYSC #16: action 0 lets the thread of a ticket that was sent to the caller's stage run its instruction again, action 1
the next one; the ticket is closed and c6 is clear. A ticket that is not open is refused: c6 is set and nothing else
changes (11 R225). -/
def dispositions : Prop :=
  ∀ (s : State) (c : Crew) (tid : Nat) (t : Thread), Alone s c tid t →
    ((∀ x ∈ s.tickets, x.ticket ≠ t.v 0) → ∃ s', exec .syscDispose s = .next s'
      ∧ onlyThread s s' s.cur.place tid { t with cond := setBit8 t.cond 6 true, pc := t.pc + 4 })
    ∧ ∀ (x : Ticket) (k : Crew) (u : Thread), ParkedUnder s x k u → x.ticket = t.v 0 → x.dest = .stage c.at_ →
      ¬ (k.place = s.cur.place ∧ x.tid = tid) → (t.v 1).toNat ≤ 1 →
      ∃ s', exec .syscDispose s = .next s'
        ∧ s'.thread? k.place x.tid = some (goesOnBy u (decide ((t.v 1).toNat = 1)) (s.ptsOf s.cur.place tid))
        ∧ s'.thread? s.cur.place tid = some { t with cond := setBit8 t.cond 6 false, pc := t.pc + 4 }
        ∧ s'.tickets = s.tickets.filter (fun y => y.ticket ≠ x.ticket)
        ∧ s' = { s with crews := s'.crews, tickets := s'.tickets }

/-- An event ends the packet at the head with a status: the completion word holds it and the packet's index, the
message is raised if the packet asks for it, and the head moves on, modulo the ring (03 R55). The word's page is looked
up in s2. -/
def packetEnds (i : Instr) (s s2 s' : State) (done flags n : Nat) : Prop :=
  exec i s = .next s'
    ∧ s'.host.sqhead.toNat = (s.host.sqhead.toNat + 1) % 2 ^ s.host.sqsize.toNat ∧ s'.launching = none
    ∧ (flags % 2 = 1 → s.attached = true → Posted.msi 0 ∈ s'.hostOut)
    ∧ ∀ pa h e s3, done ≠ 0 → s2.checkNow (schedulerOf 0) true (BitVec.ofNat 64 done) 8 .write = (.device pa h e, s3) →
      leNat (s'.bytes .dev pa 8) = n + 2 ^ 32 * s.host.sqhead.toNat

/-- An event appends a packet's records to a stage's queue in order, as one block, or starts a persistent stage with its
range unit set from the record, and ends the packet with status 0 (03 R55, R66, R67). -/
def packetLands (i : Instr) (s s2 : State) (l : Launching) (st : Stage) (d : StageDesc) : Prop :=
  (d.persistent = false → d.paired = false → l.records ≠ [] → l.records.length ≤ d.capacity - st.queue.length →
    ∃ s' st', packetEnds i s s2 s' l.done l.flags 0 ∧ s'.stage? l.at_ = some st'
      ∧ (st'.formed.flatMap Formed.records) ++ st'.queue
        = (st.formed.flatMap Formed.records) ++ st.queue ++ l.records.map fun b => (⟨b, s2.ns, 0⟩ : QRec))
  ∧ (d.persistent = true → d.die ≤ 1 → ∃ s' st', packetEnds i s s2 s' l.done l.flags 0 ∧ s'.stage? l.at_ = some st'
    ∧ st'.start = some l.records.flatten
    ∧ (d.rangeunit, (⟨l.at_, BitVec.ofNat 32 (fieldAt l.records.flatten 4 4), BitVec.ofNat 32 (fieldAt l.records.flatten 0 4),
        fieldAt l.records.flatten 8 2, fieldAt l.records.flatten 10 2⟩ : RangeUnit)) ∈ (s'.die d.die).ranges)

/-- LAUNCH_PACKET takes the packet at the head: a ring that cannot be read is stopped; a packet with a bad status ends;
records of a stage of die 0 land where they have room and stand waiting where they have none; those of a stage of die 1
follow the records that were sent to it before, and land there as REMOTE_ENQ_ACCEPT meets them (03 R54, R55, R66, R67;
12 R247). -/
def launchPackets : Prop :=
  (∀ (s s1 : State), s.takesPackets = true → s.launching = none → s.host.sqsize.toNat ≤ 16 →
    (s.readPacket = (none, s1) → ∃ s', exec .launchPacket s = .next s' ∧ s'.host = { s.host with sqctl := 0 }
      ∧ sameBytes s s' ∧ s'.regions = s.regions)
    ∧ ∀ (p : Packet) (s2 : State) (v : Verdict), s.readPacket = (some p, s1) → s1.judgePacket p = (v, s2) →
      s2.globalWf = true →
      (∀ n, v = .status n → n < 8 → ∃ s', packetEnds .launchPacket s s2 s' p.done p.flags n)
      ∧ ∀ d rs st, v = .records d rs → s2.stage? ⟨p.rcb, p.stage⟩ = some st → st.desc = some d →
        let l : Launching := ⟨⟨p.rcb, p.stage⟩, rs, p.done, p.flags, false⟩
        (d.die = 0 → packetLands .launchPacket s s2 l st d
          ∧ (d.persistent = false → d.capacity - st.queue.length < rs.length →
            exec .launchPacket s = .next { s2 with launching := some l }))
        ∧ (d.die = 1 → exec .launchPacket s = .next { s2 with
            launching := some { l with forwarded := true }, transit := s2.transit ++ [⟨l.at_, [], none, false⟩] }))
  ∧ ∀ (s : State) (l : Launching) (st : Stage) (d : StageDesc), s.launching = some l → s.stage? l.at_ = some st →
    st.desc = some d → s.globalWf = true → s.host.sqsize.toNat ≤ 16 →
    (d.die = 0 → s.takesPackets = true → l.forwarded = false → s.killed l.at_.rcb = false →
      packetLands .launchPacket s s l st d)
    ∧ (d.die = 1 → s.transit.find? (s.arrived 1) = some ⟨l.at_, [], none, false⟩ →
      packetLands (.remoteEnqAccept 1) s s l st d)

/-- The checks of a packet in their order, and their statuses: a malformed region 1, a killed one 5, a malformed stage 2,
a count above the capacity or a bad field 3, a persistent stage that runs 6, records that cannot be read 4, a range with a
zero field or a range unit that is bound 7; any other packet's records are accepted (03 R55, R67). Two points are the
model's reading: a persistent stage with a count other than 1 is a packet of status 3 (log 38), and a region is killed
where it or one above it carries the mark (log 37). -/
def packetStatuses : Prop :=
  ∀ (s s1 : State) (p : Packet),
    (s.openRegion p.rcb = (none, s1) → s.judgePacket p = (.status 1, s1))
    ∧ ∀ r, s.openRegion p.rcb = (some r, s1) →
      let live : Prop := ∀ q ∈ s1.lineage 10 p.rcb, q ∉ s1.kills
      (¬ live → s.judgePacket p = (.status 5, s1))
      ∧ (live → (∀ st, r.stages[p.stage]? = some st → st.desc = none) → s.judgePacket p = (.status 2, s1))
      ∧ ∀ st d, live → r.stages[p.stage]? = some st → st.desc = some d →
        (d.capacity < p.count ∨ 2 ≤ p.flags ∨ p.reserved ≠ 0 ∨ (d.persistent = true ∧ p.count ≠ 1) →
          s.judgePacket p = (.status 3, s1))
        ∧ (p.count ≤ d.capacity → p.flags < 2 → p.reserved = 0 →
          (d.persistent = true → p.count = 1 → (∃ q l, s1.stage? ⟨p.rcb, p.stage⟩ = some q ∧ q.start = some l) →
            s.judgePacket p = (.status 6, s1))
          ∧ (d.persistent = false → ∀ b s2, s1.fwRead (schedulerOf 0) true p.records (p.count * d.recsize) = (.error b, s2) →
            s.judgePacket p = (.status 4, s2))
          ∧ ∀ b s2, s1.fwRead (schedulerOf 0) true p.records (p.count * d.recsize) = (.ok b, s2) →
            (d.persistent = true → p.count = 1 → s1.stage? ⟨p.rcb, p.stage⟩ = some st → st.start = none →
              fieldAt b 8 2 = 0 ∨ fieldAt b 10 2 = 0 ∨ s2.unitBound d.die d.rangeunit = true →
              s.judgePacket p = (.status 7, s2))
            ∧ (d.persistent = false → s.judgePacket p = (.records d (chunks d.recsize p.count b), s2)))

/-- HOST_RING_ENTRY_WRITE posts the oldest record of an enabled ring with room to its tail, which advances as the entry
is transmitted, then the message of its vector, and touches nothing else. FAULT_RECORD_APPEND gives a stage with room
its next record (11 R224, 12 R243). -/
def recordDeliveries : Prop :=
  (∀ (s : State) (k : Nat) (o : Outgoing), k < 3 → s.outgoing.find? (fun o => o.dest = .ring k) = some o →
    s.ringRoom k = true →
    let r := s.host.rings.getD k HostRing.reset
    exec (.hostRingEntryWrite k) s = .next { s with
      outgoing := s.outgoing.erase o, store := s.store + 1
      hostOut := s.hostOut ++ [.entry k (r.base.toNat + (if k = 0 then 32 else 64) * s.ringTail k) o.bytes s.store]
        ++ (if r.size.getLsbD 9 then [.msi (k + 1)] else []) })
  ∧ (∀ (s : State) (k : Nat), s.ringRoom k = false → exec (.hostRingEntryWrite k) s = .next s)
  ∧ ∀ (s : State) (die : Nat) (o : Outgoing) (a : StageAt) (l : List (Outgoing × StageAt)) (st : Stage) (d : StageDesc),
    s.deliverable die = (o, a) :: l → s.stage? a = some st → st.desc = some d → gathered st d →
    ∃ s', exec (.faultRecordAppend die) s = .next s' ∧ s'.stage? a = some (appendedTo st d o.bytes s.ns)
      ∧ s'.outgoing = s.outgoing.erase o ∧ s'.crews = s.crews ∧ sameBytes s s'

/-- Dispositions, launch packets with their statuses, and records that reach the host rings and the fault stages
(03 R54, R55, R66; 11 R224, R225; 12 R243). -/
def Obligations.LaunchPacketsAndRecords : Prop := dispositions ∧ launchPackets ∧ packetStatuses ∧ recordDeliveries

/-! ## Register writes -/

/-- What the host function's write of a register leaves in the host registers (12 Table 12.2): the ones with a rule of
their own, by offset and size. -/
def hostRegisterRule (h : HostRegs) (off size : Nat) (v : W64) : Option HostRegs :=
  let w := BitVec.ofNat 32 v.toNat
  if off = 0x1000 ∧ size = 8 then some (if h.sqctl.getLsbD 0 then h else { h with sqbase := v })
  else if off = 0x1008 ∧ size = 4 then some (if 6 ≤ w.toNat ∧ w.toNat ≤ 16 then { h with sqsize := w } else h)
  else if off = 0x3000 ∧ size = 8 then
    some (if v.toNat ∈ [0, 64, 128, 256, 320, 384].map (fun g => g * 2 ^ 30) then { h with apbase := v } else h)
  else if off = 0x2000 ∧ size = 8 then some { h with rings := h.rings.modify 0 fun r => { r with base := v } }
  else if off = 0x2020 ∧ size = 8 then some { h with rings := h.rings.modify 1 fun r => { r with base := v } }
  else if off = 0x2040 ∧ size = 8 then some { h with rings := h.rings.modify 2 fun r => { r with base := v } }
  else if off = 0x200C ∧ size = 4 then some { h with rings := h.rings.modify 0 fun r => { r with head := w } }
  else if off = 0x202C ∧ size = 4 then some { h with rings := h.rings.modify 1 fun r => { r with head := w } }
  else if off = 0x204C ∧ size = 4 then some { h with rings := h.rings.modify 2 fun r => { r with head := w } }
  -- read-only: rev, bringup, sqhead, sqerr, detcount
  else if off ∈ [0x18, 0x1C, 0x1010, 0x1018, 0x3008] ∧ size = 4 then some h
  else none

/-- The access table of the block lets the host function write there, and the link is up with the function's BARs
assigned. -/
def hostMayWrite (s : State) (target off size : Nat) : Prop :=
  s.hostReaches = true ∧ regTarget off = some target ∧ s.admits 0 target hostFunction .write off size = true

/-- REGISTER_WRITE by the host function changes what Table 12.2 says and nothing else; a mailbox command is taken when
none is busy, and an unknown one is refused; trbase and plimit are the management core's alone; a write that the
block's access table does not admit changes no register (12 R239, R241, R254). -/
def registerWrites : Prop :=
  ∀ (s : State) (off size target : Nat) (v : W64),
    (hostMayWrite s target off size → ∀ h, hostRegisterRule s.host off size v = some h →
      exec (.registerWrite 119 off size v) s = .next { s with host := h })
    ∧ (hostMayWrite s 2 0x100000 4 →
      let w := BitVec.ofNat 32 v.toNat
      let code := w.toNat % 256
      let known : Prop := 1 ≤ code ∧ code ≤ 11 ∧ w.toNat / 256 % 256 = 0
      ∃ s', exec (.registerWrite 119 0x100000 4 v) s = .next s' ∧ s' = { s with mailbox := s'.mailbox, hostOut := s'.hostOut }
        ∧ (s.mailbox.status.toNat % 256 = 1 → s' = s)
        ∧ (s.mailbox.status.toNat % 256 ≠ 1 → s'.mailbox.cmd = w ∧ (known → s'.mailbox.status.toNat % 256 = 1 ∧ s'.hostOut = s.hostOut)
          ∧ (¬ known → s'.mailbox.status.toNat % 256 = 3 ∧ s'.mailbox.status.toNat / 65536 = w.toNat / 65536
            ∧ s'.hostOut = s.hostOut ++ [.msi 7])))
    ∧ (∀ d, d < 2 → s.admits d 1 ⟨d, 118, 0, none⟩ .write (0x10000000 * d + 0x4000) 8 = true →
      s.admits d 1 ⟨d, 118, 0, none⟩ .write (0x10000000 * d + 0x4014) 4 = true →
      (∃ s', exec (.registerWrite 118 (0x10000000 * d + 0x4000) 8 v) s = .next s'
        ∧ (s'.die d).trbase = v ∧ s' = s.modDie d fun k => { k with trbase := v })
      ∧ ∃ s', exec (.registerWrite 118 (0x10000000 * d + 0x4014) 4 v) s = .next s'
        ∧ s' = s.modDie d fun k => { k with plimit := BitVec.ofNat 32 v.toNat })
    ∧ (hostMayWrite s 1 0x4000 8 → exec (.registerWrite 119 0x4000 8 v) s = .next s)
    ∧ (hostMayWrite s 1 0x4014 4 → exec (.registerWrite 119 0x4014 4 v) s = .next s)
    ∧ (regTarget off = some target → off < 0x10000000 → s.admits 0 target hostFunction .write off size = false →
      ∃ s', exec (.registerWrite 119 off size v) s = .next s'
        ∧ s' = s.modDie 0 fun k => { k with denials := s'.die0.denials })
    ∧ (0x20000000 ≤ off → exec (.registerWrite 119 off size v) s = .next s)

/-- SUBMISSION_DOORBELL sets the tail, or counts one that is not below the ring's size; SQCTL_WRITE sets bit 0 alone,
and a rising bit lets launches go on and wakes the threads that nap on it; RSIZE_WRITE sets a ring's size and enables,
or ignores a size outside 4 to 16 whole; DETACK clears the two counts of dropped and failed accesses (03 R54; 12 Table
12.2, R246; 16 R345). -/
def hostControlWrites : Prop :=
  ∀ (s : State) (v : W32),
    (hostMayWrite s 1 0x1014 4 → exec (.submissionDoorbell v) s = .next { s with host :=
      if v.toNat < 2 ^ s.host.sqsize.toNat then { s.host with sqtail := v }
      else { s.host with sqerr := if s.host.sqerr = 0xFFFFFFFF then s.host.sqerr else s.host.sqerr + 1 } })
    ∧ (hostMayWrite s 1 0x100C 4 →
      let h : HostRegs := { s.host with sqctl := if v.getLsbD 0 then 1 else 0 }
      ((v.getLsbD 0 = false ∨ s.host.sqctl.getLsbD 0 = true) → exec (.sqctlWrite v) s = .next { s with host := h })
      ∧ (v.getLsbD 0 = true → s.host.sqctl.getLsbD 0 = false →
        ∃ s', exec (.sqctlWrite v) s = .next s' ∧ s' = { s with host := h, heldLaunch := false, crews := s'.crews }
          ∧ ∀ p tid, s'.thread? p tid = (s.thread? p tid).map fun t => match t.wait with
            | .nap _ m => if m.getLsbD 2 then { t with wait := .ready, pc := t.pc + 4 } else t
            | _ => t))
    ∧ (∀ k, k < 3 → hostMayWrite s 1 (0x2008 + 32 * k) 4 → exec (.rsizeWrite k v) s = .next (
      if 4 ≤ v.toNat % 32 ∧ v.toNat % 32 ≤ 16 then
        { s with host := { s.host with rings := s.host.rings.modify k fun r => { r with size := v &&& 0x31F } } }
      else s))
    ∧ (hostMayWrite s 1 0x3014 4 →
      exec (.detack v) s = .next { s with host := { s.host with detdrop := 0, detread := 0 } })
    ∧ (s.hostReaches = false → exec (.submissionDoorbell v) s = .next s ∧ exec (.sqctlWrite v) s = .next s
      ∧ exec (.detack v) s = .next s ∧ ∀ k, exec (.rsizeWrite k v) s = .next s)

/-- FRAME_POINTER_WRITE sets the die's frame pointer; SCANOUT_LUT_WRITE sets two or four consecutive entries of a colour's
map and no other (12 R248, R249). -/
def scanOutWrites : Prop :=
  ∀ (s : State) (die : Nat) (v : W64), die ≤ 1 →
    let o := (s.die die).scan
    (s.admits die 3 (managementOf die) .write (0x10000000 * die + 0x8000) 8 = true →
      exec (.framePointerWrite die v) s = .next (s.modDie die fun d => { d with scan := { d.scan with pointer := v } }))
    ∧ ∀ colour entry size, (size = 4 ∨ size = 8) → 2 * entry % size = 0 → colour < 3 → entry < 4096 →
      s.admits die 3 (managementOf die) .write (0x10000000 * die + (0xA000 + 8192 * colour + 2 * entry)) size = true →
      (o.lut.map Prod.fst).Pairwise (· < ·) →
      ∃ s', exec (.scanoutLutWrite die colour entry size v) s = .next s'
        ∧ s' = s.modDie die (fun d => { d with scan := { d.scan with lut := (s'.die die).scan.lut } })
        ∧ ∀ k, lutEntry (s'.die die).scan.lut k
          = if 4096 * colour + entry ≤ k ∧ k < 4096 * colour + entry + size / 2
            then BitVec.ofNat 16 (v.toNat / 2 ^ (16 * (k - (4096 * colour + entry)))) else lutEntry o.lut k

/-- Writes of the register space by the host function and the management cores (12 R239, R241, Table 12.2, R248, R249). -/
def Obligations.RegisterWrites : Prop := registerWrites ∧ hostControlWrites ∧ scanOutWrites

/-! ## The recovery mailbox -/

/-- The mailbox holds a command of this code in progress. -/
def asked (s : State) (code : Nat) : Prop := s.mailbox.status.toNat % 256 = 1 ∧ s.mailbox.cmd.toNat % 256 = code

/-- A command ended with a status: its sequence number is beside it, and vector 7 is raised (12 R242, R254). -/
def answered (s s' : State) (status : Nat) : Prop :=
  s'.mailbox.status.toNat = status + s.mailbox.cmd.toNat / 65536 * 65536 ∧ s'.mailbox.cmd = s.mailbox.cmd
    ∧ (s.attached = true → Posted.msi 7 ∈ s'.hostOut)
/-- It is done, and these bytes begin the result area. -/
def answeredWith (s s' : State) (l : List W8) : Prop :=
  answered s s' 2 ∧ ∀ i, i < l.length → s'.mailbox.result.read (0x100 + i) = l.getD i 0

/-- DISPOSE, PAGEREPLY and CLEARKILL (12 Table 12.6; 11 R225, R226; 08 R183). That CLEARKILL clears the mark of the block
it names alone is the model's reading (log 37). -/
def mailboxRecovery : Prop :=
  ∀ s : State, Memory.wf s.mailbox.result = true →
    (asked s 1 →
      ((∀ x ∈ s.tickets, x.ticket.toNat ≠ s.argWord 0) → ∃ s', exec .dispose s = .next s' ∧ answeredWith s s' (leBytes 4 1)
        ∧ s'.tickets = s.tickets ∧ s'.crews = s.crews)
      ∧ ∀ x k u n, ParkedUnder s x k u → x.ticket.toNat = s.argWord 0 → x.dest = .ring n → s.argWord 4 ≤ 1 →
        ∃ s', exec .dispose s = .next s' ∧ answeredWith s s' (leBytes 4 0)
          ∧ s'.thread? k.place x.tid = some (goesOnBy u (decide (s.argWord 4 = 1)) s.hostPts)
          ∧ s'.tickets = s.tickets.filter fun y => y.ticket ≠ x.ticket)
    ∧ (asked s 2 →
      (1 < s.argWord 8 ∨ 1 < s.argWord 12 → ∃ s', exec .pagereply s = .next s' ∧ answered s s' 3 ∧ s'.crews = s.crews)
      ∧ (s.argWord 8 ≤ 1 → s.argWord 12 = 0 → ∃ s', exec .pagereply s = .next s' ∧ answered s s' 2
        ∧ (∀ w ∈ (s'.die (s.argWord 8)).walks, w.page = s.argVa 0 % 2 ^ 57 / 4096 → w.asked = false)
        ∧ ∀ p tid t va syn en word toHost, p.die = s.argWord 8 → s.thread? p tid = some t →
          t.wait = .pageFault (s.argWord 8) va syn en word toHost → va.toNat / 4096 = s.argVa 0 % 2 ^ 57 / 4096 →
          (∃ w ∈ (s.die (s.argWord 8)).walks, w.page = s.argVa 0 % 2 ^ 57 / 4096 ∧ w.asked = true ∧ w.toHost = toHost) →
          s'.thread? p tid = some { t with wait := .ready }))
    ∧ (asked s 3 → ∃ s', exec .clearkill s = .next s' ∧ answered s s' 2
      ∧ ∀ r, r ∈ s'.kills ↔ r ∈ s.kills ∧ r ≠ s.argVa 0)

/-- QREAD counts what a stage holds; QDRAIN, of a frozen die only, takes records from the head of its queue, in order;
QLAUNCH, of a frozen die only, places one crew of the records it is given, and marks the driving (12 Tables 12.5, 12.6,
R253; the places of the results are log 13's). -/
def mailboxQueues : Prop :=
  ∀ (s : State) (st : Stage) (d : StageDesc), Memory.wf s.mailbox.result = true →
    let a : StageAt := ⟨s.argVa 4, s.argWord 12⟩
    s.stage? a = some st → st.desc = some d → d.die = s.argWord 0 → d.die ≤ 1 →
    (asked s 4 → ∃ s' l, exec .qread s = .next s' ∧ answeredWith s s' l ∧ s'.regions = s.regions
      ∧ fieldAt l 0 4 = st.queue.length % 2 ^ 32 ∧ fieldAt l 4 4 = st.formed.length % 2 ^ 32
      ∧ fieldAt l 8 4 = st.saved.length % 2 ^ 32 ∧ ∀ c, c < 104 → ((fieldAt l 16 16).testBit c = true ↔ c ∈ st.grant))
    ∧ (asked s 5 → ((s.die d.die).frozen = false → ∃ s', exec .qdrain s = .next s' ∧ answered s s' 3 ∧ s'.regions = s.regions)
      ∧ ((s.die d.die).frozen = true → 16 ≤ d.recsize → (∀ r ∈ st.queue, r.bytes.length = d.recsize) →
        s.crews.any (fun c => c.at_.rcb = a.rcb) = true →
        let k := min (min (s.argWord 16) st.queue.length) ((0xFF00 - 16) / d.recsize)
        ∃ s' l, exec .qdrain s = .next s' ∧ answeredWith s s' l ∧ fieldAt l 0 4 = k
          ∧ l.drop 16 = (st.queue.take k).flatMap QRec.bytes ∧ s'.stage? a = some { st with queue := st.queue.drop k }))
    ∧ (asked s 6 → ((s.die d.die).frozen = false → ∃ s', exec .qlaunch s = .next s' ∧ answered s s' 3 ∧ s'.crews = s.crews)
      ∧ ∀ (s1 : State) (l : List W8) (m : Nat), (s.die d.die).frozen = true → s.fatal = none → d.paired = false →
        d.persistent = false → d.nbind = 0 → s.argWord 16 < 104 → 0 < s.argWord 28 → s.argWord 28 ≤ d.crewsize →
        (∀ q ∈ s.lineage 10 a.rcb, q ∉ s.kills) → s.depthAbove 16 a.rcb ≤ 8 → s.usable d.die (s.argWord 16) = true →
        s.fits d 1 (s.onColumn d.die (s.argWord 16)) = true → s.mayHave d.die a.rcb [] (s.argWord 16) = true →
        s.fwRead (managementOf 0) true (s.argVa 20) (s.argWord 28 * d.recsize) = (.ok l, s1) → s1.freeNumber a.rcb = some m →
        ∃ s' c, exec .qlaunch s = .next s' ∧ answered s s' 2 ∧ s'.crews = s.crews ++ [c] ∧ c.place.die = d.die
          ∧ c.place.col = s.argWord 16 ∧ c.at_ = a ∧ c.crewno = m ∧ c.threads.length = s.argWord 28
          ∧ (∀ k ∈ s.crews, k.place ≠ c.place) ∧ s'.mailbox.driving = true)

/-- GSRESET starts the die's scheduler anew and keeps queues, saved crews and grants; COLSTATE, COUNTS, ATTEST and
LOADCODE give their results (12 Tables 12.6 and 12.10, R255 to R259). The codes of COLSTATE and the report's order are the
model's (log 13), and so is that GSRESET restarts the die's watchdog (log 64). -/
def mailboxReports : Prop :=
  ∀ s : State, Memory.wf s.mailbox.result = true →
    let die := s.argWord 0
    let col := s.argWord 4
    (asked s 7 → (1 < die → ∃ s', exec .gsreset s = .next s' ∧ answered s s' 3)
      ∧ (die ≤ 1 → ∃ s', exec .gsreset s = .next s' ∧ answered s s' 2 ∧ (s'.die die).frozen = false
        ∧ (s'.die die).watchdog = s.ns ∧ s'.mailbox.driving = false ∧ s'.regions = s.regions ∧ s'.crews = s.crews))
    ∧ (asked s 8 → (1 < die ∨ 104 ≤ col → ∃ s', exec .colstate s = .next s' ∧ answered s s' 3)
      ∧ (die ≤ 1 → col < 104 → ∃ s' n, exec .colstate s = .next s'
        ∧ answeredWith s s' (leBytes 4 n ++ leBytes 4 (s.crews.filter fun c => c.place.die = die ∧ c.place.col = col).length)
        ∧ ((s.col die col).fenced = true → n = 2)
        ∧ ((s.col die col).fenced = false → n = if (s.col die col).enabled then 0 else 1)))
    ∧ (asked s 9 → ∃ s', exec .counts s = .next s'
      ∧ answeredWith s s' ((s.die0.corrected ++ s.die1.corrected).flatMap (leBytes 4)))
    ∧ (asked s 10 → ∃ s' r, exec .attest s = .next s' ∧ r.take 32 = s.mailbox.args.readN 0 32
      ∧ answeredWith s s' (r ++ (List.range 3309).map (Config.identitySignature 0 r)))
    ∧ (asked s 11 →
      (∀ l s1, s.loadCode (s.argVa 0) (s.argVa 8) (s.argWord 16) = (.done l, s1) →
        ∃ s', exec .loadcode s = .next s' ∧ answeredWith s s' l)
      ∧ ∀ s1, s.loadCode (s.argVa 0) (s.argVa 8) (s.argWord 16) = (.refused, s1) →
        ∃ s', exec .loadcode s = .next s' ∧ answered s s' 3)

/-- LOADCODE ends well only for a container that is well formed and signed by a trusted key, into pages of device memory
(12 R257, R258). -/
def loadedIsTrusted : Prop :=
  ∀ (s s1 : State) (at_ va n : Nat) (r : List W8), s.loadCode at_ va n = (.done r, s1) →
    at_ % 64 = 0 ∧ ∃ l, (Container.ofBytes l).malformed l = false ∧ (Container.ofBytes l).trusted l = true
      ∧ ∃ p, (Container.ofBytes l).plan l va n = some p ∧ r = p.result ∧ ∀ b ∈ p.blocks, b.1 % 64 = 0 ∧ b.1 + b.2.length ≤ va + n

/-- The commands of the recovery mailbox (12 R254 to R259, Tables 12.5, 12.6, 12.10). -/
def Obligations.MailboxCommands : Prop := mailboxRecovery ∧ mailboxQueues ∧ mailboxReports ∧ loadedIsTrusted

/-! ## The host's accesses and the link -/

/-- A BAR2 range that lies in one home, which the access tables let the host function reach (12 R240). -/
structure Bar2Open (s : State) (off n : Nat) (k : AccKind) (a h : Nat) : Prop where
  at_ : a = s.host.apbase.toNat + off
  inside : off + n ≤ 2 ^ 36
  some_ : 0 < n
  first : homeOf a = some h
  last : homeOf (a + n - 1) = some h
  allowed : s.devDenied hostFunction k a n h = none

/-- What an AtomicOp stores over an old value of n bytes; none for one that the function does not complete (12 R240). -/
def atomicOpRule (n old : Nat) : PcieAtomic → Option Nat
  | .fetchAdd v => some ((old + v.toNat) % 256 ^ n)
  | .swap v => some (v.toNat % 256 ^ n)
  | .cas c v => some (if old = c.toNat % 256 ^ n then v.toNat % 256 ^ n else old)
  | .other => none

/-- HOST_BAR2_READ answers device memory's bytes and changes no byte; HOST_BAR2_WRITE writes its bytes and no other;
HOST_ATOMICOP of 4 or 8 bytes answers the old bytes and stores the operation's value; what is refused is answered
Unsupported Request, or, a write, dropped; with the link down, or no BAR assigned since it trained, nothing happens. A
read through BAR0 answers a register's bytes, or Unsupported Request where the block's access table does not admit it. Every
answer stands behind the writes that were posted before it, which are in the host's memory by then (12 R239, R240, R243,
R246; 07 R161). That the event HOST_BAR2_READ stands for a read through BAR0 too is the model's choice (log 54), and
that a HOST_ATOMICOP at an offset that is no multiple of its size is an Unsupported Request is PRESUMED of the host's bus, not
in the spec (log 55). -/
def bar2Accesses : Prop :=
  ∀ (s : State) (off : Nat), s.globalWf = true → s.hostReaches = true →
    (∀ n target, (n = 4 ∨ n = 8) → off % n = 0 → regTarget off = some target →
      (s.admits 0 target hostFunction .read off n = true →
        exec (.hostBar2Read (.bar0 off) n) s
          = .next { s.drainOut with replies := s.replies ++ [.data (s.regRead 0 off n)] })
      ∧ (off < 0x10000000 → s.admits 0 target hostFunction .read off n = false →
        ∃ s', exec (.hostBar2Read (.bar0 off) n) s = .next s' ∧ s'.replies = s.replies ++ [.unsupported]
          ∧ s' = { (s.modDie 0 fun k => { k with denials := s'.die0.denials }).drainOut with replies := s'.replies }))
    ∧ (∀ n a h, Bar2Open s off n .read a h → s.poisoned a n = false →
      ∃ s', exec (.hostBar2Read (.bar2 off) n) s = .next s' ∧ s'.replies = s.replies ++ [.data (s.bytes .dev a n)]
        ∧ s'.hostOut = [] ∧ sameBytes s.drainOut s' ∧ s'.crews = s.crews)
    ∧ (∀ l a h, Bar2Open s off l.length .write a h → ∃ s', exec (.hostBar2Write off l) s = .next s'
      ∧ storesBytes s s' .dev a l.length (fun i => l.getD i 0) ∧ s'.crews = s.crews ∧ s'.replies = s.replies)
    ∧ (∀ n op a h, (n = 4 ∨ n = 8) → off % n = 0 → Bar2Open s off n .atomic a h → s.poisoned a n = false →
      ∀ new, atomicOpRule n (leNat (s.bytes .dev a n)) op = some new →
      ∃ s', exec (.hostAtomicop off n op) s = .next s' ∧ s'.replies = s.replies ++ [.data (s.bytes .dev a n)]
        ∧ s'.hostOut = [] ∧ storesBytes s.drainOut s' .dev a n (fun i => BitVec.ofNat 8 (new / 256 ^ i)) ∧ s'.crews = s.crews)
    ∧ (∀ n op, (n ≠ 4 ∧ n ≠ 8) ∨ op = .other ∨ off % n ≠ 0 →
      exec (.hostAtomicop off n op) s = .next { s.drainOut with replies := s.replies ++ [.unsupported] })
    ∧ (∀ n, 0 < n → 2 ^ 36 < off + n ∨ homeOf (s.host.apbase.toNat + off) = none →
      exec (.hostBar2Read (.bar2 off) n) s = .next { s.drainOut with replies := s.replies ++ [.unsupported] }
      ∧ ∀ l, l.length = n → exec (.hostBar2Write off l) s = .next s)
    ∧ ∀ (s0 : State) (at_ : HostReadAt) (l : List W8) (n : Nat) (op : PcieAtomic), s0.hostReaches = false →
      exec (.hostBar2Read at_ n) s0 = .next s0 ∧ exec (.hostBar2Write off l) s0 = .next s0
        ∧ exec (.hostAtomicop off n op) s0 = .next s0

/-- The posted items that detdrop counts when they are dropped: stores, sectors, and entries of ring 0 (12 Table 12.2). -/
def countedDrop : Posted → Bool
  | .store _ _ _ _ | .sector _ _ _ => true
  | .entry k _ _ _ => k == 0
  | .msi _ => false
/-- Those that a FENCE.host covers: the stores and sectors of threads and engines (07 R158). -/
def fencedDrop : Posted → Bool
  | .store _ _ a _ | .sector _ a _ => fencedAgent a
  | _ => false

/-- HOST_DETACH: the link is down, what was posted is dropped, sqctl bit 0 clears, launches are held; detdrop counts the
stores, sectors and entries of ring 0 that were dropped, and a later FENCE.host finds that one it covers is lost where one
of them is a thread's or an engine's; every present thread of a host-dependent region takes HOST_DETACHED. LINK_RETRAIN
brings the link up with no BAR assigned, and changes nothing else (12 R245, R246, Tables 12.2, 12.3). Two points are the
model's reading: which of the posted items are counted and which go back to wait (log 52), and that LINK_RETRAIN leaves
every other register of the module as it is (log 53). -/
def detachment : Prop :=
  ∀ s : State, s.attached = true →
    (∃ s', exec .hostDetach s = .next s' ∧ s'.attached = false ∧ s'.heldLaunch = true ∧ s'.host.sqctl = 0
      ∧ s'.hostOut = [] ∧ s'.host.detcount = s.host.detcount + 1 ∧ s'.host.detns = BitVec.ofNat 64 s.ns
      ∧ ((∀ k ∈ s.cols, k.transfers = []) → s'.hostMem = s.hostMem ∧ s'.mem = s.mem
        ∧ s'.host.detdrop.toNat = min 0xFFFFFFFF (s.host.detdrop.toNat + (s.hostOut.filter countedDrop).length)
        ∧ s'.hostLost = (s.hostLost || s.hostOut.any fencedDrop))
      ∧ ∀ p c tid t, s.crew? p = some c → c.threads[tid]? = some t → c.present.getLsbD tid = true → tid < 32 →
        (s.eff c.at_.rcb).hostDependent = true →
        ∃ u, s'.thread? p tid = some u ∧ u.cause = 0x10 ∧ (∃ k, u.wait = .faultDomain k)
          ∧ (t.wait = .ready → u.pc = t.pc ∧ u.epc = t.pc))
    ∧ exec .linkRetrain { s with attached := false } = .next { s with enumerated := false }
    ∧ exec .hostDetach { s with attached := false } = .next { s with attached := false }

/-- Accesses through BAR2, and the link going down and up (12 R240, R245, R246). -/
def Obligations.HostAccesses : Prop := bar2Accesses ∧ detachment

/-! ## Scan-out and the sensor link -/

/-- The threads of a die that nap on an event go on, past the stores of the event up to a timestamp (16 R345, 12 R251). -/
def napsEnd (s s' : State) (die k pts : Nat) : Prop :=
  ∀ p tid, s'.thread? p tid = (s.thread? p tid).map fun t => match t.wait with
    | .nap _ m => if m.getLsbD k ∧ p.die = die then { t with wait := .ready, pc := t.pc + 4, pts := max t.pts pts } else t
    | _ => t

/-- SCANOUT_FIELD_START shows the next colour's field: for each pixel the code that the colour's map gives for its phase;
nothing where the pointer is 0; the last complete frame's field after a fatal error or in an abandoned frame. It wakes the
die's threads that nap on it. The pointer is taken as a red field starts (12 R248, R249; 08 Table 8.9; 11 R238). Two points
are the model's reading (log 61): a field shows the bytes of memory at its start, and what is left of a frame that is
abandoned repeats the fields of the last complete one. -/
def fieldStarts : Prop :=
  ∀ (s : State) (die : Nat), die ≤ 1 →
    let o := (s.die die).scan
    let pointer := if o.colour = 0 then o.pointer else o.shown
    let s1 := s.modDie die fun d => { d with scan := d.scan.begin }
    ∃ s', exec (.scanoutFieldStart die) s = .next s' ∧ napsEnd s s' die 1 0
      ∧ (let n := (s'.die die).scan
        n.colour = (o.colour + 1) % 3 ∧ n.started = o.started + 1 ∧ n.pointer = o.pointer ∧ n.lut = o.lut ∧ n.shown = pointer
        ∧ (s.fatal ≠ none ∨ (o.colour ≠ 0 ∧ o.abandoned = true) → n.field = o.frame.getD o.colour [])
        ∧ (s.fatal = none → (o.colour = 0 ∨ o.abandoned = false) →
          (pointer = 0 → n.field = [])
          ∧ (∀ l s2, pointer ≠ 0 → s1.fwRead (scanOutOf die) true (pointer.toNat + o.colour * 0x2000000) 0x2000000 = (.ok l, s2) →
            ∀ i, 2 * i + 1 < l.length → look 0 n.field i
              = lutEntry o.lut (4096 * o.colour + phaseIndex (BitVec.ofNat 16 (fieldAt l (2 * i) 2))) &&& 0x3FF)
          ∧ ∀ b s2, pointer ≠ 0 →
            s1.fwRead (scanOutOf die) true (pointer.toNat + o.colour * 0x2000000) 0x2000000 = (.error b, s2) →
            n.field = o.frame.getD o.colour []))

/-- The index of a phase of x units of π is the floor of 2048 x, modulo 4096; of an infinity or a NaN, 0 (12 R249). -/
def phaseIndices : Prop :=
  ∀ p : W16, phaseIndex p = match unitsOf .fp16 p.toNat with
    | some u => (2048 * u / unitsPerOne .fp16 % 4096).toNat
    | none => 0

/-- SENSOR_PACKET (that a packet of fewer than 8 or more than 256 bytes is dropped as one of a bad CRC is, is the model's
choice, log 87): a packet of a bad length or CRC, of an unknown kind, or with a generation list whose read is denied, is
counted and changes nothing else; another updates die 0's mailbox, with its sequence number two higher, adds 1 to a
generation word that its list names, sends the mailbox to die 1, and wakes die 0's threads that nap on it, behind the
word's store. POSE_MIRROR writes the oldest mailbox on its way to die 1 and wakes die 1's threads (12 R250, R251; 08
Table 8.9). -/
def poseUpdates : Prop :=
  ∀ (s : State) (p : SensorPacket),
    let counted (s : State) : State := s.modDie 0 fun d => { d with sensorDrops := d.sensorDrops + 1 }
    (p.length < 8 ∨ 256 < p.length ∨ p.crcGood = false ∨ p.kind = .unknown → exec (.sensorPacket p) s = .next (counted s))
    ∧ (∀ x : PoseData, 8 ≤ p.length → p.length ≤ 256 → p.crcGood = true → p.kind = .gazeOrPose x →
      x.gaze.length = 4 → x.pos.length = 3 → x.quat.length = 4 →
      let pose : Pose := ⟨s.die0.pose.seq + 2, BitVec.ofNat 64 s.ns, x.gaze, x.pos, x.quat⟩
      let written (s : State) : State := { s.modDie 0 (fun d => { d with pose }) with store := s.store + 1 }
      (∀ s1, s.generationWords = (none, s1) → exec (.sensorPacket p) s = .next (counted s1))
      ∧ ((∀ r ∈ s.regions, r.eff.genlist = 0) → ∃ s', exec (.sensorPacket p) s = .next s'
        ∧ s' = { (written s).modDie 0 (fun d => { d with poseSend := d.poseSend ++ [(pose, 0)] }) with crews := s'.crews }
        ∧ napsEnd s s' 0 0 0)
      ∧ ∀ s1 s2 va pa h e, s.generationWords = (some [va], s1) → s.hostOut = [] → s.globalWf = true →
        (written s1).checkNow sensorLink true (BitVec.ofNat 64 va) 4 .atomic = (.device pa h e, s2) →
        s2.poisoned pa 4 = false →
        ∃ s' t, exec (.sensorPacket p) s = .next s' ∧ s'.die0.pose = pose ∧ s'.die0.poseSend = s.die0.poseSend ++ [(pose, t)]
          ∧ napsEnd s s' 0 0 t ∧ s'.stamp (pa / 128) = (t, t)
          ∧ storesBytes s s' .dev pa 4 (fun i => BitVec.ofNat 8 ((leNat (s.bytes .dev pa 4) + 1) / 256 ^ i)))
    ∧ (∀ q t rest, s.die0.poseSend = (q, t) :: rest → ∃ s', exec .poseMirror s = .next s' ∧ s'.die1.pose = q
      ∧ napsEnd s s' 1 0 t
      ∧ s' = { s with die0 := { s.die0 with poseSend := rest }, die1 := { s.die1 with pose := q }
                      crews := s'.crews, store := s'.store })
    ∧ (s.die0.poseSend = [] → exec .poseMirror s = .next s)

/-- Scan-out fields, phase indices and sensor packets (12 R248 to R251). -/
def Obligations.DisplayAndSensor : Prop := fieldStarts ∧ phaseIndices ∧ poseUpdates

/-! ## Columns that fail -/

/-- MATRIX_ENGINE_HANG resets an engine of which an operation, queued, filling or draining, has made no progress for 2^20
cycles, and no other: the crews that use it lose their tiles' values and their ranges, and their threads take
MATRIX_ENGINE_RESET, where no region is restartable. MATRIX_ENGINE_RESET_COMPLETE ends the reset (11 R231). That every
present thread takes the cause, one that is parked already too, is the model's reading (log 65). -/
def engineResets : Prop :=
  ∀ (s : State) (die col : Nat), die ≤ 1 → col < 104 → 104 * die + col < s.cols.length →
    let k := s.col die col
    let hung : Prop := (k.ops ≠ [] ∧ 0x100000 ≤ k.hang) ∨ ∃ t ∈ k.transfers, t.isMatrix = true ∧ 0x100000 ≤ t.idle
    (¬ hung → exec (.matrixEngineHang die col) s = .next s)
    ∧ (hung → placesDistinct s →
      (∀ k ∈ s.crews, k.place.die = die → k.place.col = col → (s.eff k.at_.rcb).restartable = false) →
      ∃ s', exec (.matrixEngineHang die col) s = .next s' ∧ (s'.col die col).resetting = true ∧ (s'.col die col).hang = 0
        ∧ ∀ c, c ∈ s.crews → c.place.die = die → c.place.col = col →
          (c.tiles ≠ [] ∨ c.ob.any Option.isSome = true ∨ c.twin ≠ none) →
          ∃ c', s'.crew? c.place = some c' ∧ (∀ t ∈ c'.tiles, t.elems = [] ∧ t.i48q2 = false ∧ t.vector = false ∧ t.bad = false)
            ∧ (∀ x ∈ c'.ob, x = none) ∧ (∀ o ∈ (s'.col die col).ops, o.uid ≠ c.uid)
            ∧ ∀ tid t, c.threads[tid]? = some t → tid < 32 → c.present.getLsbD tid = true →
              ∃ u, c'.threads[tid]? = some u ∧ u.cause = 0x11 ∧ (∃ k, u.wait = .faultDomain k)
                ∧ (t.wait = .ready → u.pc = t.pc ∧ u.epc = t.pc))
    ∧ ((s.col die col).resetting = true → (∀ c ∈ s.crews, c.held = []) →
      exec (.matrixEngineResetComplete die col) s = .next (s.modCol die col fun k => { k with resetting := false }))
    ∧ ((s.col die col).resetting = false → exec (.matrixEngineResetComplete die col) s = .next s)

/-- THERMAL_MIGRATION of a crew without a twin: it is sealed for a column of its die that has room, or stays as it is;
once drained it stands in a free slot there with its number, its present set and its threads' registers and PCs, and
the scratchpad follows its owner's last crew (11 R232). When the column's mark as hot is set, stays and is cleared is the
model's reading (log 62). -/
def migrations : Prop :=
  ∀ (s : State) (c : Crew) (toCol : Nat), s.crew? c.place = some c → c.twin = none → c.place.die ≤ 1 → c.place.col < 104 →
    placesDistinct s →
    (c.phase = .running →
      let s1 := s.markHot c.place.die c.place.col
      (s1.sealable c = true → (s1.col c.place.die c.place.col).fenced = false →
        s1.mayMove [c] c.place.die c.place.col toCol = true →
        ∃ s', exec (.thermalMigration c.place toCol) s = .next s' ∧ sameBytes s s'
          ∧ ∃ c', s'.crew? c.place = some c' ∧ c' = { c with phase := .moving toCol, threads := c'.threads }
            ∧ (c'.threads.map Thread.stripe = c.threads.map Thread.stripe) ∧ c'.threads.map Thread.pc = c.threads.map Thread.pc)
      ∧ (s1.mayMove [c] c.place.die c.place.col toCol = false → exec (.thermalMigration c.place toCol) s = .next s1))
    ∧ (c.phase = .moving toCol → s.drained c = true → toCol < 104 →
      s.mayMove [c] c.place.die c.place.col toCol = true →
      ∃ s' c', exec (.thermalMigration c.place toCol) s = .next s' ∧ s'.crew? c.place = none
        ∧ s'.crew? c'.place = some c' ∧ c'.place.die = c.place.die ∧ c'.place.col = toCol ∧ c'.place.slot < 64
        ∧ (∀ k ∈ s.crews, k.place ≠ c'.place)
        ∧ c' = { c with place := c'.place, phase := .running, threads := c'.threads }
        ∧ c'.threads.map Thread.stripe = c.threads.map Thread.stripe ∧ c'.threads.map Thread.pc = c.threads.map Thread.pc
        ∧ (s'.col c.place.die c.place.col).hot = false
        ∧ ∀ r, s.scratchMoves c.place.die c.place.col [c] = some r →
          (s'.col c.place.die toCol).scratch = (s.col c.place.die c.place.col).scratch
            ∧ (s'.col c.place.die toCol).count = (s.col c.place.die c.place.col).count)

/-- COLUMN_FENCE takes a column in service out of it: no group of it waits to run, its bank holds no line, dirty lines
that do not read back poison their home lines, and crews of restartable regions leave to be launched again. That its
instruction cache and its TLB are emptied is the model's reading (log 66). REMAP_SCRUB
does so only where neither copy of an entry can be read, and writes both copies of any other (11 R233 to R235). -/
def columnFences : Prop :=
  ∀ (s : State) (die col : Nat) (info : FenceInfo), die ≤ 1 → col < 104 → 104 * die + col < s.cols.length →
    let fences (s' : State) : Prop := (s'.col die col).fenced = true ∧ (s'.col die col).icache = [] ∧ (s'.col die col).l1 = []
      ∧ (∀ g ∈ s'.pending, ¬ (g.place.die = die ∧ g.place.col = col)) ∧ (∀ x ∈ (s'.die die).stack, x.bank ≠ col)
    ((s.col die col).enabled = true → (s.col die col).fenced = false → s.onColumn die col = [] →
      (∀ x ∈ (s.die die).stack, x.way < 16) →
      (∃ s', exec (.columnFence die col info) s = .next s' ∧ fences s' ∧ s'.crews = s.crews ∧ sameBytes s s'
        ∧ col ∈ (s'.die die).fenced
        ∧ ∀ x ∈ (s.die die).stack, x.bank = col → x.dirty = true → x.line ∈ info.badLines → (x.line, []) ∈ s'.poison)
      ∧ ∃ s', exec (.remapScrub die col .uncorrectable .uncorrectable) s = .next s' ∧ fences s')
    ∧ ((s.col die col).enabled = true → (s.col die col).fenced = false → placesDistinct s →
      ∃ s', exec (.columnFence die col info) s = .next s' ∧ (s'.col die col).fenced = true
        ∧ ∀ c ∈ s.crews, c.place.die = die → c.place.col = col → c.phase ≠ .ended →
          (s.eff c.at_.rcb).restartable = true →
          -- what takes its tiles is a drain of a crew of the column, which the fencing aborts (09 R204)
          (∀ o ∈ (s.col die col).ops, o.twin = some c.uid → o.drain.isSome = true
            ∧ ∃ k ∈ s.crews, k.uid = o.uid ∧ k.place.die = die ∧ k.place.col = col) →
          s'.crew? c.place = none)
    ∧ ((s.col die col).enabled = false ∨ (s.col die col).fenced = true → exec (.columnFence die col info) s = .next s)
    ∧ ∀ a b, ¬ (a = RemapCheck.uncorrectable ∧ b = RemapCheck.uncorrectable) →
      exec (.remapScrub die col a b) s = .next (s.modDie die fun d =>
        let rest := d.remap.filter fun x => x.1 ≠ col
        { d with remap := rest, scrubNs := if rest = [] then s.ns else d.scrubNs })

/-- Matrix-engine resets, migrations and fencing (11 R231 to R235). -/
def Obligations.ColumnFailures : Prop := engineResets ∧ migrations ∧ columnFences

/-! ## Power, bring-up and fatal errors -/

/-- POWER_LOSS, and THERMAL_SHUTDOWN of a die whose tcol has been above 115 °C for 1 ms, leave nothing of the module's
state, and what lies outside it as it was (which parts lie outside is the model's reading, log 59); a die that is not so hot
is not shut down (11 R238, 12 R260). -/
def powerOffs : Prop :=
  ∀ (s : State) (die : Nat) (i : Instr),
    let hot : Prop := 8 * 115 < (s.die die).tcol.toNat ∧ ∃ t, (s.die die).hotNs = some t ∧ t + 1000000 ≤ s.ns
    (¬ hot → exec (.thermalShutdown die) s = .next s)
    ∧ (i = .powerLoss ∨ (i = .thermalShutdown die ∧ hot) → ∃ s', exec i s = .next s' ∧ s'.power = false ∧ s'.mem = [] ∧ s'.crews = [] ∧ s'.regions = [] ∧ s'.cols = State.reset.cols ∧ s'.die0 = Die.reset
    ∧ s'.die1 = Die.reset ∧ s'.host = HostRegs.reset ∧ s'.kills = [] ∧ s'.tickets = [] ∧ s'.fatal = none
    ∧ s'.hostMem = s.hostMem ∧ s'.replies = s.replies)

/-- RESET_BRING_UP: with both images signed by their die's fused key and a link module trained, at most 96 columns of
each die that pass self-test are enabled, all of them where fewer pass, the masks and the count of bringup say which,
and its code is 2; a rejected image, or no trained module, ends it with code 3. Nothing of the work before is left (01 R11,
R12, R20; 12 R255, R260, Table 12.2). Two points are the model's reading: a warm reset keeps device memory and nothing else
(log 59), and of an end with code 3 (log 68): a rejected image of either die makes it, and one for want of a trained module
sets the masks and counts too. -/
def bringUps : Prop :=
  ∀ (s : State) (b : BringUp),
    ∃ s', exec (.resetBringUp b) s = .next s' ∧ s'.power = true ∧ s'.fatal = none ∧ s'.crews = [] ∧ s'.regions = []
      ∧ s'.kills = [] ∧ s'.tickets = [] ∧ s'.host.rev = b.rev ∧ s'.host.sqsize = 6 ∧ s'.host.sqctl = 0
      ∧ s'.mem = (if b.warm then s.mem else [])
      ∧ s'.die0.digest = digest b.image0.bytes 64 ∧ s'.die1.digest = digest b.image1.bytes 64
      ∧ (∀ d f, acceptsImage d f = true ↔ digest f.key 64 = Config.fusedDigest d
          ∧ Config.mlDsaVerifies f.key (digest f.bytes 64) f.signature = true)
      ∧ (acceptsImage 0 b.image0 = false ∨ acceptsImage 1 b.image1 = false ∨ b.ucieTrained = 0 → s'.host.bringup.toNat % 4 = 3)
      ∧ (acceptsImage 0 b.image0 = true → acceptsImage 1 b.image1 = true →
        let n (m : BitVec 104) : Nat := ((List.range 104).filter fun c => m.getLsbD c).length
        let w := s'.host.bringup.toNat
        (∀ c, c < 104 → (s'.host.colmask0.getLsbD c = true → b.pass0.getLsbD c = true)
          ∧ (s'.host.colmask1.getLsbD c = true → b.pass1.getLsbD c = true)
          ∧ (s'.col 0 c).enabled = s'.host.colmask0.getLsbD c ∧ (s'.col 1 c).enabled = s'.host.colmask1.getLsbD c)
        ∧ n s'.host.colmask0 = min 96 (n b.pass0) ∧ n s'.host.colmask1 = min 96 (n b.pass1)
        ∧ w / 256 % 256 = min 96 (n b.pass0) ∧ w / 65536 % 256 = min 96 (n b.pass1) ∧ w / 16777216 = min 4 b.ucieTrained
        ∧ (b.ucieTrained ≠ 0 → w % 4 = 2)
        ∧ (w / 4 % 2 = 1 ↔ n b.pass0 < 96) ∧ (w / 8 % 2 = 1 ↔ n b.pass1 < 96) ∧ (w / 16 % 2 = 1 ↔ b.ucieTrained < 4))

/-- FATAL_ERROR, the first alone, notes the cause, forms no group any more, raises vector 5 and writes the dump's header;
host memory, and device memory below the dump, stay. DIE_FREEZE marks the die and raises vector 4; that it does so
whatever the time of the die's watchdog is the model's reading (log 64). HALYARD_MESSAGE gives a consumed message's permit
back, or to the oldest message that waits (11 R238, Table 11.7; 12 R242, R252, R253). -/
def fatalErrors : Prop :=
  ∀ (s : State) (die : Nat), die ≤ 1 →
    (∀ cause, s.fatal ≠ none → exec (.fatalError cause die) s = .next s)
    ∧ (∀ cause, s.fatal = none → s.globalWf = true → ∃ s', exec (.fatalError cause die) s = .next s' ∧ s'.fatal = some (cause, die)
      ∧ s'.pending = [] ∧ (s.attached = true → Posted.msi 5 ∈ s'.hostOut) ∧ s'.hostMem = s.hostMem
      ∧ (∀ a, a < 0x2FF0000000 ∨ 0x3000000000 ≤ a → s'.byte .dev a = s.byte .dev a)
      ∧ leNat (s'.bytes .dev 0x2FF0000000 4) = 0x4446564F ∧ leNat (s'.bytes .dev 0x2FF0000004 4) = 1
      ∧ leNat (s'.bytes .dev 0x2FF0000008 4) = (match cause with
        | .ucieLoss => 1
        | .scheduler => 2
        | .queueManager => 3
        | .accessTable => 4
        | .watchdog => 5)
      ∧ leNat (s'.bytes .dev 0x2FF000000C 4) = die ∧ leNat (s'.bytes .dev 0x2FF0000010 8) = s.ns % 2 ^ 64)
    ∧ ((s.die die).frozen = true → exec (.dieFreeze die) s = .next s)
    ∧ ((s.die die).frozen = false → ∃ s', exec (.dieFreeze die) s = .next s' ∧ (s'.die die).frozen = true
      ∧ (s.attached = true → s'.hostOut = s.hostOut ++ [.msi 4]) ∧ s'.crews = s.crews ∧ s'.regions = s.regions)
    ∧ ∀ (cluster : Nat) (l : HalyardLink), (s.die die).down[cluster]? = some l → ∃ s' l',
      exec (.halyardMessage die cluster .toLeaf) s = .next s' ∧ (s'.die die).down[cluster]? = some l'
        ∧ (l.flight ≠ [] → l'.permits + l'.flight.length = l.permits + l.flight.length
          ∧ l'.flight ++ l'.waiting = (l.flight ++ l.waiting).drop 1)
        ∧ (l.flight = [] → l' = l) ∧ ∀ k, k ≠ cluster → (s'.die die).down[k]? = (s.die die).down[k]?

/-- Power loss, bring-up, fatal errors, frozen dies and the halyard links (11 R238; 12 R252, R253, R260). -/
def Obligations.PowerAndFatalErrors : Prop := powerOffs ∧ bringUps ∧ fatalErrors

/-! ## Reset and the invariant -/

/-- The machine right after reset: no work, no power of the host over it, the registers at the values that 12 Table 12.2,
R239, R252 and R260 give, and every memory in its canonical form. -/
def Obligations.ResetValues : Prop :=
  State.reset.memoriesWf = true ∧ State.reset.crews = [] ∧ State.reset.regions = [] ∧ State.reset.fatal = none
    ∧ State.reset.host.bringup = 0 ∧ State.reset.host.sqsize = 6 ∧ State.reset.host.sqctl = 0 ∧ State.reset.host.sqhead = 0
    ∧ State.reset.host.sqtail = 0 ∧ State.reset.host.sqerr = 0 ∧ State.reset.host.apbase = 0
    ∧ State.reset.die0.plimit = 300 ∧ State.reset.die1.plimit = 300 ∧ State.reset.mailbox.status = 0
    ∧ (∀ k, k < 4096 → lutEntry State.reset.die0.scan.lut k = BitVec.ofNat 16 (k / 4))
    ∧ (∀ d t m k p n, d ≤ 1 → m.idAt d ≠ 118 → State.reset.admits d t m k p n = false)
    ∧ ∀ die col, (State.reset.col die col).enabled = false ∧ (State.reset.col die col).count = 0

/-- Every step keeps device memory and host memory in their canonical form, in which equal memories are equal data. -/
def Obligations.MemoryStaysCanonical : Prop :=
  ∀ s s' : State, s.globalWf = true → step s = .next s' → s'.globalWf = true
end

