-- ==== Sys2Proof/Laws/Encoding.lean ====
section
/-! SUPPORT. Laws of the encoder and the decoder (13 Encodings): what each field of an encoded word reads as, that every code
of a named operand reads back, and which arm `decodeL` and `decodeU` take on each major opcode. -/

set_option linter.unusedSimpArgs false

namespace Sys2Proof.Laws

theorem extract_above {w v : Nat} (x : BitVec w) (y : BitVec v) (k n : Nat) (h : v ≤ k) :
    (x ++ y).extractLsb' k n = x.extractLsb' (k - v) n := by
  apply BitVec.eq_of_getLsbD_eq; intro i hi
  simp only [BitVec.getLsbD_extractLsb', BitVec.getLsbD_append]
  have : ¬ (k + i < v) := by omega
  simp [this, show k + i - v = k - v + i by omega]
theorem extract_below {w v : Nat} (x : BitVec w) (y : BitVec v) (k n : Nat) (h : k + n ≤ v) :
    (x ++ y).extractLsb' k n = y.extractLsb' k n := by
  apply BitVec.eq_of_getLsbD_eq; intro i hi
  simp only [BitVec.getLsbD_extractLsb', BitVec.getLsbD_append]
  have : (k + i < v) := by omega
  simp [this]
theorem extract_whole {w : Nat} (x : BitVec w) : x.extractLsb' 0 w = x := by
  apply BitVec.eq_of_getLsbD_eq; intro i hi; simp [hi]
theorem encLA_uset (m : BitVec 7) (d : BitVec 6) (a b : BitVec 7) (f : BitVec 4) : Field.uset (encLA m d a b f) = 0#1 := by
  simp (disch := decide) only [Field.uset, encLA, extract_above, extract_below, extract_whole, Nat.reduceSub]
theorem encLA_major (m : BitVec 7) (d : BitVec 6) (a b : BitVec 7) (f : BitVec 4) : Field.major (encLA m d a b f) = m := by
  simp (disch := decide) only [Field.major, encLA, extract_above, extract_below, extract_whole, Nat.reduceSub]
theorem encLA_d (m : BitVec 7) (d : BitVec 6) (a b : BitVec 7) (f : BitVec 4) : Field.d (encLA m d a b f) = d := by
  simp (disch := decide) only [Field.d, encLA, extract_above, extract_below, extract_whole, Nat.reduceSub]
theorem encLA_a7 (m : BitVec 7) (d : BitVec 6) (a b : BitVec 7) (f : BitVec 4) : Field.a7 (encLA m d a b f) = a := by
  simp (disch := decide) only [Field.a7, encLA, extract_above, extract_below, extract_whole, Nat.reduceSub]
theorem encLA_b7 (m : BitVec 7) (d : BitVec 6) (a b : BitVec 7) (f : BitVec 4) : Field.b7 (encLA m d a b f) = b := by
  simp (disch := decide) only [Field.b7, encLA, extract_above, extract_below, extract_whole, Nat.reduceSub]
theorem encLA_f4 (m : BitVec 7) (d : BitVec 6) (a b : BitVec 7) (f : BitVec 4) : Field.f4 (encLA m d a b f) = f := by
  simp (disch := decide) only [Field.f4, encLA, extract_above, extract_below, extract_whole, Nat.reduceSub]
theorem encLI_uset (m : BitVec 7) (d : BitVec 6) (a : BitVec 7) (i : BitVec 11) : Field.uset (encLI m d a i) = 0#1 := by
  simp (disch := decide) only [Field.uset, encLI, extract_above, extract_below, extract_whole, Nat.reduceSub]
theorem encLI_major (m : BitVec 7) (d : BitVec 6) (a : BitVec 7) (i : BitVec 11) : Field.major (encLI m d a i) = m := by
  simp (disch := decide) only [Field.major, encLI, extract_above, extract_below, extract_whole, Nat.reduceSub]
theorem encLI_d (m : BitVec 7) (d : BitVec 6) (a : BitVec 7) (i : BitVec 11) : Field.d (encLI m d a i) = d := by
  simp (disch := decide) only [Field.d, encLI, extract_above, extract_below, extract_whole, Nat.reduceSub]
theorem encLI_a7 (m : BitVec 7) (d : BitVec 6) (a : BitVec 7) (i : BitVec 11) : Field.a7 (encLI m d a i) = a := by
  simp (disch := decide) only [Field.a7, encLI, extract_above, extract_below, extract_whole, Nat.reduceSub]
theorem encLI_imm11 (m : BitVec 7) (d : BitVec 6) (a : BitVec 7) (i : BitVec 11) : Field.imm11 (encLI m d a i) = i := by
  simp (disch := decide) only [Field.imm11, encLI, extract_above, extract_below, extract_whole, Nat.reduceSub]
theorem encLI_imm5 (m : BitVec 7) (d : BitVec 6) (a : BitVec 7) (i : BitVec 11) : Field.imm5 (encLI m d a i) = i.extractLsb' 0 5 := by
  simp (disch := decide) only [Field.imm5, encLI, extract_above, extract_below, extract_whole, Nat.reduceSub]
theorem encLK_uset (m : BitVec 7) (d : BitVec 6) (k : BitVec 2) (i : BitVec 16) : Field.uset (encLK m d k i) = 0#1 := by
  simp (disch := decide) only [Field.uset, encLK, extract_above, extract_below, extract_whole, Nat.reduceSub]
theorem encLK_major (m : BitVec 7) (d : BitVec 6) (k : BitVec 2) (i : BitVec 16) : Field.major (encLK m d k i) = m := by
  simp (disch := decide) only [Field.major, encLK, extract_above, extract_below, extract_whole, Nat.reduceSub]
theorem encLK_d (m : BitVec 7) (d : BitVec 6) (k : BitVec 2) (i : BitVec 16) : Field.d (encLK m d k i) = d := by
  simp (disch := decide) only [Field.d, encLK, extract_above, extract_below, extract_whole, Nat.reduceSub]
theorem encLK_k2 (m : BitVec 7) (d : BitVec 6) (k : BitVec 2) (i : BitVec 16) : Field.k2 (encLK m d k i) = k := by
  simp (disch := decide) only [Field.k2, encLK, extract_above, extract_below, extract_whole, Nat.reduceSub]
theorem encLK_imm16 (m : BitVec 7) (d : BitVec 6) (k : BitVec 2) (i : BitVec 16) : Field.imm16 (encLK m d k i) = i := by
  simp (disch := decide) only [Field.imm16, encLK, extract_above, extract_below, extract_whole, Nat.reduceSub]
theorem encLX_uset (m : BitVec 7) (x y z f : BitVec 6) : Field.uset (encLX m x y z f) = 0#1 := by
  simp (disch := decide) only [Field.uset, encLX, extract_above, extract_below, extract_whole, Nat.reduceSub]
theorem encLX_major (m : BitVec 7) (x y z f : BitVec 6) : Field.major (encLX m x y z f) = m := by
  simp (disch := decide) only [Field.major, encLX, extract_above, extract_below, extract_whole, Nat.reduceSub]
theorem encLX_d (m : BitVec 7) (x y z f : BitVec 6) : Field.d (encLX m x y z f) = x := by
  simp (disch := decide) only [Field.d, encLX, extract_above, extract_below, extract_whole, Nat.reduceSub]
theorem encLX_y (m : BitVec 7) (x y z f : BitVec 6) : Field.y (encLX m x y z f) = y := by
  simp (disch := decide) only [Field.y, encLX, extract_above, extract_below, extract_whole, Nat.reduceSub]
theorem encLX_z (m : BitVec 7) (x y z f : BitVec 6) : Field.z (encLX m x y z f) = z := by
  simp (disch := decide) only [Field.z, encLX, extract_above, extract_below, extract_whole, Nat.reduceSub]
theorem encLX_f6 (m : BitVec 7) (x y z f : BitVec 6) : Field.f6 (encLX m x y z f) = f := by
  simp (disch := decide) only [Field.f6, encLX, extract_above, extract_below, extract_whole, Nat.reduceSub]
theorem encLB_uset (m : BitVec 7) (k : BitVec 3) (s h : BitVec 1) (o : BitVec 19) : Field.uset (encLB m k s h o) = 0#1 := by
  simp (disch := decide) only [Field.uset, encLB, extract_above, extract_below, extract_whole, Nat.reduceSub]
theorem encLB_major (m : BitVec 7) (k : BitVec 3) (s h : BitVec 1) (o : BitVec 19) : Field.major (encLB m k s h o) = m := by
  simp (disch := decide) only [Field.major, encLB, extract_above, extract_below, extract_whole, Nat.reduceSub]
theorem encLB_comb (m : BitVec 7) (k : BitVec 3) (s h : BitVec 1) (o : BitVec 19) : Field.comb (encLB m k s h o) = k := by
  simp (disch := decide) only [Field.comb, encLB, extract_above, extract_below, extract_whole, Nat.reduceSub]
theorem encLB_lbS (m : BitVec 7) (k : BitVec 3) (s h : BitVec 1) (o : BitVec 19) : Field.lbS (encLB m k s h o) = s := by
  simp (disch := decide) only [Field.lbS, encLB, extract_above, extract_below, extract_whole, Nat.reduceSub]
theorem encLB_lbH (m : BitVec 7) (k : BitVec 3) (s h : BitVec 1) (o : BitVec 19) : Field.lbH (encLB m k s h o) = h := by
  simp (disch := decide) only [Field.lbH, encLB, extract_above, extract_below, extract_whole, Nat.reduceSub]
theorem encLB_off19 (m : BitVec 7) (k : BitVec 3) (s h : BitVec 1) (o : BitVec 19) : Field.off19 (encLB m k s h o) = o := by
  simp (disch := decide) only [Field.off19, encLB, extract_above, extract_below, extract_whole, Nat.reduceSub]
theorem encUA_uset (d : BitVec 5) (a b : BitVec 6) (f : BitVec 7) : Field.uset (encUA d a b f) = 1#1 := by
  simp (disch := decide) only [Field.uset, encUA, extract_above, extract_below, extract_whole, Nat.reduceSub]
theorem encUA_major (d : BitVec 5) (a b : BitVec 6) (f : BitVec 7) : Field.major (encUA d a b f) = 0x10#7 := by
  simp (disch := decide) only [Field.major, encUA, extract_above, extract_below, extract_whole, Nat.reduceSub]
theorem encUA_ud (d : BitVec 5) (a b : BitVec 6) (f : BitVec 7) : Field.ud (encUA d a b f) = d := by
  simp (disch := decide) only [Field.ud, encUA, extract_above, extract_below, extract_whole, Nat.reduceSub]
theorem encUA_ua (d : BitVec 5) (a b : BitVec 6) (f : BitVec 7) : Field.ua (encUA d a b f) = a := by
  simp (disch := decide) only [Field.ua, encUA, extract_above, extract_below, extract_whole, Nat.reduceSub]
theorem encUA_ub (d : BitVec 5) (a b : BitVec 6) (f : BitVec 7) : Field.ub (encUA d a b f) = b := by
  simp (disch := decide) only [Field.ub, encUA, extract_above, extract_below, extract_whole, Nat.reduceSub]
theorem encUA_uf (d : BitVec 5) (a b : BitVec 6) (f : BitVec 7) : Field.uf (encUA d a b f) = f := by
  simp (disch := decide) only [Field.uf, encUA, extract_above, extract_below, extract_whole, Nat.reduceSub]
theorem encUK_uset (d : BitVec 5) (k : BitVec 3) (i : BitVec 16) : Field.uset (encUK d k i) = 1#1 := by
  simp (disch := decide) only [Field.uset, encUK, extract_above, extract_below, extract_whole, Nat.reduceSub]
theorem encUK_major (d : BitVec 5) (k : BitVec 3) (i : BitVec 16) : Field.major (encUK d k i) = 0x11#7 := by
  simp (disch := decide) only [Field.major, encUK, extract_above, extract_below, extract_whole, Nat.reduceSub]
theorem encUK_ud (d : BitVec 5) (k : BitVec 3) (i : BitVec 16) : Field.ud (encUK d k i) = d := by
  simp (disch := decide) only [Field.ud, encUK, extract_above, extract_below, extract_whole, Nat.reduceSub]
theorem encUK_uk (d : BitVec 5) (k : BitVec 3) (i : BitVec 16) : Field.uk (encUK d k i) = k := by
  simp (disch := decide) only [Field.uk, encUK, extract_above, extract_below, extract_whole, Nat.reduceSub]
theorem encUK_imm16 (d : BitVec 5) (k : BitVec 3) (i : BitVec 16) : Field.imm16 (encUK d k i) = i := by
  simp (disch := decide) only [Field.imm16, encUK, extract_above, extract_below, extract_whole, Nat.reduceSub]
theorem encUM_uset (d b : BitVec 5) (i : BitVec 14) : Field.uset (encUM d b i) = 1#1 := by
  simp (disch := decide) only [Field.uset, encUM, extract_above, extract_below, extract_whole, Nat.reduceSub]
theorem encUM_major (d b : BitVec 5) (i : BitVec 14) : Field.major (encUM d b i) = 0x12#7 := by
  simp (disch := decide) only [Field.major, encUM, extract_above, extract_below, extract_whole, Nat.reduceSub]
theorem encUM_ud (d b : BitVec 5) (i : BitVec 14) : Field.ud (encUM d b i) = d := by
  simp (disch := decide) only [Field.ud, encUM, extract_above, extract_below, extract_whole, Nat.reduceSub]
theorem encUM_ubase (d b : BitVec 5) (i : BitVec 14) : Field.ubase (encUM d b i) = b := by
  simp (disch := decide) only [Field.ubase, encUM, extract_above, extract_below, extract_whole, Nat.reduceSub]
theorem encUM_off14 (d b : BitVec 5) (i : BitVec 14) : Field.off14 (encUM d b i) = i := by
  simp (disch := decide) only [Field.off14, encUM, extract_above, extract_below, extract_whole, Nat.reduceSub]
theorem src7_enc (a : Src7) : src7 a.enc = some a := by
  cases a with
  | v n =>
    have h : (n.setWidth 7).toNat = n.toNat := by simp; omega
    have h1 : n.toNat < 64 := n.isLt
    have h2 : (n.setWidth 7).setWidth 6 = n := by
      apply BitVec.eq_of_toNat_eq; simp
    simp only [src7, Src7.enc, h, h1, if_true, h2]
  | g n => revert n; decide
  | int n => revert n; decide
  | _ => rfl
theorem srcOf_enc (k : Kind) (a : Src7) (h : a.ok k = true) : srcOf k a.enc = .ok a := by
  simp [srcOf, src7_enc, h]
theorem src6_g : ∀ n : Fin 32, (src6Of (Src6.g (BitVec.ofFin n)).enc).toOption = some (.g (BitVec.ofFin n)) := by decide
theorem dec_ok {x : Dec α} {a : α} (h : x.toOption = some a) : x = .ok a := by
  cases x with
  | error e => cases h
  | ok b => cases h; rfl
theorem src6_int : ∀ n : Fin 16, (src6Of (Src6.int (BitVec.ofFin n)).enc).toOption = some (.int (BitVec.ofFin n)) := by decide
theorem src6Of_enc (a : Src6) : src6Of a.enc = .ok a := by
  cases a with
  | g n => exact dec_ok (src6_g n.toFin)
  | int n => exact dec_ok (src6_int n.toFin)
  | minusOne => rfl
theorem ok_bind (a : α) (f : α → Dec β) : (Except.ok a >>= f : Dec β) = f a := rfl
theorem Cc_code (c : Cc) : Cc.ofCode (BitVec.ofNat 4 c.code).toNat = some c := by cases c <;> rfl
theorem CcImm_code (c : CcImm) : CcImm.ofCode (BitVec.ofNat 3 c.code).toNat = some c := by cases c <;> rfl
theorem FPred_code (c : FPred) : FPred.ofCode (BitVec.ofNat 4 c.code).toNat = some c := by cases c <;> rfl
theorem Comb_code (c : Comb) : Comb.ofCode (BitVec.ofNat 3 c.code).toNat = some c := by cases c <;> rfl
theorem Rm_code (c : Rm) : Rm.ofCode (BitVec.ofNat 2 c.code).toNat = some c := by cases c <;> rfl
theorem CType_code (c : CType) : CType.ofCode (BitVec.ofNat 2 c.code).toNat = some c := by cases c <;> rfl
theorem Fmt_code (c : Fmt) : Fmt.ofCode (BitVec.ofNat 4 c.code).toNat = some c := by cases c <;> rfl
theorem Scope_code (c : Scope) : Scope.ofCode (BitVec.ofNat 3 c.code).toNat = some c := by cases c <;> rfl
theorem Aop_code (c : Aop) : Aop.ofCode (BitVec.ofNat 4 c.code).toNat = some c := by cases c <;> rfl
theorem SysReg_code (c : SysReg) : SysReg.ofCode (BitVec.ofNat 7 c.code).toNat = some c := by cases c <;> rfl
theorem LdSize_code (c : LdSize) : LdSize.ofCode (BitVec.ofNat 3 c.code).toNat = some c := by cases c <;> rfl
theorem StSize_code (c : StSize) : StSize.ofCode (BitVec.ofNat 3 c.code).toNat = some c := by cases c <;> rfl
theorem TSize_code (c : TSize) : TSize.ofCode (BitVec.ofNat 2 c.code).toNat = some c := by cases c <;> rfl
theorem PrefLevel_code (c : PrefLevel) : PrefLevel.ofCode (BitVec.ofNat 3 c.code).toNat = some c := by cases c <;> rfl
theorem DftLen_code (c : DftLen) : DftLen.ofCode (BitVec.ofNat 2 c.code).toNat = some c := by cases c <;> rfl
theorem NFmt_code (c : NFmt) : NFmt.ofCode (BitVec.ofNat 4 c.code).toNat = some c := by cases c <;> rfl
theorem wide_code (c : CType) : wideOfCode (BitVec.ofNat 2 (wideCode c)).toNat = some c := by cases c <;> rfl
theorem AtomMask_code (c : AtomMask) : AtomMask.ofCode c.code = c := by cases c <;> rfl
theorem bit1_eq (b : Bool) : (bit1 b == 1) = b := by cases b <;> rfl
theorem named_some (x : α) : named (some x) = .ok x := rfl
theorem lowK {n k : Nat} (x : BitVec n) : (0#k ++ x).setWidth n = x := by
  apply BitVec.eq_of_getLsbD_eq; intro i hi
  simp [BitVec.getLsbD_append, hi]
theorem low3 (x : BitVec 3) : (0#3 ++ x).toNat < 8 ∧ (0#3 ++ x).setWidth 3 = x := by
  refine ⟨?_, ?_⟩
  · rw [BitVec.toNat_append]; simp; omega
  · exact lowK x
theorem low4 (x : BitVec 4) : (0#2 ++ x).toNat < 16 ∧ (0#2 ++ x).setWidth 4 = x := by
  refine ⟨?_, ?_⟩
  · rw [BitVec.toNat_append]; simp; omega
  · exact lowK x
theorem cb6_low (x : CBit) : cb6 (0#3 ++ x) = .ok x := by
  simp only [cb6, guardD, low3, decide_true, if_true]
theorem accOf_low (x : BitVec 3) : accOf (0#3 ++ x) = .ok x := by
  simp only [accOf, guardD, low3, decide_true, if_true]
theorem obOf_low (x : BitVec 4) : obOf (0#2 ++ x) = .ok x := by
  simp only [obOf, guardD, low4, decide_true, if_true]
theorem cvF_eq (m x y z cv f) : cvF (encLX m x y z (cvFld cv f)) = f.toNat := by
  simp (disch := decide) only [cvF, cvFld, encLX_f6, extract_below, extract_whole]
theorem cvOf_eq (m x y z cv f) : cvOf (encLX m x y z (cvFld cv f)) = cv := by
  simp (disch := decide) only [cvOf, cvFld, encLX_f6, extract_above, extract_whole, Nat.reduceSub]
theorem two_cases (s : BitVec 2) : s = 0 ∨ s = 1 ∨ s = 2 ∨ s = 3 := by
  have h := s.isLt
  have : s.toNat = 0 ∨ s.toNat = 1 ∨ s.toNat = 2 ∨ s.toNat = 3 := by omega
  rcases this with h | h | h | h
  · exact .inl (BitVec.eq_of_toNat_eq h)
  · exact .inr (.inl (BitVec.eq_of_toNat_eq h))
  · exact .inr (.inr (.inl (BitVec.eq_of_toNat_eq h)))
  · exact .inr (.inr (.inr (BitVec.eq_of_toNat_eq h)))
theorem encLA_comb (m a b f) (x k : BitVec 3) : Field.comb (encLA m (x ++ k : BitVec (3 + 3)) a b f) = x := by
  simp (disch := decide) only [Field.comb, encLA, extract_above, extract_below, extract_whole, Nat.reduceSub]
theorem encLA_cbit (m a b f) (x k : BitVec 3) : Field.cbit (encLA m (x ++ k : BitVec (3 + 3)) a b f) = k := by
  simp (disch := decide) only [Field.cbit, encLA, extract_above, extract_below, extract_whole, Nat.reduceSub]
theorem encLI_comb (m a i) (x k : BitVec 3) : Field.comb (encLI m (x ++ k : BitVec (3 + 3)) a i) = x := by
  simp (disch := decide) only [Field.comb, encLI, extract_above, extract_below, extract_whole, Nat.reduceSub]
theorem encLI_cbit (m a i) (x k : BitVec 3) : Field.cbit (encLI m (x ++ k : BitVec (3 + 3)) a i) = k := by
  simp (disch := decide) only [Field.cbit, encLI, extract_above, extract_below, extract_whole, Nat.reduceSub]
theorem encLM_uset (m t b) (k : Option CBit) (s i) : Field.uset (encLM m t b k s i) = 0 := by
  cases k <;> simp (disch := decide) only [Field.uset, encLM, extract_above, extract_below, extract_whole, Nat.reduceSub] <;> rfl
theorem encLM_major (m t b) (k : Option CBit) (s i) : Field.major (encLM m t b k s i) = m := by
  cases k <;> simp (disch := decide) only [Field.major, encLM, extract_above, extract_below, extract_whole, Nat.reduceSub]
theorem encLM_d (m t b) (k : Option CBit) (s i) : Field.d (encLM m t b k s i) = t := by
  cases k <;> simp (disch := decide) only [Field.d, encLM, extract_above, extract_below, extract_whole, Nat.reduceSub]
theorem encLM_y (m t b) (k : Option CBit) (s i) : Field.y (encLM m t b k s i) = b := by
  cases k <;> simp (disch := decide) only [Field.y, encLM, extract_above, extract_below, extract_whole, Nat.reduceSub]
theorem encLM_sz (m t b) (k : Option CBit) (s i) : Field.sz (encLM m t b k s i) = s := by
  cases k <;> simp (disch := decide) only [Field.sz, encLM, extract_above, extract_below, extract_whole, Nat.reduceSub]
theorem encLM_imm5 (m t b) (k : Option CBit) (s i) : Field.imm5 (encLM m t b k s i) = i := by
  cases k <;> simp (disch := decide) only [Field.imm5, encLM, extract_above, extract_below, extract_whole, Nat.reduceSub]
theorem maskOf_encLM (m t b) (k : Option CBit) (s i) : maskOf (encLM m t b k s i) = .ok k := by
  cases k <;> simp (disch := decide) only [maskOf, Field.me, Field.mcb, encLM, extract_above, extract_below, extract_whole, Nat.reduceSub] <;> rfl
theorem Cc_code' (c : Cc) : Cc.ofCode (c.code % 16) = some c := by cases c <;> rfl
theorem CcImm_code' (c : CcImm) : CcImm.ofCode (c.code % 8) = some c := by cases c <;> rfl
theorem FPred_code' (c : FPred) : FPred.ofCode (c.code % 16) = some c := by cases c <;> rfl
theorem Comb_code' (c : Comb) : Comb.ofCode (c.code % 8) = some c := by cases c <;> rfl
theorem Rm_code' (c : Rm) : Rm.ofCode (c.code % 4) = some c := by cases c <;> rfl
theorem CType_code' (c : CType) : CType.ofCode (c.code % 4) = some c := by cases c <;> rfl
theorem Fmt_code' (c : Fmt) : Fmt.ofCode (c.code % 16) = some c := by cases c <;> rfl
theorem Scope_code' (c : Scope) : Scope.ofCode (c.code % 8) = some c := by cases c <;> rfl
theorem Aop_code' (c : Aop) : Aop.ofCode (c.code % 16) = some c := by cases c <;> rfl
theorem SysReg_code' (c : SysReg) : SysReg.ofCode (c.code % 128) = some c := by cases c <;> rfl
theorem LdSize_code' (c : LdSize) : LdSize.ofCode (c.code % 8) = some c := by cases c <;> rfl
theorem StSize_code' (c : StSize) : StSize.ofCode (c.code % 8) = some c := by cases c <;> rfl
theorem TSize_code' (c : TSize) : TSize.ofCode (c.code % 4) = some c := by cases c <;> rfl
theorem PrefLevel_code' (c : PrefLevel) : PrefLevel.ofCode (c.code % 8) = some c := by cases c <;> rfl
theorem DftLen_code' (c : DftLen) : DftLen.ofCode (c.code % 4) = some c := by cases c <;> rfl
theorem NFmt_code' (c : NFmt) : NFmt.ofCode (c.code % 16) = some c := by cases c <;> rfl
theorem wide_code' (c : CType) : wideOfCode (wideCode c % 4) = some c := by cases c <;> rfl
theorem bit1_eq' (b : Bool) : (bit1 b == 1#1) = b := by cases b <;> rfl
theorem zl_toNat_4_2 (x : BitVec 2) : BitVec.toNat (w := 6) (0#4 ++ x) = x.toNat := by
  rw [BitVec.toNat_append]; simp
theorem zl_setWidth_4_2 (x : BitVec 2) : BitVec.setWidth (w := 6) 2 (0#4 ++ x) = x := lowK x
theorem zl_toNat_2_4 (x : BitVec 4) : BitVec.toNat (w := 6) (0#2 ++ x) = x.toNat := by
  rw [BitVec.toNat_append]; simp
theorem zl_setWidth_2_4 (x : BitVec 4) : BitVec.setWidth (w := 6) 4 (0#2 ++ x) = x := lowK x
theorem zl_toNat_1_6 (x : BitVec 6) : BitVec.toNat (w := 7) (0#1 ++ x) = x.toNat := by
  rw [BitVec.toNat_append]; simp
theorem zl_setWidth_1_6 (x : BitVec 6) : BitVec.setWidth (w := 7) 6 (0#1 ++ x) = x := lowK x
theorem zl_toNat_1_5 (x : BitVec 5) : BitVec.toNat (w := 6) (0#1 ++ x) = x.toNat := by
  rw [BitVec.toNat_append]; simp
theorem zl_setWidth_1_5 (x : BitVec 5) : BitVec.setWidth (w := 6) 5 (0#1 ++ x) = x := lowK x
theorem zl_toNat_3_3 (x : BitVec 3) : BitVec.toNat (w := 6) (0#3 ++ x) = x.toNat := by
  rw [BitVec.toNat_append]; simp
theorem zl_setWidth_3_3 (x : BitVec 3) : BitVec.setWidth (w := 6) 3 (0#3 ++ x) = x := lowK x
theorem hcLow : ∀ (x : BitVec 3) (k : BitVec 2), (x ++ k ++ 0#1 : BitVec 6).extractLsb' 0 3 = (k ++ 0#1 : BitVec 3) := by decide
theorem hcHigh : ∀ (x : BitVec 3) (k : BitVec 2), (x ++ k ++ 0#1 : BitVec 6).extractLsb' 3 3 = x := by decide
theorem encLA_comb_d (m) (y : BitVec 6) (a b f) : Field.comb (encLA m y a b f) = y.extractLsb' 3 3 := by
  simp (disch := decide) only [Field.comb, encLA, extract_above, extract_below, Nat.reduceSub]
theorem encLA_cbit_d (m) (y : BitVec 6) (a b f) : Field.cbit (encLA m y a b f) = y.extractLsb' 0 3 := by
  simp (disch := decide) only [Field.cbit, encLA, extract_above, extract_below, Nat.reduceSub]
theorem kLow : ∀ (k : BitVec 2), (k ++ 0#1 : BitVec 3).extractLsb' 0 1 = 0 ∧ (k ++ 0#1 : BitVec 3).extractLsb' 1 2 = k := by decide
theorem decodeL_01 (w : W32) (h : Field.major w = 0x01#7) : decodeL w = (
    guardD (Field.low24 w == 0) .nonzeroField (.ok .nop)) := by
  unfold decodeL; rw [h]; rfl
theorem decodeL_02 (w : W32) (h : Field.major w = 0x02#7) : decodeL w = (
    let d := Field.d w
    let ea := Field.a7 w
    guardD (Field.b7 w == 0 && Field.f4 w == 0) .nonzeroField <|
      match SysReg.ofCode ea.toNat with
      | some r => .ok (.movs d r)
      | none => .error .outOfRange) := by
  unfold decodeL; rw [h]; rfl
theorem decodeL_03 (w : W32) (h : Field.major w = 0x03#7) : decodeL w = (
    let d := Field.d w
    let ea := Field.a7 w
    let eb := Field.b7 w
    guardD (d == 0 && Field.f4 w == 0) .nonzeroField do
      let a ← srcOf .i ea
      match eb.toNat with
      | 13 => return .movt .fpf a
      | 14 => return .movt .fp4x a
      | _ => .error .outOfRange) := by
  unfold decodeL; rw [h]; rfl
theorem decodeL_04 (w : W32) (h : Field.major w = 0x04#7) : decodeL w = (
    let d := Field.d w
    guardD (d == 0 && Field.k2 w == 0) .nonzeroField <|
      match (Field.imm16 w).toNat with
      | 0 => .ok .syscIdentity
      | 1 => .ok .syscBudget
      | 16 => .ok .syscDispose
      | _ => .error .reservedFunction) := by
  unfold decodeL; rw [h]; rfl
theorem decodeL_05 (w : W32) (h : Field.major w = 0x05#7) : decodeL w = (
    let x := Field.d w
    let y := Field.y w
    let z := Field.z w
    let f6 := (Field.f6 w).toNat
    guardD (y == 0 && z == 0) .nonzeroField <|
      match f6 with
      | 0 => .ok (.scway x)
      | 1 => .ok (.scfl x)
      | _ => .error .reservedFunction) := by
  unfold decodeL; rw [h]; rfl
theorem decodeL_06 (w : W32) (h : Field.major w = 0x06#7) : decodeL w = (
    let d := Field.d w
    guardD (d == 0 && Field.k2 w == 0) .nonzeroField (.ok (.trap (Field.imm16 w)))) := by
  unfold decodeL; rw [h]; rfl
theorem decodeL_07 (w : W32) (h : Field.major w = 0x07#7) : decodeL w = (
    let d := Field.d w
    let ea := Field.a7 w
    let eb := Field.b7 w
    let f := (Field.f4 w).toNat
    guardD (d == 0 && ea == 0 && eb == 0) .nonzeroField <|
      match f with
      | 0 => .ok (.eret false)
      | 1 => .ok (.eret true)
      | _ => .error .reservedFunction) := by
  unfold decodeL; rw [h]; rfl
theorem decodeL_08 (w : W32) (h : Field.major w = 0x08#7) : decodeL w = (
    let d := Field.d w
    guardD (d == 0 && Field.k2 w == 0) .nonzeroField (.ok (.brk (Field.imm16 w)))) := by
  unfold decodeL; rw [h]; rfl
theorem decodeL_10 (w : W32) (h : Field.major w = 0x10#7) : decodeL w = (
    let d := Field.d w
    let ea := Field.a7 w
    let eb := Field.b7 w
    let f := (Field.f4 w).toNat
    do let a ← srcOf .i ea; let b ← srcOf .i eb; dec10 f d a b) := by
  unfold decodeL; rw [h]; rfl
theorem decodeL_11 (w : W32) (h : Field.major w = 0x11#7) : decodeL w = (
    let d := Field.d w
    let ea := Field.a7 w
    let eb := Field.b7 w
    let f := (Field.f4 w).toNat
    dec11 f d ea eb) := by
  unfold decodeL; rw [h]; rfl
theorem decodeL_12 (w : W32) (h : Field.major w = 0x12#7) : decodeL w = (
    let d := Field.d w
    let ea := Field.a7 w
    let eb := Field.b7 w
    let f := (Field.f4 w).toNat
    guardD (eb == 0) .nonzeroField do let a ← srcOf .i ea; dec12 f d a) := by
  unfold decodeL; rw [h]; rfl
theorem decodeL_13 (w : W32) (h : Field.major w = 0x13#7) : decodeL w = (
    let ea := Field.a7 w
    let eb := Field.b7 w
    let f := (Field.f4 w).toNat
    do
      let cc ← named (Cc.ofCode f)
      let cm ← named (Comb.ofCode (Field.comb w).toNat)
      let a ← srcOf .i ea
      let b ← srcOf .i eb
      return .icmp cc cm (Field.cbit w) a b) := by
  unfold decodeL; rw [h]; rfl
theorem decodeL_14 (w : W32) (h : Field.major w = 0x14#7) : decodeL w = (
    let d := Field.d w
    let ea := Field.a7 w
    let eb := Field.b7 w
    do
      let a ← srcOf .i ea
      let b ← srcOf .i eb
      return .sel d a b ((Field.f4 w).extractLsb' 0 3) ((Field.f4 w).extractLsb' 3 1 == 1)) := by
  unfold decodeL; rw [h]; rfl
theorem decodeL_15 (w : W32) (h : Field.major w = 0x15#7) : decodeL w = (
    let x := Field.d w
    let y := Field.y w
    let z := Field.z w
    .ok (.bfx x y z ((Field.f6 w).extractLsb' 0 5) ((Field.f6 w).extractLsb' 5 1 == 1))) := by
  unfold decodeL; rw [h]; rfl
theorem decodeL_16 (w : W32) (h : Field.major w = 0x16#7) : decodeL w = (
    let x := Field.d w
    let y := Field.y w
    let z := Field.z w
    guardD ((Field.f6 w).extractLsb' 5 1 == 0) .nonzeroField (.ok (.bfi x y z ((Field.f6 w).extractLsb' 0 5)))) := by
  unfold decodeL; rw [h]; rfl
theorem decodeL_17 (w : W32) (h : Field.major w = 0x17#7) : decodeL w = (
    let x := Field.d w
    let y := Field.y w
    let z := Field.z w
    .ok (.mad x y z (Field.f6 w))) := by
  unfold decodeL; rw [h]; rfl
theorem decodeL_18 (w : W32) (h : Field.major w = 0x18#7) : decodeL w = (
    let ea := Field.a7 w
    do
      let cc ← named (CcImm.ofCode (Field.comb w).toNat)
      let a ← srcOf .i ea
      return .icmpi cc (Field.cbit w) a (Field.imm11 w)) := by
  unfold decodeL; rw [h]; rfl
theorem decodeL_20 (w : W32) (h : Field.major w = 0x20#7) : decodeL w = (
    let d := Field.d w
    let ea := Field.a7 w
    do let a ← srcOf .i ea; return .addi d a (Field.imm11 w)) := by
  unfold decodeL; rw [h]; rfl
theorem decodeL_21 (w : W32) (h : Field.major w = 0x21#7) : decodeL w = (
    let d := Field.d w
    let ea := Field.a7 w
    do let a ← srcOf .i ea; return .andi d a (Field.imm11 w)) := by
  unfold decodeL; rw [h]; rfl
theorem decodeL_22 (w : W32) (h : Field.major w = 0x22#7) : decodeL w = (
    let d := Field.d w
    let ea := Field.a7 w
    do let a ← srcOf .i ea; return .ori d a (Field.imm11 w)) := by
  unfold decodeL; rw [h]; rfl
theorem decodeL_23 (w : W32) (h : Field.major w = 0x23#7) : decodeL w = (
    let d := Field.d w
    let ea := Field.a7 w
    do let a ← srcOf .i ea; return .xori d a (Field.imm11 w)) := by
  unfold decodeL; rw [h]; rfl
theorem decodeL_24 (w : W32) (h : Field.major w = 0x24#7) : decodeL w = (
    let d := Field.d w
    let ea := Field.a7 w
    guardD ((Field.imm11 w).extractLsb' 5 6 == 0) .nonzeroField do let a ← srcOf .i ea; return .shli d a (Field.imm5 w)) := by
  unfold decodeL; rw [h]; rfl
theorem decodeL_25 (w : W32) (h : Field.major w = 0x25#7) : decodeL w = (
    let d := Field.d w
    let ea := Field.a7 w
    guardD ((Field.imm11 w).extractLsb' 5 6 == 0) .nonzeroField do let a ← srcOf .i ea; return .shri d a (Field.imm5 w)) := by
  unfold decodeL; rw [h]; rfl
theorem decodeL_26 (w : W32) (h : Field.major w = 0x26#7) : decodeL w = (
    let d := Field.d w
    let ea := Field.a7 w
    guardD ((Field.imm11 w).extractLsb' 5 6 == 0) .nonzeroField do let a ← srcOf .i ea; return .sari d a (Field.imm5 w)) := by
  unfold decodeL; rw [h]; rfl
theorem decodeL_28 (w : W32) (h : Field.major w = 0x28#7) : decodeL w = (
    let d := Field.d w
    match (Field.k2 w).toNat with
      | 0 => .ok (.moviLo d (Field.imm16 w))
      | 1 => .ok (.moviSx d (Field.imm16 w))
      | 2 => .ok (.moviHi d (Field.imm16 w))
      | _ => .error .reservedFunction) := by
  unfold decodeL; rw [h]; rfl
theorem decodeL_30 (w : W32) (h : Field.major w = 0x30#7) : decodeL w = (
    let d := Field.d w
    let ea := Field.a7 w
    let eb := Field.b7 w
    let f := (Field.f4 w).toNat
    do
      let rm ← named (Rm.ofCode (f % 4))
      let a ← srcOf .f ea
      let b ← srcOf .f eb
      dec30 (f / 4) rm d a b) := by
  unfold decodeL; rw [h]; rfl
theorem decodeL_31 (w : W32) (h : Field.major w = 0x31#7) : decodeL w = (
    let d := Field.d w
    let ea := Field.a7 w
    let eb := Field.b7 w
    let f := (Field.f4 w).toNat
    dec31 f d ea eb) := by
  unfold decodeL; rw [h]; rfl
theorem decodeL_32 (w : W32) (h : Field.major w = 0x32#7) : decodeL w = (
    let ea := Field.a7 w
    let eb := Field.b7 w
    let f := (Field.f4 w).toNat
    do
      let p ← named (FPred.ofCode f)
      let cm ← named (Comb.ofCode (Field.comb w).toNat)
      let a ← srcOf .f ea
      let b ← srcOf .f eb
      return .fcmp p cm (Field.cbit w) a b) := by
  unfold decodeL; rw [h]; rfl
theorem decodeL_33 (w : W32) (h : Field.major w = 0x33#7) : decodeL w = (
    let d := Field.d w
    let ea := Field.a7 w
    let eb := Field.b7 w
    let f := (Field.f4 w).toNat
    guardD (eb == 0) .nonzeroField do let a ← srcOf .f ea; dec33 f d a) := by
  unfold decodeL; rw [h]; rfl
theorem decodeL_34 (w : W32) (h : Field.major w = 0x34#7) : decodeL w = (
    let x := Field.d w
    let y := Field.y w
    let z := Field.z w
    .ok (.ffma x y z (Field.f6 w))) := by
  unfold decodeL; rw [h]; rfl
theorem decodeL_38 (w : W32) (h : Field.major w = 0x38#7) : decodeL w = (
    let d := Field.d w
    let ea := Field.a7 w
    let eb := Field.b7 w
    let f := (Field.f4 w).toNat
    do
      let a ← srcOf .h ea
      let b ← srcOf .h eb
      dec38 (f % 8) (if f / 8 = 1 then .bf16 else .fp16) d a b) := by
  unfold decodeL; rw [h]; rfl
theorem decodeL_39 (w : W32) (h : Field.major w = 0x39#7) : decodeL w = (
    let x := Field.d w
    let y := Field.y w
    let z := Field.z w
    .ok (.hfma2F16 x y z (Field.f6 w))) := by
  unfold decodeL; rw [h]; rfl
theorem decodeL_3A (w : W32) (h : Field.major w = 0x3A#7) : decodeL w = (
    let x := Field.d w
    let y := Field.y w
    let z := Field.z w
    .ok (.hfma2Bf16 x y z (Field.f6 w))) := by
  unfold decodeL; rw [h]; rfl
theorem decodeL_3B (w : W32) (h : Field.major w = 0x3B#7) : decodeL w = (
    let ea := Field.a7 w
    let eb := Field.b7 w
    let f := (Field.f4 w).toNat
    do
      let p ← named (FPred.ofCode (f % 8))
      let cm ← named (Comb.ofCode (Field.comb w).toNat)
      let a ← srcOf .h ea
      let b ← srcOf .h eb
      guardD ((Field.cbit w).extractLsb' 0 1 == 0) .misalignedRegister <|
        .ok (.hcmp2 p (if f / 8 = 1 then .bf16 else .fp16) cm ((Field.cbit w).extractLsb' 1 2) a b)) := by
  unfold decodeL; rw [h]; rfl
theorem decodeL_40 (w : W32) (h : Field.major w = 0x40#7) : decodeL w = (
    let d := Field.d w
    let ea := Field.a7 w
    let eb := Field.b7 w
    let f := (Field.f4 w).toNat
    dec40 .fp16 f d ea eb) := by
  unfold decodeL; rw [h]; rfl
theorem decodeL_41 (w : W32) (h : Field.major w = 0x41#7) : decodeL w = (
    let d := Field.d w
    let ea := Field.a7 w
    let eb := Field.b7 w
    let f := (Field.f4 w).toNat
    dec40 .bf16 f d ea eb) := by
  unfold decodeL; rw [h]; rfl
theorem decodeL_42 (w : W32) (h : Field.major w = 0x42#7) : decodeL w = (
    let d := Field.d w
    let ea := Field.a7 w
    let eb := Field.b7 w
    let f := (Field.f4 w).toNat
    dec40 .fp32 f d ea eb) := by
  unfold decodeL; rw [h]; rfl
theorem decodeL_43 (w : W32) (h : Field.major w = 0x43#7) : decodeL w = (
    let x := Field.d w
    let y := Field.y w
    let z := Field.z w
    .ok (.cfmaFp16 x y z (Field.f6 w))) := by
  unfold decodeL; rw [h]; rfl
theorem decodeL_44 (w : W32) (h : Field.major w = 0x44#7) : decodeL w = (
    let x := Field.d w
    let y := Field.y w
    let z := Field.z w
    .ok (.cfmaBf16 x y z (Field.f6 w))) := by
  unfold decodeL; rw [h]; rfl
theorem decodeL_45 (w : W32) (h : Field.major w = 0x45#7) : decodeL w = (
    let x := Field.d w
    let y := Field.y w
    let z := Field.z w
    guardD (VReg.even x && VReg.even y && VReg.even z && VReg.even (Field.f6 w)) .misalignedRegister
      (.ok (.cfmaFp32 x y z (Field.f6 w)))) := by
  unfold decodeL; rw [h]; rfl
theorem decodeL_46 (w : W32) (h : Field.major w = 0x46#7) : decodeL w = (
    dec46 w) := by
  unfold decodeL; rw [h]; rfl
theorem decodeL_48 (w : W32) (h : Field.major w = 0x48#7) : decodeL w = (
    dec48 w) := by
  unfold decodeL; rw [h]; rfl
theorem decodeL_49 (w : W32) (h : Field.major w = 0x49#7) : decodeL w = (
    let d := Field.d w
    let ea := Field.a7 w
    let eb := Field.b7 w
    let f := (Field.f4 w).toNat
    do let a ← srcOf .i ea; let b ← srcOf .i eb; dec49 f d a b) := by
  unfold decodeL; rw [h]; rfl
theorem decodeL_4A (w : W32) (h : Field.major w = 0x4A#7) : decodeL w = (
    dec4A w) := by
  unfold decodeL; rw [h]; rfl
theorem decodeL_4C (w : W32) (h : Field.major w = 0x4C#7) : decodeL w = (
    dec4C w) := by
  unfold decodeL; rw [h]; rfl
theorem decodeL_4D (w : W32) (h : Field.major w = 0x4D#7) : decodeL w = (
    let x := Field.d w
    let y := Field.y w
    let z := Field.z w
    guardD (Field.f6 w == 0) .nonzeroField <|
      guardD (y.toNat < 4) .outOfRange (.ok (.xlut x (y.setWidth 2) z))) := by
  unfold decodeL; rw [h]; rfl
theorem decodeL_4E (w : W32) (h : Field.major w = 0x4E#7) : decodeL w = (
    dec4E w) := by
  unfold decodeL; rw [h]; rfl
theorem decodeL_4F (w : W32) (h : Field.major w = 0x4F#7) : decodeL w = (
    dec4F w) := by
  unfold decodeL; rw [h]; rfl
theorem decodeL_50 (w : W32) (h : Field.major w = 0x50#7) : decodeL w = (
    dec50 w) := by
  unfold decodeL; rw [h]; rfl
theorem decodeL_51 (w : W32) (h : Field.major w = 0x51#7) : decodeL w = (
    let x := Field.d w
    let y := Field.y w
    let z := Field.z w
    decQ w fun nf wf => guardD (y.toNat % nf.group wf == 0 && (nf != .q4n || VReg.even z)) .misalignedRegister
      (.ok (.qpack nf wf x y z))) := by
  unfold decodeL; rw [h]; rfl
theorem decodeL_52 (w : W32) (h : Field.major w = 0x52#7) : decodeL w = (
    let x := Field.d w
    let y := Field.y w
    let z := Field.z w
    decQ w fun nf wf => guardD (x.toNat % nf.group wf == 0 && (nf != .q4n || VReg.even z)) .misalignedRegister
      (.ok (.qunpk nf wf x y z))) := by
  unfold decodeL; rw [h]; rfl
theorem decodeL_53 (w : W32) (h : Field.major w = 0x53#7) : decodeL w = (
    let x := Field.d w
    let y := Field.y w
    let z := Field.z w
    decQ w fun nf wf => guardD (nf == .q4n || z == 0) .nonzeroField (.ok (.qscl nf wf x y z))) := by
  unfold decodeL; rw [h]; rfl
theorem decodeL_54 (w : W32) (h : Field.major w = 0x54#7) : decodeL w = (
    let x := Field.d w
    let y := Field.y w
    let z := Field.z w
    let f6 := (Field.f6 w).toNat
    guardD ((Field.f6 w).extractLsb' 5 1 == 0) .nonzeroField <|
      guardD (f6 % 2 == 0 && ((Field.f6 w).extractLsb' 0 5).toNat ≤ 28) .outOfRange
        (.ok (.rng x y z ((Field.f6 w).extractLsb' 0 5)))) := by
  unfold decodeL; rw [h]; rfl
theorem decodeL_57 (w : W32) (h : Field.major w = 0x57#7) : decodeL w = (
    dec57 w) := by
  unfold decodeL; rw [h]; rfl
theorem decodeL_58 (w : W32) (h : Field.major w = 0x58#7) : decodeL w = (
    dec58 w) := by
  unfold decodeL; rw [h]; rfl
theorem decodeL_59 (w : W32) (h : Field.major w = 0x59#7) : decodeL w = (
    dec59 w) := by
  unfold decodeL; rw [h]; rfl
theorem decodeL_5C (w : W32) (h : Field.major w = 0x5C#7) : decodeL w = (
    let x := Field.d w
    let y := Field.y w
    let z := Field.z w
    let f6 := (Field.f6 w).toNat
    guardD (z == 0) .nonzeroField <|
      match f6 with
      | 0 => .ok (.enq x y)
      | 1 => .ok (.enqNb x y)
      | _ => .error .reservedFunction) := by
  unfold decodeL; rw [h]; rfl
theorem decodeL_5D (w : W32) (h : Field.major w = 0x5D#7) : decodeL w = (
    let x := Field.d w
    let y := Field.y w
    let z := Field.z w
    guardD (z == 0 && Field.f6 w == 0) .nonzeroField <|
      guardD (VReg.even x) .misalignedRegister <|
      guardD (y.toNat < 16) .outOfRange (.ok (.range x (y.setWidth 4)))) := by
  unfold decodeL; rw [h]; rfl
theorem decodeL_5E (w : W32) (h : Field.major w = 0x5E#7) : decodeL w = (
    let x := Field.d w
    let y := Field.y w
    let z := Field.z w
    guardD (z == 0 && Field.f6 w == 0) .nonzeroField <|
      guardD (VReg.even x) .misalignedRegister (.ok (.qstat x y))) := by
  unfold decodeL; rw [h]; rfl
theorem decodeL_5F (w : W32) (h : Field.major w = 0x5F#7) : decodeL w = (
    dec5F w) := by
  unfold decodeL; rw [h]; rfl
theorem decodeL_60 (w : W32) (h : Field.major w = 0x60#7) : decodeL w = (
    guardD (Field.comb w == 0 && Field.lbS w == 0 && Field.lbH w == 0) .nonzeroField (.ok (.bra (Field.off19 w)))) := by
  unfold decodeL; rw [h]; rfl
theorem decodeL_61 (w : W32) (h : Field.major w = 0x61#7) : decodeL w = (
    .ok (.bc (Field.comb w) (Field.lbS w == 1) (Field.lbH w == 1) (Field.off19 w))) := by
  unfold decodeL; rw [h]; rfl
theorem decodeL_62 (w : W32) (h : Field.major w = 0x62#7) : decodeL w = (
    let d := Field.d w
    .ok (.call d (Field.off18 w))) := by
  unfold decodeL; rw [h]; rfl
theorem decodeL_63 (w : W32) (h : Field.major w = 0x63#7) : decodeL w = (
    let d := Field.d w
    .ok (.callc d (Field.lcCb w) (Field.lcS w == 1) (Field.off14 w))) := by
  unfold decodeL; rw [h]; rfl
theorem decodeL_64 (w : W32) (h : Field.major w = 0x64#7) : decodeL w = (
    let d := Field.d w
    let ea := Field.a7 w
    let eb := Field.b7 w
    guardD (d == 0 && eb == 0 && Field.f4 w == 0) .nonzeroField do let a ← srcOf .a ea; return .bri a) := by
  unfold decodeL; rw [h]; rfl
theorem decodeL_65 (w : W32) (h : Field.major w = 0x65#7) : decodeL w = (
    let x := Field.d w
    let y := Field.y w
    let z := Field.z w
    guardD (z == 0 && Field.f6 w == 0) .nonzeroField <|
      guardD (VReg.even y) .misalignedRegister (.ok (.calli x y))) := by
  unfold decodeL; rw [h]; rfl
theorem decodeL_66 (w : W32) (h : Field.major w = 0x66#7) : decodeL w = (
    guardD (Field.low24 w == 0) .nonzeroField (.ok .ret)) := by
  unfold decodeL; rw [h]; rfl
theorem decodeL_67 (w : W32) (h : Field.major w = 0x67#7) : decodeL w = (
    guardD (Field.lbH w == 0 && Field.off19 w == 0) .nonzeroField (.ok (.retc (Field.comb w) (Field.lbS w == 1)))) := by
  unfold decodeL; rw [h]; rfl
theorem decodeL_68 (w : W32) (h : Field.major w = 0x68#7) : decodeL w = (
    guardD (Field.low24 w == 0) .nonzeroField (.ok .exit)) := by
  unfold decodeL; rw [h]; rfl
theorem decodeL_69 (w : W32) (h : Field.major w = 0x69#7) : decodeL w = (
    guardD (Field.low24 w == 0) .nonzeroField (.ok .yield)) := by
  unfold decodeL; rw [h]; rfl
theorem decodeL_6A (w : W32) (h : Field.major w = 0x6A#7) : decodeL w = (
    let d := Field.d w
    let ea := Field.a7 w
    guardD (d == 0 && (Field.imm11 w).extractLsb' 3 8 == 0) .nonzeroField do
      let a ← srcOf .i ea
      return .nap a ((Field.imm11 w).extractLsb' 0 3)) := by
  unfold decodeL; rw [h]; rfl
theorem decodeL_6B (w : W32) (h : Field.major w = 0x6B#7) : decodeL w = (
    let d := Field.d w
    let ea := Field.a7 w
    let eb := Field.b7 w
    guardD (d == 0 && eb == 0 && Field.f4 w == 0) .nonzeroField <|
      guardD (ea.toNat < 64) .badSource (.ok (.peal (ea.setWidth 6)))) := by
  unfold decodeL; rw [h]; rfl
theorem decodeL_6C (w : W32) (h : Field.major w = 0x6C#7) : decodeL w = (
    dec6C w) := by
  unfold decodeL; rw [h]; rfl
theorem decodeL_70 (w : W32) (h : Field.major w = 0x70#7) : decodeL w = (
    decLd w true) := by
  unfold decodeL; rw [h]; rfl
theorem decodeL_71 (w : W32) (h : Field.major w = 0x71#7) : decodeL w = (
    decSt w true) := by
  unfold decodeL; rw [h]; rfl
theorem decodeL_72 (w : W32) (h : Field.major w = 0x72#7) : decodeL w = (
    decLd w false) := by
  unfold decodeL; rw [h]; rfl
theorem decodeL_73 (w : W32) (h : Field.major w = 0x73#7) : decodeL w = (
    decSt w false) := by
  unfold decodeL; rw [h]; rfl
theorem decodeL_74 (w : W32) (h : Field.major w = 0x74#7) : decodeL w = (
    decT w false) := by
  unfold decodeL; rw [h]; rfl
theorem decodeL_75 (w : W32) (h : Field.major w = 0x75#7) : decodeL w = (
    decT w true) := by
  unfold decodeL; rw [h]; rfl
theorem decodeL_76 (w : W32) (h : Field.major w = 0x76#7) : decodeL w = (
    decAtom w true) := by
  unfold decodeL; rw [h]; rfl
theorem decodeL_77 (w : W32) (h : Field.major w = 0x77#7) : decodeL w = (
    decAtom w false) := by
  unfold decodeL; rw [h]; rfl
theorem decodeL_78 (w : W32) (h : Field.major w = 0x78#7) : decodeL w = (
    let x := Field.d w
    let y := Field.y w
    let z := Field.z w
    guardD (VReg.even y) .misalignedRegister (.ok (.cas x y z (Field.f6 w)))) := by
  unfold decodeL; rw [h]; rfl
theorem decodeL_79 (w : W32) (h : Field.major w = 0x79#7) : decodeL w = (
    dec79 w) := by
  unfold decodeL; rw [h]; rfl
theorem decodeL_7A (w : W32) (h : Field.major w = 0x7A#7) : decodeL w = (
    let d := Field.d w
    guardD (d == 0 && Field.k2 w == 0 && (Field.imm16 w).extractLsb' 3 13 == 0) .nonzeroField do
      let s ← named (Scope.ofCode ((Field.imm16 w).extractLsb' 0 3).toNat)
      return .fence s) := by
  unfold decodeL; rw [h]; rfl
theorem decodeL_7B (w : W32) (h : Field.major w = 0x7B#7) : decodeL w = (
    dec7B w) := by
  unfold decodeL; rw [h]; rfl
theorem decodeL_7C (w : W32) (h : Field.major w = 0x7C#7) : decodeL w = (
    let x := Field.d w
    let y := Field.y w
    let z := Field.z w
    let f6 := (Field.f6 w).toNat
    guardD (z == 0) .nonzeroField <|
      match f6 with
      | 0 => .ok (.flsetE x y)
      | 1 => .ok (.flsetF x y)
      | _ => .error .reservedFunction) := by
  unfold decodeL; rw [h]; rfl
theorem decodeL_7D (w : W32) (h : Field.major w = 0x7D#7) : decodeL w = (
    dec7D w) := by
  unfold decodeL; rw [h]; rfl
theorem pure_ok (a : α) : (pure a : Dec α) = .ok a := rfl
theorem decode_L (w : W32) (h : Field.uset w = 0) : decode w = decodeL w := by
  unfold decode; rw [h]; rfl
theorem decode_U (w : W32) (h : Field.uset w = 1) : decode w = decodeU w := by
  unfold decode; rw [h]; rfl
theorem decodeU_10 (w : W32) (h : Field.major w = 0x10#7) : decodeU w = (do
    let a ← src6Of (Field.ua w)
    let b ← src6Of (Field.ub w)
    decUA (Field.uf w).toNat (Field.ud w) (Field.ub w) a b) := by
  unfold decodeU; rw [h]; rfl
theorem decodeU_11 (w : W32) (h : Field.major w = 0x11#7) : decodeU w = (match (Field.uk w).toNat with
    | 0 => .ok (.umoviLo (Field.ud w) (Field.imm16 w))
    | 1 => .ok (.umoviSx (Field.ud w) (Field.imm16 w))
    | 2 => .ok (.umoviHi (Field.ud w) (Field.imm16 w))
    | _ => .error .reservedFunction) := by
  unfold decodeU; rw [h]; rfl
theorem decodeU_12 (w : W32) (h : Field.major w = 0x12#7) : decodeU w =
    (guardD (GReg.even (Field.ubase w)) .misalignedRegister <|
      guardD ((Field.off14 w).toNat % 4 == 0) .nonzeroField (.ok (.uld (Field.ud w) (Field.ubase w) (Field.off14 w)))) := by
  unfold decodeU; rw [h]; rfl
theorem src6Of_zero : src6Of 0 = .ok (.g 0) := rfl
theorem src6Of_zero' : src6Of 0#6 = .ok (.g 0) := rfl

end Sys2Proof.Laws
end

