-- ==== Sys2Proof/Laws/Memory.lean ====
section
/-! SUPPORT. Laws of the sparse tables and memories: every write keeps the canonical form, a read after a write gives what
was written there and what stood elsewhere, and the operations of the machine that store bytes keep every memory's form. -/

namespace Sys2Proof.Laws

open Sys2Proof Sys2Proof.Machine

/-! ## Tables -/

variable {β : Type} [DecidableEq β]

/-- The canonical form with a bound below it. -/
theorem tableFrom_cons (d : β) (lo : Option Nat) (k : Nat) (v : β) (t : List (Nat × β)) :
    tableFrom d lo ((k, v) :: t) = true ↔ (∀ l, lo = some l → l < k) ∧ v ≠ d ∧ tableFrom d (some k) t = true := by
  cases lo <;> simp [tableFrom, and_assoc]

/-- A lower bound may be lowered. -/
theorem tableFrom_lower (d : β) (lo lo' : Option Nat) (t : List (Nat × β)) (h : tableFrom d lo t = true)
    (hl : ∀ l, lo' = some l → ∃ l0, lo = some l0 ∧ l ≤ l0) : tableFrom d lo' t = true := by
  cases t with
  | nil => rfl
  | cons e t =>
    rw [tableFrom_cons] at h ⊢
    refine ⟨fun l e' => ?_, h.2⟩
    obtain ⟨l0, h0, h1⟩ := hl l e'
    exact Nat.lt_of_le_of_lt h1 (h.1 l0 h0)

/-- Setting an entry keeps the canonical form. -/
theorem tableFrom_put (d : β) (a : Nat) (b : β) (t : List (Nat × β)) :
    ∀ lo, tableFrom d lo t = true → (∀ l, lo = some l → l < a) → tableFrom d lo (put d a b t) = true := by
  induction t with
  | nil =>
    intro lo _ hl
    by_cases hb : b = d
    · simp [put, hb, tableFrom]
    · rw [put, if_neg hb, tableFrom_cons]
      exact ⟨hl, hb, rfl⟩
  | cons e t ih =>
    intro lo h hl
    obtain ⟨k, v⟩ := e
    rw [tableFrom_cons] at h
    rw [put]
    split
    · split
      · rwa [tableFrom_cons]
      · rename_i hb
        rw [tableFrom_cons]
        refine ⟨hl, hb, ?_⟩
        rw [tableFrom_cons]
        exact ⟨fun l e => by cases e; assumption, h.2⟩
    · split
      · rename_i hk
        split
        · refine tableFrom_lower d (some k) lo t h.2.2 fun l e => ⟨k, rfl, Nat.le_of_lt (h.1 l e)⟩
        · rename_i hb
          rw [tableFrom_cons]
          exact ⟨hl, hb, hk ▸ h.2.2⟩
      · rw [tableFrom_cons]
        exact ⟨h.1, h.2.1, ih (some k) h.2.2 fun l e => by cases e; omega⟩

/-- A key below the bound is not listed. -/
theorem look_below (d : β) (a : Nat) (t : List (Nat × β)) :
    ∀ l, tableFrom d (some l) t = true → a ≤ l → look d t a = d := by
  induction t with
  | nil => intro _ _ _; rfl
  | cons e t ih =>
    obtain ⟨k, v⟩ := e
    intro l h ha
    rw [tableFrom_cons] at h
    have := h.1 l rfl
    rw [look, if_neg (by omega)]
    exact ih k h.2.2 (by omega)

/-- A read after a write: the value at the key written, what stood before at every other. -/
theorem look_put (d : β) (a : Nat) (b : β) (t : List (Nat × β)) :
    ∀ lo, tableFrom d lo t = true → ∀ x, look d (put d a b t) x = if x = a then b else look d t x := by
  induction t with
  | nil =>
    intro lo _ x
    by_cases hb : b = d <;> by_cases hx : x = a <;> simp [put, look, hb, hx, eq_comm (a := a)]
  | cons e t ih =>
    obtain ⟨k, v⟩ := e
    intro lo h x
    rw [tableFrom_cons] at h
    rw [put]
    split
    · rename_i hak
      have hlow : look d ((k, v) :: t) a = d := by
        rw [look, if_neg (by omega)]
        exact look_below d a t k h.2.2 (Nat.le_of_lt hak)
      split
      · rename_i hb
        by_cases hx : x = a
        · rw [if_pos hx, hx, hlow, hb]
        · rw [if_neg hx]
      · by_cases hx : x = a
        · rw [if_pos hx, look, if_pos hx.symm]
        · rw [if_neg hx, look, if_neg (fun e => hx e.symm)]
    · split
      · rename_i hk
        split
        · rename_i hb
          by_cases hx : x = a
          · rw [if_pos hx, hx, hb]
            exact look_below d a t k h.2.2 (Nat.le_of_eq hk)
          · rw [if_neg hx]
            conv => rhs; rw [look]
            rw [if_neg (by omega)]
        · by_cases hx : x = a
          · rw [if_pos hx, look, if_pos hx.symm]
          · rw [if_neg hx, look, if_neg (fun e => hx e.symm), look, if_neg (by omega)]
      · rename_i hk
        rw [look]
        by_cases hkx : k = x
        · rw [if_pos hkx, if_neg (by omega), look, if_pos hkx]
        · rw [if_neg hkx, ih (some k) h.2.2 x]
          by_cases hx : x = a
          · rw [if_pos hx, if_pos hx]
          · rw [if_neg hx, if_neg hx, look, if_neg hkx]

/-- Dropping entries by key keeps the canonical form. -/
theorem tableFrom_filter (d : β) (p : Nat × β → Bool) (t : List (Nat × β)) :
    ∀ lo, tableFrom d lo t = true → tableFrom d lo (t.filter p) = true := by
  induction t with
  | nil => intro _ _; rfl
  | cons e t ih =>
    obtain ⟨k, v⟩ := e
    intro lo h
    rw [tableFrom_cons] at h
    by_cases hp : p (k, v) = true
    · rw [List.filter_cons_of_pos hp, tableFrom_cons]
      exact ⟨h.1, h.2.1, ih _ h.2.2⟩
    · rw [List.filter_cons_of_neg hp]
      exact tableFrom_lower d (some k) lo _ (ih _ h.2.2) fun l e => ⟨k, rfl, Nat.le_of_lt (h.1 l e)⟩

/-! ## Memories -/

theorem wf_nil : Memory.wf [] = true := rfl

theorem wf_write (m : Memory) (a : Nat) (b : W8) (h : Memory.wf m = true) : Memory.wf (m.write a b) = true :=
  tableFrom_put 0 a b m none h fun _ e => nomatch e

theorem read_write (m : Memory) (a x : Nat) (b : W8) (h : Memory.wf m = true) :
    (m.write a b).read x = if x = a then b else m.read x :=
  look_put 0 a b m none h x

theorem wf_filter (m : Memory) (p : Host.Cell → Bool) (h : Memory.wf m = true) : Memory.wf (m.filter p) = true :=
  tableFrom_filter 0 p m none h

theorem wf_writeL (l : List W8) : ∀ (m : Memory) (a : Nat), Memory.wf m = true → Memory.wf (Memory.writeL m a l) = true := by
  induction l with
  | nil => intro m a h; exact h
  | cons b l ih => intro m a h; exact ih _ _ (wf_write m a b h)

/-- After bytes are written: each of them at its address, and every other byte as before. -/
theorem read_writeL (l : List W8) : ∀ (m : Memory) (a x : Nat), Memory.wf m = true →
    (Memory.writeL m a l).read x = if a ≤ x ∧ x < a + l.length then l.getD (x - a) 0 else m.read x := by
  induction l with
  | nil => intro m a x _; rw [if_neg (by rw [List.length_nil]; omega)]; rfl
  | cons b l ih =>
    intro m a x h
    rw [Memory.writeL, ih _ _ _ (wf_write m a b h), read_write m a x b h]
    by_cases h1 : x = a
    · subst h1
      rw [if_neg (by omega), if_pos rfl, if_pos (by simp)]; simp
    · by_cases h2 : a + 1 ≤ x ∧ x < a + 1 + l.length
      · have : x - a = (x - (a + 1)) + 1 := by omega
        rw [if_pos h2, if_pos (by rw [List.length_cons]; omega), this, List.getD_cons_succ]
      · rw [if_neg h2, if_neg h1, if_neg (by rw [List.length_cons]; omega)]

/-- Outside the bytes written nothing changes. -/
theorem read_writeL_outside (l : List W8) (m : Memory) (a x : Nat) (h : Memory.wf m = true)
    (hx : x < a ∨ a + l.length ≤ x) : (Memory.writeL m a l).read x = m.read x := by
  rw [read_writeL l m a x h, if_neg (by omega)]

theorem readN_length (m : Memory) (n : Nat) : ∀ a, (Memory.readN m a n).length = n := by
  induction n with
  | zero => intro _; rfl
  | succ n ih => intro a; simp [Memory.readN, ih]

theorem readN_getD (m : Memory) (n : Nat) : ∀ a i, i < n → (Memory.readN m a n).getD i 0 = m.read (a + i) := by
  induction n with
  | zero => intro _ _ h; omega
  | succ n ih =>
    intro a i h
    cases i with
    | zero => simp [Memory.readN]
    | succ i =>
      rw [Memory.readN, List.getD_cons_succ, ih (a + 1) i (by omega)]
      congr 1; omega

/-- Reading back what was written. -/
theorem readN_writeL (l : List W8) (m : Memory) (a : Nat) (h : Memory.wf m = true) :
    Memory.readN (Memory.writeL m a l) a l.length = l := by
  apply List.ext_getElem
  · exact readN_length _ _ _
  · intro i h1 h2
    have e := readN_getD (Memory.writeL m a l) l.length a i h2
    rw [read_writeL l m a (a + i) h, if_pos (by omega)] at e
    simpa [List.getD_eq_getElem?_getD, h1, h2] using e

/-! ## The operations that store bytes keep the form of the two large memories -/

/-- Device memory and host memory are canonical. -/
def Canon (s : State) : Prop := Memory.wf s.mem = true ∧ Memory.wf s.hostMem = true

theorem canon_reset : Canon State.reset := ⟨rfl, rfl⟩

theorem canon_setSpace (s : State) (sp : Space) (m : Memory) (h : Canon s) (hm : Memory.wf m = true) :
    Canon (s.setSpace sp m) := by
  cases sp with
  | dev => exact ⟨hm, h.2⟩
  | host => exact ⟨h.1, hm⟩
  | loc u => exact h
  | scr d c => exact h

/-- Crews' memories and scratch memories too: all that a space names. -/
def CanonAll (s : State) : Prop := ∀ sp, Memory.wf (s.space sp) = true

theorem canonAll_reset : CanonAll State.reset := by
  intro sp
  cases sp with
  | scr d c =>
    have h : State.reset.col d c = Column.reset := by
      simp only [State.col, State.reset, List.getD_eq_getElem?_getD, List.getElem?_replicate]
      split <;> rfl
    simp only [State.space, h]; rfl
  | _ => rfl

/-- A store at one place of the store order keeps both memories canonical. -/
theorem canon_storeBytes (s : State) (sp : Space) (a : Nat) (l : List W8) (h : Canon s)
    (hs : Memory.wf (s.space sp) = true) : Canon (s.storeBytes sp a l) :=
  canon_setSpace s sp _ h (wf_writeL l _ a hs)

end Sys2Proof.Laws
end

