-- ==== Sys2Proof/Laws/PerInstr.lean ====
section
/-! SUPPORT. The family Encoding of LAWS.json: for every constructor of `Instr`, decoding the word the encoder writes of a
well-formed instruction gives that instruction (13 R261). The machine's own events have no encoding. -/

set_option linter.unusedSimpArgs false

namespace Sys2Proof.Laws.Encoding

/-- Decoding the encoded word of a well-formed instruction gives it back; said of the instructions that have a word. -/
def Statement (i : Instr) : Prop := i.wf = true → i.isEvent = false → decode (encode i) = .ok i

theorem movs (d r) : Statement (.movs d r) := by
  intro hw _
  change decode (encLA 0x02 d (BitVec.ofNat 7 r.code) 0 0) = _
  rw [decode_L _ (encLA_uset ..), decodeL_02 (encLA 0x02 d (BitVec.ofNat 7 r.code) 0 0) (encLA_major ..)]
  simp [encLA_d, encLA_a7, encLA_b7, encLA_f4, encLA_comb, encLA_cbit, srcOf_enc, ok_bind, pure_ok, guardD, SysReg_code, SysReg_code']

theorem movt (r a) : Statement (.movt r a) := by
  intro hw _
  replace hw : a.ok .i = true := hw
  cases r
  · change decode (encLA 0x03 0 a.enc 13 0) = _
    rw [decode_L _ (encLA_uset ..), decodeL_03 (encLA 0x03 0 a.enc 13 0) (encLA_major ..)]
    simp [encLA_d, encLA_a7, encLA_b7, encLA_f4, encLA_comb, encLA_cbit, srcOf_enc, ok_bind, pure_ok, guardD, hw]
  · change decode (encLA 0x03 0 a.enc 14 0) = _
    rw [decode_L _ (encLA_uset ..), decodeL_03 (encLA 0x03 0 a.enc 14 0) (encLA_major ..)]
    simp [encLA_d, encLA_a7, encLA_b7, encLA_f4, encLA_comb, encLA_cbit, srcOf_enc, ok_bind, pure_ok, guardD, hw]

theorem scway (x) : Statement (.scway x) := by
  intro hw _
  change decode (encLX 0x05 x 0 0 0) = _
  rw [decode_L _ (encLX_uset ..), decodeL_05 (encLX 0x05 x 0 0 0) (encLX_major ..)]
  simp [encLX_d, encLX_y, encLX_z, encLX_f6, srcOf_enc, ok_bind, pure_ok, guardD]

theorem scfl (x) : Statement (.scfl x) := by
  intro hw _
  change decode (encLX 0x05 x 0 0 1) = _
  rw [decode_L _ (encLX_uset ..), decodeL_05 (encLX 0x05 x 0 0 1) (encLX_major ..)]
  simp [encLX_d, encLX_y, encLX_z, encLX_f6, srcOf_enc, ok_bind, pure_ok, guardD]

theorem scwayComplete (x1 x2) : Statement (.scwayComplete x1 x2) :=
  fun _ h => absurd (h : true = false) Bool.noConfusion
theorem scflComplete (x1 x2) : Statement (.scflComplete x1 x2) :=
  fun _ h => absurd (h : true = false) Bool.noConfusion
theorem trap (c) : Statement (.trap c) := by
  intro hw _
  change decode (encLK 0x06 0 0 c) = _
  rw [decode_L _ (encLK_uset ..), decodeL_06 (encLK 0x06 0 0 c) (encLK_major ..)]
  simp [encLK_d, encLK_k2, encLK_imm16, srcOf_enc, ok_bind, pure_ok, guardD]

theorem eret (n) : Statement (.eret n) := by
  intro hw _
  change decode (encLA 0x07 0 0 0 (if n then 1 else 0)) = _
  rw [decode_L _ (encLA_uset ..), decodeL_07 (encLA 0x07 0 0 0 (if n then 1 else 0)) (encLA_major ..)]
  cases n
  all_goals try simp [encLA_d, encLA_a7, encLA_b7, encLA_f4, encLA_comb, encLA_cbit, srcOf_enc, ok_bind, pure_ok, guardD]

theorem brk (c) : Statement (.brk c) := by
  intro hw _
  change decode (encLK 0x08 0 0 c) = _
  rw [decode_L _ (encLK_uset ..), decodeL_08 (encLK 0x08 0 0 c) (encLK_major ..)]
  simp [encLK_d, encLK_k2, encLK_imm16, srcOf_enc, ok_bind, pure_ok, guardD]

theorem add (d a b) : Statement (.add d a b) := by
  intro hw _
  replace hw : (a.ok .i && b.ok .i) = true := hw
  simp only [Bool.and_eq_true] at hw
  change decode (encLA 0x10 d a.enc b.enc 0) = _
  rw [decode_L _ (encLA_uset ..), decodeL_10 (encLA 0x10 d a.enc b.enc 0) (encLA_major ..)]
  simp [encLA_d, encLA_a7, encLA_b7, encLA_f4, encLA_comb, encLA_cbit, dec10, srcOf_enc, ok_bind, pure_ok, guardD, hw]

theorem addc (d a b) : Statement (.addc d a b) := by
  intro hw _
  replace hw : (a.ok .i && b.ok .i) = true := hw
  simp only [Bool.and_eq_true] at hw
  change decode (encLA 0x10 d a.enc b.enc 1) = _
  rw [decode_L _ (encLA_uset ..), decodeL_10 (encLA 0x10 d a.enc b.enc 1) (encLA_major ..)]
  simp [encLA_d, encLA_a7, encLA_b7, encLA_f4, encLA_comb, encLA_cbit, dec10, srcOf_enc, ok_bind, pure_ok, guardD, hw]

theorem sub (d a b) : Statement (.sub d a b) := by
  intro hw _
  replace hw : (a.ok .i && b.ok .i) = true := hw
  simp only [Bool.and_eq_true] at hw
  change decode (encLA 0x10 d a.enc b.enc 2) = _
  rw [decode_L _ (encLA_uset ..), decodeL_10 (encLA 0x10 d a.enc b.enc 2) (encLA_major ..)]
  simp [encLA_d, encLA_a7, encLA_b7, encLA_f4, encLA_comb, encLA_cbit, dec10, srcOf_enc, ok_bind, pure_ok, guardD, hw]

theorem subb (d a b) : Statement (.subb d a b) := by
  intro hw _
  replace hw : (a.ok .i && b.ok .i) = true := hw
  simp only [Bool.and_eq_true] at hw
  change decode (encLA 0x10 d a.enc b.enc 3) = _
  rw [decode_L _ (encLA_uset ..), decodeL_10 (encLA 0x10 d a.enc b.enc 3) (encLA_major ..)]
  simp [encLA_d, encLA_a7, encLA_b7, encLA_f4, encLA_comb, encLA_cbit, dec10, srcOf_enc, ok_bind, pure_ok, guardD, hw]

theorem and (d a b) : Statement (.and d a b) := by
  intro hw _
  replace hw : (a.ok .i && b.ok .i) = true := hw
  simp only [Bool.and_eq_true] at hw
  change decode (encLA 0x10 d a.enc b.enc 4) = _
  rw [decode_L _ (encLA_uset ..), decodeL_10 (encLA 0x10 d a.enc b.enc 4) (encLA_major ..)]
  simp [encLA_d, encLA_a7, encLA_b7, encLA_f4, encLA_comb, encLA_cbit, dec10, srcOf_enc, ok_bind, pure_ok, guardD, hw]

theorem or (d a b) : Statement (.or d a b) := by
  intro hw _
  replace hw : (a.ok .i && b.ok .i) = true := hw
  simp only [Bool.and_eq_true] at hw
  change decode (encLA 0x10 d a.enc b.enc 5) = _
  rw [decode_L _ (encLA_uset ..), decodeL_10 (encLA 0x10 d a.enc b.enc 5) (encLA_major ..)]
  simp [encLA_d, encLA_a7, encLA_b7, encLA_f4, encLA_comb, encLA_cbit, dec10, srcOf_enc, ok_bind, pure_ok, guardD, hw]

theorem xor (d a b) : Statement (.xor d a b) := by
  intro hw _
  replace hw : (a.ok .i && b.ok .i) = true := hw
  simp only [Bool.and_eq_true] at hw
  change decode (encLA 0x10 d a.enc b.enc 6) = _
  rw [decode_L _ (encLA_uset ..), decodeL_10 (encLA 0x10 d a.enc b.enc 6) (encLA_major ..)]
  simp [encLA_d, encLA_a7, encLA_b7, encLA_f4, encLA_comb, encLA_cbit, dec10, srcOf_enc, ok_bind, pure_ok, guardD, hw]

theorem andn (d a b) : Statement (.andn d a b) := by
  intro hw _
  replace hw : (a.ok .i && b.ok .i) = true := hw
  simp only [Bool.and_eq_true] at hw
  change decode (encLA 0x10 d a.enc b.enc 7) = _
  rw [decode_L _ (encLA_uset ..), decodeL_10 (encLA 0x10 d a.enc b.enc 7) (encLA_major ..)]
  simp [encLA_d, encLA_a7, encLA_b7, encLA_f4, encLA_comb, encLA_cbit, dec10, srcOf_enc, ok_bind, pure_ok, guardD, hw]

theorem shl (d a b) : Statement (.shl d a b) := by
  intro hw _
  replace hw : (a.ok .i && b.ok .i) = true := hw
  simp only [Bool.and_eq_true] at hw
  change decode (encLA 0x10 d a.enc b.enc 8) = _
  rw [decode_L _ (encLA_uset ..), decodeL_10 (encLA 0x10 d a.enc b.enc 8) (encLA_major ..)]
  simp [encLA_d, encLA_a7, encLA_b7, encLA_f4, encLA_comb, encLA_cbit, dec10, srcOf_enc, ok_bind, pure_ok, guardD, hw]

theorem shr (d a b) : Statement (.shr d a b) := by
  intro hw _
  replace hw : (a.ok .i && b.ok .i) = true := hw
  simp only [Bool.and_eq_true] at hw
  change decode (encLA 0x10 d a.enc b.enc 9) = _
  rw [decode_L _ (encLA_uset ..), decodeL_10 (encLA 0x10 d a.enc b.enc 9) (encLA_major ..)]
  simp [encLA_d, encLA_a7, encLA_b7, encLA_f4, encLA_comb, encLA_cbit, dec10, srcOf_enc, ok_bind, pure_ok, guardD, hw]

theorem sar (d a b) : Statement (.sar d a b) := by
  intro hw _
  replace hw : (a.ok .i && b.ok .i) = true := hw
  simp only [Bool.and_eq_true] at hw
  change decode (encLA 0x10 d a.enc b.enc 10) = _
  rw [decode_L _ (encLA_uset ..), decodeL_10 (encLA 0x10 d a.enc b.enc 10) (encLA_major ..)]
  simp [encLA_d, encLA_a7, encLA_b7, encLA_f4, encLA_comb, encLA_cbit, dec10, srcOf_enc, ok_bind, pure_ok, guardD, hw]

theorem rotl (d a b) : Statement (.rotl d a b) := by
  intro hw _
  replace hw : (a.ok .i && b.ok .i) = true := hw
  simp only [Bool.and_eq_true] at hw
  change decode (encLA 0x10 d a.enc b.enc 11) = _
  rw [decode_L _ (encLA_uset ..), decodeL_10 (encLA 0x10 d a.enc b.enc 11) (encLA_major ..)]
  simp [encLA_d, encLA_a7, encLA_b7, encLA_f4, encLA_comb, encLA_cbit, dec10, srcOf_enc, ok_bind, pure_ok, guardD, hw]

theorem min (d a b) : Statement (.min d a b) := by
  intro hw _
  replace hw : (a.ok .i && b.ok .i) = true := hw
  simp only [Bool.and_eq_true] at hw
  change decode (encLA 0x10 d a.enc b.enc 12) = _
  rw [decode_L _ (encLA_uset ..), decodeL_10 (encLA 0x10 d a.enc b.enc 12) (encLA_major ..)]
  simp [encLA_d, encLA_a7, encLA_b7, encLA_f4, encLA_comb, encLA_cbit, dec10, srcOf_enc, ok_bind, pure_ok, guardD, hw]

theorem max (d a b) : Statement (.max d a b) := by
  intro hw _
  replace hw : (a.ok .i && b.ok .i) = true := hw
  simp only [Bool.and_eq_true] at hw
  change decode (encLA 0x10 d a.enc b.enc 13) = _
  rw [decode_L _ (encLA_uset ..), decodeL_10 (encLA 0x10 d a.enc b.enc 13) (encLA_major ..)]
  simp [encLA_d, encLA_a7, encLA_b7, encLA_f4, encLA_comb, encLA_cbit, dec10, srcOf_enc, ok_bind, pure_ok, guardD, hw]

theorem minu (d a b) : Statement (.minu d a b) := by
  intro hw _
  replace hw : (a.ok .i && b.ok .i) = true := hw
  simp only [Bool.and_eq_true] at hw
  change decode (encLA 0x10 d a.enc b.enc 14) = _
  rw [decode_L _ (encLA_uset ..), decodeL_10 (encLA 0x10 d a.enc b.enc 14) (encLA_major ..)]
  simp [encLA_d, encLA_a7, encLA_b7, encLA_f4, encLA_comb, encLA_cbit, dec10, srcOf_enc, ok_bind, pure_ok, guardD, hw]

theorem maxu (d a b) : Statement (.maxu d a b) := by
  intro hw _
  replace hw : (a.ok .i && b.ok .i) = true := hw
  simp only [Bool.and_eq_true] at hw
  change decode (encLA 0x10 d a.enc b.enc 15) = _
  rw [decode_L _ (encLA_uset ..), decodeL_10 (encLA 0x10 d a.enc b.enc 15) (encLA_major ..)]
  simp [encLA_d, encLA_a7, encLA_b7, encLA_f4, encLA_comb, encLA_cbit, dec10, srcOf_enc, ok_bind, pure_ok, guardD, hw]

theorem mul (d a b) : Statement (.mul d a b) := by
  intro hw _
  replace hw : (a.ok .i && b.ok .i) = true := hw
  simp only [Bool.and_eq_true] at hw
  change decode (encLA 0x11 d a.enc b.enc 0) = _
  rw [decode_L _ (encLA_uset ..), decodeL_11 (encLA 0x11 d a.enc b.enc 0) (encLA_major ..)]
  simp [encLA_d, encLA_a7, encLA_b7, encLA_f4, encLA_comb, encLA_cbit, dec11, srcOf_enc, ok_bind, pure_ok, guardD, hw]

theorem mulh (d a b) : Statement (.mulh d a b) := by
  intro hw _
  replace hw : (a.ok .i && b.ok .i) = true := hw
  simp only [Bool.and_eq_true] at hw
  change decode (encLA 0x11 d a.enc b.enc 1) = _
  rw [decode_L _ (encLA_uset ..), decodeL_11 (encLA 0x11 d a.enc b.enc 1) (encLA_major ..)]
  simp [encLA_d, encLA_a7, encLA_b7, encLA_f4, encLA_comb, encLA_cbit, dec11, srcOf_enc, ok_bind, pure_ok, guardD, hw]

theorem mulhu (d a b) : Statement (.mulhu d a b) := by
  intro hw _
  replace hw : (a.ok .i && b.ok .i) = true := hw
  simp only [Bool.and_eq_true] at hw
  change decode (encLA 0x11 d a.enc b.enc 2) = _
  rw [decode_L _ (encLA_uset ..), decodeL_11 (encLA 0x11 d a.enc b.enc 2) (encLA_major ..)]
  simp [encLA_d, encLA_a7, encLA_b7, encLA_f4, encLA_comb, encLA_cbit, dec11, srcOf_enc, ok_bind, pure_ok, guardD, hw]

theorem divs (d a b) : Statement (.divs d a b) := by
  intro hw _
  replace hw : (a.ok .i && b.ok .i) = true := hw
  simp only [Bool.and_eq_true] at hw
  change decode (encLA 0x11 d a.enc b.enc 3) = _
  rw [decode_L _ (encLA_uset ..), decodeL_11 (encLA 0x11 d a.enc b.enc 3) (encLA_major ..)]
  simp [encLA_d, encLA_a7, encLA_b7, encLA_f4, encLA_comb, encLA_cbit, dec11, srcOf_enc, ok_bind, pure_ok, guardD, hw]

theorem divu (d a b) : Statement (.divu d a b) := by
  intro hw _
  replace hw : (a.ok .i && b.ok .i) = true := hw
  simp only [Bool.and_eq_true] at hw
  change decode (encLA 0x11 d a.enc b.enc 4) = _
  rw [decode_L _ (encLA_uset ..), decodeL_11 (encLA 0x11 d a.enc b.enc 4) (encLA_major ..)]
  simp [encLA_d, encLA_a7, encLA_b7, encLA_f4, encLA_comb, encLA_cbit, dec11, srcOf_enc, ok_bind, pure_ok, guardD, hw]

theorem rems (d a b) : Statement (.rems d a b) := by
  intro hw _
  replace hw : (a.ok .i && b.ok .i) = true := hw
  simp only [Bool.and_eq_true] at hw
  change decode (encLA 0x11 d a.enc b.enc 5) = _
  rw [decode_L _ (encLA_uset ..), decodeL_11 (encLA 0x11 d a.enc b.enc 5) (encLA_major ..)]
  simp [encLA_d, encLA_a7, encLA_b7, encLA_f4, encLA_comb, encLA_cbit, dec11, srcOf_enc, ok_bind, pure_ok, guardD, hw]

theorem remu (d a b) : Statement (.remu d a b) := by
  intro hw _
  replace hw : (a.ok .i && b.ok .i) = true := hw
  simp only [Bool.and_eq_true] at hw
  change decode (encLA 0x11 d a.enc b.enc 6) = _
  rw [decode_L _ (encLA_uset ..), decodeL_11 (encLA 0x11 d a.enc b.enc 6) (encLA_major ..)]
  simp [encLA_d, encLA_a7, encLA_b7, encLA_f4, encLA_comb, encLA_cbit, dec11, srcOf_enc, ok_bind, pure_ok, guardD, hw]

theorem addw (d a b) : Statement (.addw d a b) := by
  intro hw _
  replace hw : (d.even && a.ok .l && b.ok .l) = true := hw
  simp only [Bool.and_eq_true] at hw
  change decode (encLA 0x11 d a.enc b.enc 7) = _
  rw [decode_L _ (encLA_uset ..), decodeL_11 (encLA 0x11 d a.enc b.enc 7) (encLA_major ..)]
  simp [encLA_d, encLA_a7, encLA_b7, encLA_f4, encLA_comb, encLA_cbit, dec11, srcOf_enc, ok_bind, pure_ok, guardD, hw]

theorem subw (d a b) : Statement (.subw d a b) := by
  intro hw _
  replace hw : (d.even && a.ok .l && b.ok .l) = true := hw
  simp only [Bool.and_eq_true] at hw
  change decode (encLA 0x11 d a.enc b.enc 8) = _
  rw [decode_L _ (encLA_uset ..), decodeL_11 (encLA 0x11 d a.enc b.enc 8) (encLA_major ..)]
  simp [encLA_d, encLA_a7, encLA_b7, encLA_f4, encLA_comb, encLA_cbit, dec11, srcOf_enc, ok_bind, pure_ok, guardD, hw]

theorem shlw (d a b) : Statement (.shlw d a b) := by
  intro hw _
  replace hw : (d.even && a.ok .l && b.ok .i) = true := hw
  simp only [Bool.and_eq_true] at hw
  change decode (encLA 0x11 d a.enc b.enc 9) = _
  rw [decode_L _ (encLA_uset ..), decodeL_11 (encLA 0x11 d a.enc b.enc 9) (encLA_major ..)]
  simp [encLA_d, encLA_a7, encLA_b7, encLA_f4, encLA_comb, encLA_cbit, dec11, srcOf_enc, ok_bind, pure_ok, guardD, hw]

theorem shrw (d a b) : Statement (.shrw d a b) := by
  intro hw _
  replace hw : (d.even && a.ok .l && b.ok .i) = true := hw
  simp only [Bool.and_eq_true] at hw
  change decode (encLA 0x11 d a.enc b.enc 10) = _
  rw [decode_L _ (encLA_uset ..), decodeL_11 (encLA 0x11 d a.enc b.enc 10) (encLA_major ..)]
  simp [encLA_d, encLA_a7, encLA_b7, encLA_f4, encLA_comb, encLA_cbit, dec11, srcOf_enc, ok_bind, pure_ok, guardD, hw]

theorem bprm (d a b) : Statement (.bprm d a b) := by
  intro hw _
  replace hw : (a.ok .i && b.ok .i) = true := hw
  simp only [Bool.and_eq_true] at hw
  change decode (encLA 0x11 d a.enc b.enc 11) = _
  rw [decode_L _ (encLA_uset ..), decodeL_11 (encLA 0x11 d a.enc b.enc 11) (encLA_major ..)]
  simp [encLA_d, encLA_a7, encLA_b7, encLA_f4, encLA_comb, encLA_cbit, dec11, srcOf_enc, ok_bind, pure_ok, guardD, hw]

theorem lea (d a b s) : Statement (.lea d a b s) := by
  intro hw _
  replace hw : (a.ok .i && b.ok .i) = true := hw
  simp only [Bool.and_eq_true] at hw
  change decode (encLA 0x11 d a.enc b.enc (3#2 ++ s)) = _
  rw [decode_L _ (encLA_uset ..), decodeL_11 (encLA 0x11 d a.enc b.enc (3#2 ++ s)) (encLA_major ..)]
  obtain rfl | rfl | rfl | rfl := two_cases s
  all_goals try simp [encLA_d, encLA_a7, encLA_b7, encLA_f4, encLA_comb, encLA_cbit, dec11, srcOf_enc, ok_bind, pure_ok, guardD, hw]

theorem neg (d a) : Statement (.neg d a) := by
  intro hw _
  replace hw : (a.ok .i) = true := hw
  change decode (encLA 0x12 d a.enc 0 0) = _
  rw [decode_L _ (encLA_uset ..), decodeL_12 (encLA 0x12 d a.enc 0 0) (encLA_major ..)]
  simp [encLA_d, encLA_a7, encLA_b7, encLA_f4, encLA_comb, encLA_cbit, dec12, srcOf_enc, ok_bind, pure_ok, guardD, hw]

theorem abs (d a) : Statement (.abs d a) := by
  intro hw _
  replace hw : (a.ok .i) = true := hw
  change decode (encLA 0x12 d a.enc 0 1) = _
  rw [decode_L _ (encLA_uset ..), decodeL_12 (encLA 0x12 d a.enc 0 1) (encLA_major ..)]
  simp [encLA_d, encLA_a7, encLA_b7, encLA_f4, encLA_comb, encLA_cbit, dec12, srcOf_enc, ok_bind, pure_ok, guardD, hw]

theorem not (d a) : Statement (.not d a) := by
  intro hw _
  replace hw : (a.ok .i) = true := hw
  change decode (encLA 0x12 d a.enc 0 2) = _
  rw [decode_L _ (encLA_uset ..), decodeL_12 (encLA 0x12 d a.enc 0 2) (encLA_major ..)]
  simp [encLA_d, encLA_a7, encLA_b7, encLA_f4, encLA_comb, encLA_cbit, dec12, srcOf_enc, ok_bind, pure_ok, guardD, hw]

theorem clz (d a) : Statement (.clz d a) := by
  intro hw _
  replace hw : (a.ok .i) = true := hw
  change decode (encLA 0x12 d a.enc 0 3) = _
  rw [decode_L _ (encLA_uset ..), decodeL_12 (encLA 0x12 d a.enc 0 3) (encLA_major ..)]
  simp [encLA_d, encLA_a7, encLA_b7, encLA_f4, encLA_comb, encLA_cbit, dec12, srcOf_enc, ok_bind, pure_ok, guardD, hw]

theorem ctz (d a) : Statement (.ctz d a) := by
  intro hw _
  replace hw : (a.ok .i) = true := hw
  change decode (encLA 0x12 d a.enc 0 4) = _
  rw [decode_L _ (encLA_uset ..), decodeL_12 (encLA 0x12 d a.enc 0 4) (encLA_major ..)]
  simp [encLA_d, encLA_a7, encLA_b7, encLA_f4, encLA_comb, encLA_cbit, dec12, srcOf_enc, ok_bind, pure_ok, guardD, hw]

theorem popc (d a) : Statement (.popc d a) := by
  intro hw _
  replace hw : (a.ok .i) = true := hw
  change decode (encLA 0x12 d a.enc 0 5) = _
  rw [decode_L _ (encLA_uset ..), decodeL_12 (encLA 0x12 d a.enc 0 5) (encLA_major ..)]
  simp [encLA_d, encLA_a7, encLA_b7, encLA_f4, encLA_comb, encLA_cbit, dec12, srcOf_enc, ok_bind, pure_ok, guardD, hw]

theorem brev (d a) : Statement (.brev d a) := by
  intro hw _
  replace hw : (a.ok .i) = true := hw
  change decode (encLA 0x12 d a.enc 0 6) = _
  rw [decode_L _ (encLA_uset ..), decodeL_12 (encLA 0x12 d a.enc 0 6) (encLA_major ..)]
  simp [encLA_d, encLA_a7, encLA_b7, encLA_f4, encLA_comb, encLA_cbit, dec12, srcOf_enc, ok_bind, pure_ok, guardD, hw]

theorem mov (d a) : Statement (.mov d a) := by
  intro hw _
  replace hw : (a.ok .i) = true := hw
  change decode (encLA 0x12 d a.enc 0 7) = _
  rw [decode_L _ (encLA_uset ..), decodeL_12 (encLA 0x12 d a.enc 0 7) (encLA_major ..)]
  simp [encLA_d, encLA_a7, encLA_b7, encLA_f4, encLA_comb, encLA_cbit, dec12, srcOf_enc, ok_bind, pure_ok, guardD, hw]

theorem icmp (cc cm k a b) : Statement (.icmp cc cm k a b) := by
  intro hw _
  replace hw : (a.ok .i && b.ok .i) = true := hw
  simp only [Bool.and_eq_true] at hw
  change decode (encLA 0x13 (BitVec.ofNat 3 cm.code ++ k) a.enc b.enc (BitVec.ofNat 4 cc.code)) = _
  rw [decode_L _ (encLA_uset ..), decodeL_13 (encLA 0x13 (BitVec.ofNat 3 cm.code ++ k) a.enc b.enc (BitVec.ofNat 4 cc.code)) (encLA_major ..)]
  simp [encLA_d, encLA_a7, encLA_b7, encLA_f4, encLA_comb, encLA_cbit, srcOf_enc, ok_bind, pure_ok, guardD, hw, Cc_code, Comb_code, named_some, Cc_code', Comb_code']

theorem sel (d a b k inv) : Statement (.sel d a b k inv) := by
  intro hw _
  replace hw : (a.ok .i && b.ok .i) = true := hw
  simp only [Bool.and_eq_true] at hw
  change decode (encLA 0x14 d a.enc b.enc (bit1 inv ++ k)) = _
  rw [decode_L _ (encLA_uset ..), decodeL_14 (encLA 0x14 d a.enc b.enc (bit1 inv ++ k)) (encLA_major ..)]
  simp (disch := decide) only [encLA_d, encLA_a7, encLA_b7, encLA_f4, encLA_comb, encLA_cbit, extract_above, extract_below, extract_whole, Nat.reduceSub, ok_bind, bit1_eq, bit1_eq']
  simp [encLA_d, encLA_a7, encLA_b7, encLA_f4, encLA_comb, encLA_cbit, srcOf_enc, ok_bind, pure_ok, guardD, hw, bit1_eq, bit1_eq']

theorem bfx (x y z n s) : Statement (.bfx x y z n s) := by
  intro hw _
  change decode (encLX 0x15 x y z (bit1 s ++ n)) = _
  rw [decode_L _ (encLX_uset ..), decodeL_15 (encLX 0x15 x y z (bit1 s ++ n)) (encLX_major ..)]
  simp (disch := decide) only [encLX_d, encLX_y, encLX_z, encLX_f6, extract_above, extract_below, extract_whole, Nat.reduceSub, ok_bind, bit1_eq, bit1_eq']

theorem bfi (x y z n) : Statement (.bfi x y z n) := by
  intro hw _
  change decode (encLX 0x16 x y z (0#1 ++ n)) = _
  rw [decode_L _ (encLX_uset ..), decodeL_16 (encLX 0x16 x y z (0#1 ++ n)) (encLX_major ..)]
  simp (disch := decide) only [encLX_d, encLX_y, encLX_z, encLX_f6, extract_above, extract_below, extract_whole, Nat.reduceSub, ok_bind]
  simp [encLX_d, encLX_y, encLX_z, encLX_f6, srcOf_enc, ok_bind, pure_ok, guardD]

theorem mad (d a b c) : Statement (.mad d a b c) := by
  intro hw _
  change decode (encLX 0x17 d a b c) = _
  rw [decode_L _ (encLX_uset ..), decodeL_17 (encLX 0x17 d a b c) (encLX_major ..)]
  simp [encLX_d, encLX_y, encLX_z, encLX_f6, srcOf_enc, ok_bind, pure_ok, guardD]

theorem icmpi (cc k a imm) : Statement (.icmpi cc k a imm) := by
  intro hw _
  replace hw : (a.ok .i) = true := hw
  change decode (encLI 0x18 (BitVec.ofNat 3 cc.code ++ k) a.enc imm) = _
  rw [decode_L _ (encLI_uset ..), decodeL_18 (encLI 0x18 (BitVec.ofNat 3 cc.code ++ k) a.enc imm) (encLI_major ..)]
  simp [encLI_d, encLI_a7, encLI_imm11, encLI_imm5, encLI_comb, encLI_cbit, srcOf_enc, ok_bind, pure_ok, guardD, hw, CcImm_code, named_some, CcImm_code']

theorem addi (d a imm) : Statement (.addi d a imm) := by
  intro hw _
  replace hw : (a.ok .i) = true := hw
  change decode (encLI 0x20 d a.enc imm) = _
  rw [decode_L _ (encLI_uset ..), decodeL_20 (encLI 0x20 d a.enc imm) (encLI_major ..)]
  simp [encLI_d, encLI_a7, encLI_imm11, encLI_imm5, encLI_comb, encLI_cbit, srcOf_enc, ok_bind, pure_ok, guardD, hw]

theorem andi (d a imm) : Statement (.andi d a imm) := by
  intro hw _
  replace hw : (a.ok .i) = true := hw
  change decode (encLI 0x21 d a.enc imm) = _
  rw [decode_L _ (encLI_uset ..), decodeL_21 (encLI 0x21 d a.enc imm) (encLI_major ..)]
  simp [encLI_d, encLI_a7, encLI_imm11, encLI_imm5, encLI_comb, encLI_cbit, srcOf_enc, ok_bind, pure_ok, guardD, hw]

theorem ori (d a imm) : Statement (.ori d a imm) := by
  intro hw _
  replace hw : (a.ok .i) = true := hw
  change decode (encLI 0x22 d a.enc imm) = _
  rw [decode_L _ (encLI_uset ..), decodeL_22 (encLI 0x22 d a.enc imm) (encLI_major ..)]
  simp [encLI_d, encLI_a7, encLI_imm11, encLI_imm5, encLI_comb, encLI_cbit, srcOf_enc, ok_bind, pure_ok, guardD, hw]

theorem xori (d a imm) : Statement (.xori d a imm) := by
  intro hw _
  replace hw : (a.ok .i) = true := hw
  change decode (encLI 0x23 d a.enc imm) = _
  rw [decode_L _ (encLI_uset ..), decodeL_23 (encLI 0x23 d a.enc imm) (encLI_major ..)]
  simp [encLI_d, encLI_a7, encLI_imm11, encLI_imm5, encLI_comb, encLI_cbit, srcOf_enc, ok_bind, pure_ok, guardD, hw]

theorem shli (d a n) : Statement (.shli d a n) := by
  intro hw _
  replace hw : (a.ok .i) = true := hw
  change decode (encLI 0x24 d a.enc (0#6 ++ n)) = _
  rw [decode_L _ (encLI_uset ..), decodeL_24 (encLI 0x24 d a.enc (0#6 ++ n)) (encLI_major ..)]
  simp (disch := decide) only [encLI_d, encLI_a7, encLI_imm11, encLI_imm5, encLI_comb, encLI_cbit, extract_above, extract_below, extract_whole, Nat.reduceSub, ok_bind]
  simp [encLI_d, encLI_a7, encLI_imm11, encLI_imm5, encLI_comb, encLI_cbit, srcOf_enc, ok_bind, pure_ok, guardD, hw]

theorem shri (d a n) : Statement (.shri d a n) := by
  intro hw _
  replace hw : (a.ok .i) = true := hw
  change decode (encLI 0x25 d a.enc (0#6 ++ n)) = _
  rw [decode_L _ (encLI_uset ..), decodeL_25 (encLI 0x25 d a.enc (0#6 ++ n)) (encLI_major ..)]
  simp (disch := decide) only [encLI_d, encLI_a7, encLI_imm11, encLI_imm5, encLI_comb, encLI_cbit, extract_above, extract_below, extract_whole, Nat.reduceSub, ok_bind]
  simp [encLI_d, encLI_a7, encLI_imm11, encLI_imm5, encLI_comb, encLI_cbit, srcOf_enc, ok_bind, pure_ok, guardD, hw]

theorem sari (d a n) : Statement (.sari d a n) := by
  intro hw _
  replace hw : (a.ok .i) = true := hw
  change decode (encLI 0x26 d a.enc (0#6 ++ n)) = _
  rw [decode_L _ (encLI_uset ..), decodeL_26 (encLI 0x26 d a.enc (0#6 ++ n)) (encLI_major ..)]
  simp (disch := decide) only [encLI_d, encLI_a7, encLI_imm11, encLI_imm5, encLI_comb, encLI_cbit, extract_above, extract_below, extract_whole, Nat.reduceSub, ok_bind]
  simp [encLI_d, encLI_a7, encLI_imm11, encLI_imm5, encLI_comb, encLI_cbit, srcOf_enc, ok_bind, pure_ok, guardD, hw]

theorem moviLo (d imm) : Statement (.moviLo d imm) := by
  intro hw _
  change decode (encLK 0x28 d 0 imm) = _
  rw [decode_L _ (encLK_uset ..), decodeL_28 (encLK 0x28 d 0 imm) (encLK_major ..)]
  simp [encLK_d, encLK_k2, encLK_imm16, srcOf_enc, ok_bind, pure_ok, guardD]

theorem moviSx (d imm) : Statement (.moviSx d imm) := by
  intro hw _
  change decode (encLK 0x28 d 1 imm) = _
  rw [decode_L _ (encLK_uset ..), decodeL_28 (encLK 0x28 d 1 imm) (encLK_major ..)]
  simp [encLK_d, encLK_k2, encLK_imm16, srcOf_enc, ok_bind, pure_ok, guardD]

theorem moviHi (d imm) : Statement (.moviHi d imm) := by
  intro hw _
  change decode (encLK 0x28 d 2 imm) = _
  rw [decode_L _ (encLK_uset ..), decodeL_28 (encLK 0x28 d 2 imm) (encLK_major ..)]
  simp [encLK_d, encLK_k2, encLK_imm16, srcOf_enc, ok_bind, pure_ok, guardD]

theorem fadd (rm d a b) : Statement (.fadd rm d a b) := by
  intro hw _
  replace hw : (a.ok .f && b.ok .f) = true := hw
  simp only [Bool.and_eq_true] at hw
  change decode (encLA 0x30 d a.enc b.enc (0#2 ++ BitVec.ofNat 2 rm.code)) = _
  rw [decode_L _ (encLA_uset ..), decodeL_30 (encLA 0x30 d a.enc b.enc (0#2 ++ BitVec.ofNat 2 rm.code)) (encLA_major ..)]
  cases rm
  all_goals try simp [encLA_d, encLA_a7, encLA_b7, encLA_f4, encLA_comb, encLA_cbit, dec30, srcOf_enc, ok_bind, pure_ok, guardD, hw, Rm_code, named_some, Rm_code', zl_toNat_4_2, zl_setWidth_4_2, zl_toNat_2_4, zl_setWidth_2_4, zl_toNat_1_6, zl_setWidth_1_6, zl_toNat_1_5, zl_setWidth_1_5, zl_toNat_3_3, zl_setWidth_3_3]
  all_goals rfl

theorem fsub (rm d a b) : Statement (.fsub rm d a b) := by
  intro hw _
  replace hw : (a.ok .f && b.ok .f) = true := hw
  simp only [Bool.and_eq_true] at hw
  change decode (encLA 0x30 d a.enc b.enc (1#2 ++ BitVec.ofNat 2 rm.code)) = _
  rw [decode_L _ (encLA_uset ..), decodeL_30 (encLA 0x30 d a.enc b.enc (1#2 ++ BitVec.ofNat 2 rm.code)) (encLA_major ..)]
  cases rm
  all_goals try simp [encLA_d, encLA_a7, encLA_b7, encLA_f4, encLA_comb, encLA_cbit, dec30, srcOf_enc, ok_bind, pure_ok, guardD, hw, Rm_code, named_some, Rm_code', zl_toNat_4_2, zl_setWidth_4_2, zl_toNat_2_4, zl_setWidth_2_4, zl_toNat_1_6, zl_setWidth_1_6, zl_toNat_1_5, zl_setWidth_1_5, zl_toNat_3_3, zl_setWidth_3_3]
  all_goals rfl

theorem fmul (rm d a b) : Statement (.fmul rm d a b) := by
  intro hw _
  replace hw : (a.ok .f && b.ok .f) = true := hw
  simp only [Bool.and_eq_true] at hw
  change decode (encLA 0x30 d a.enc b.enc (2#2 ++ BitVec.ofNat 2 rm.code)) = _
  rw [decode_L _ (encLA_uset ..), decodeL_30 (encLA 0x30 d a.enc b.enc (2#2 ++ BitVec.ofNat 2 rm.code)) (encLA_major ..)]
  cases rm
  all_goals try simp [encLA_d, encLA_a7, encLA_b7, encLA_f4, encLA_comb, encLA_cbit, dec30, srcOf_enc, ok_bind, pure_ok, guardD, hw, Rm_code, named_some, Rm_code', zl_toNat_4_2, zl_setWidth_4_2, zl_toNat_2_4, zl_setWidth_2_4, zl_toNat_1_6, zl_setWidth_1_6, zl_toNat_1_5, zl_setWidth_1_5, zl_toNat_3_3, zl_setWidth_3_3]
  all_goals rfl

theorem fdiv (rm d a b) : Statement (.fdiv rm d a b) := by
  intro hw _
  replace hw : (a.ok .f && b.ok .f) = true := hw
  simp only [Bool.and_eq_true] at hw
  change decode (encLA 0x30 d a.enc b.enc (3#2 ++ BitVec.ofNat 2 rm.code)) = _
  rw [decode_L _ (encLA_uset ..), decodeL_30 (encLA 0x30 d a.enc b.enc (3#2 ++ BitVec.ofNat 2 rm.code)) (encLA_major ..)]
  cases rm
  all_goals try simp [encLA_d, encLA_a7, encLA_b7, encLA_f4, encLA_comb, encLA_cbit, dec30, srcOf_enc, ok_bind, pure_ok, guardD, hw, Rm_code, named_some, Rm_code', zl_toNat_4_2, zl_setWidth_4_2, zl_toNat_2_4, zl_setWidth_2_4, zl_toNat_1_6, zl_setWidth_1_6, zl_toNat_1_5, zl_setWidth_1_5, zl_toNat_3_3, zl_setWidth_3_3]
  all_goals rfl

theorem fmin (d a b) : Statement (.fmin d a b) := by
  intro hw _
  replace hw : (a.ok .f && b.ok .f) = true := hw
  simp only [Bool.and_eq_true] at hw
  change decode (encLA 0x31 d a.enc b.enc 0) = _
  rw [decode_L _ (encLA_uset ..), decodeL_31 (encLA 0x31 d a.enc b.enc 0) (encLA_major ..)]
  simp [encLA_d, encLA_a7, encLA_b7, encLA_f4, encLA_comb, encLA_cbit, dec31, srcOf_enc, ok_bind, pure_ok, guardD, hw]

theorem fmax (d a b) : Statement (.fmax d a b) := by
  intro hw _
  replace hw : (a.ok .f && b.ok .f) = true := hw
  simp only [Bool.and_eq_true] at hw
  change decode (encLA 0x31 d a.enc b.enc 1) = _
  rw [decode_L _ (encLA_uset ..), decodeL_31 (encLA 0x31 d a.enc b.enc 1) (encLA_major ..)]
  simp [encLA_d, encLA_a7, encLA_b7, encLA_f4, encLA_comb, encLA_cbit, dec31, srcOf_enc, ok_bind, pure_ok, guardD, hw]

theorem fcls (d a) : Statement (.fcls d a) := by
  intro hw _
  replace hw : (a.ok .f) = true := hw
  change decode (encLA 0x31 d a.enc 0 2) = _
  rw [decode_L _ (encLA_uset ..), decodeL_31 (encLA 0x31 d a.enc 0 2) (encLA_major ..)]
  simp [encLA_d, encLA_a7, encLA_b7, encLA_f4, encLA_comb, encLA_cbit, dec31, srcOf_enc, ok_bind, pure_ok, guardD, hw]

theorem frnd (rm d a) : Statement (.frnd rm d a) := by
  intro hw _
  replace hw : (a.ok .f) = true := hw
  change decode (encLA 0x31 d a.enc 0 (1#2 ++ BitVec.ofNat 2 rm.code)) = _
  rw [decode_L _ (encLA_uset ..), decodeL_31 (encLA 0x31 d a.enc 0 (1#2 ++ BitVec.ofNat 2 rm.code)) (encLA_major ..)]
  cases rm
  all_goals try simp [encLA_d, encLA_a7, encLA_b7, encLA_f4, encLA_comb, encLA_cbit, dec31, srcOf_enc, ok_bind, pure_ok, guardD, hw, zl_toNat_4_2, zl_setWidth_4_2, zl_toNat_2_4, zl_setWidth_2_4, zl_toNat_1_6, zl_setWidth_1_6, zl_toNat_1_5, zl_setWidth_1_5, zl_toNat_3_3, zl_setWidth_3_3]
  all_goals rfl

theorem fcmp (p cm k a b) : Statement (.fcmp p cm k a b) := by
  intro hw _
  replace hw : (a.ok .f && b.ok .f) = true := hw
  simp only [Bool.and_eq_true] at hw
  change decode (encLA 0x32 (BitVec.ofNat 3 cm.code ++ k) a.enc b.enc (BitVec.ofNat 4 p.code)) = _
  rw [decode_L _ (encLA_uset ..), decodeL_32 (encLA 0x32 (BitVec.ofNat 3 cm.code ++ k) a.enc b.enc (BitVec.ofNat 4 p.code)) (encLA_major ..)]
  simp [encLA_d, encLA_a7, encLA_b7, encLA_f4, encLA_comb, encLA_cbit, srcOf_enc, ok_bind, pure_ok, guardD, hw, FPred_code, Comb_code, named_some, FPred_code', Comb_code']

theorem frcp (d a) : Statement (.frcp d a) := by
  intro hw _
  replace hw : (a.ok .f) = true := hw
  change decode (encLA 0x33 d a.enc 0 0) = _
  rw [decode_L _ (encLA_uset ..), decodeL_33 (encLA 0x33 d a.enc 0 0) (encLA_major ..)]
  simp [encLA_d, encLA_a7, encLA_b7, encLA_f4, encLA_comb, encLA_cbit, dec33, srcOf_enc, ok_bind, pure_ok, guardD, hw]

theorem frsq (d a) : Statement (.frsq d a) := by
  intro hw _
  replace hw : (a.ok .f) = true := hw
  change decode (encLA 0x33 d a.enc 0 1) = _
  rw [decode_L _ (encLA_uset ..), decodeL_33 (encLA 0x33 d a.enc 0 1) (encLA_major ..)]
  simp [encLA_d, encLA_a7, encLA_b7, encLA_f4, encLA_comb, encLA_cbit, dec33, srcOf_enc, ok_bind, pure_ok, guardD, hw]

theorem fsqt (d a) : Statement (.fsqt d a) := by
  intro hw _
  replace hw : (a.ok .f) = true := hw
  change decode (encLA 0x33 d a.enc 0 2) = _
  rw [decode_L _ (encLA_uset ..), decodeL_33 (encLA 0x33 d a.enc 0 2) (encLA_major ..)]
  simp [encLA_d, encLA_a7, encLA_b7, encLA_f4, encLA_comb, encLA_cbit, dec33, srcOf_enc, ok_bind, pure_ok, guardD, hw]

theorem fexp (d a) : Statement (.fexp d a) := by
  intro hw _
  replace hw : (a.ok .f) = true := hw
  change decode (encLA 0x33 d a.enc 0 3) = _
  rw [decode_L _ (encLA_uset ..), decodeL_33 (encLA 0x33 d a.enc 0 3) (encLA_major ..)]
  simp [encLA_d, encLA_a7, encLA_b7, encLA_f4, encLA_comb, encLA_cbit, dec33, srcOf_enc, ok_bind, pure_ok, guardD, hw]

theorem flog (d a) : Statement (.flog d a) := by
  intro hw _
  replace hw : (a.ok .f) = true := hw
  change decode (encLA 0x33 d a.enc 0 4) = _
  rw [decode_L _ (encLA_uset ..), decodeL_33 (encLA 0x33 d a.enc 0 4) (encLA_major ..)]
  simp [encLA_d, encLA_a7, encLA_b7, encLA_f4, encLA_comb, encLA_cbit, dec33, srcOf_enc, ok_bind, pure_ok, guardD, hw]

theorem fspi (d a) : Statement (.fspi d a) := by
  intro hw _
  replace hw : (a.ok .f) = true := hw
  change decode (encLA 0x33 d a.enc 0 5) = _
  rw [decode_L _ (encLA_uset ..), decodeL_33 (encLA 0x33 d a.enc 0 5) (encLA_major ..)]
  simp [encLA_d, encLA_a7, encLA_b7, encLA_f4, encLA_comb, encLA_cbit, dec33, srcOf_enc, ok_bind, pure_ok, guardD, hw]

theorem fcpi (d a) : Statement (.fcpi d a) := by
  intro hw _
  replace hw : (a.ok .f) = true := hw
  change decode (encLA 0x33 d a.enc 0 6) = _
  rw [decode_L _ (encLA_uset ..), decodeL_33 (encLA 0x33 d a.enc 0 6) (encLA_major ..)]
  simp [encLA_d, encLA_a7, encLA_b7, encLA_f4, encLA_comb, encLA_cbit, dec33, srcOf_enc, ok_bind, pure_ok, guardD, hw]

theorem ffma (d a b c) : Statement (.ffma d a b c) := by
  intro hw _
  change decode (encLX 0x34 d a b c) = _
  rw [decode_L _ (encLX_uset ..), decodeL_34 (encLX 0x34 d a b c) (encLX_major ..)]
  simp [encLX_d, encLX_y, encLX_z, encLX_f6, srcOf_enc, ok_bind, pure_ok, guardD]

theorem hadd2 (h d a b) : Statement (.hadd2 h d a b) := by
  intro hw _
  replace hw : (a.ok .h && b.ok .h) = true := hw
  simp only [Bool.and_eq_true] at hw
  change decode (encLA 0x38 d a.enc b.enc (h.bit ++ 0#3)) = _
  rw [decode_L _ (encLA_uset ..), decodeL_38 (encLA 0x38 d a.enc b.enc (h.bit ++ 0#3)) (encLA_major ..)]
  cases h
  all_goals try simp [encLA_d, encLA_a7, encLA_b7, encLA_f4, encLA_comb, encLA_cbit, dec38, srcOf_enc, ok_bind, pure_ok, guardD, hw]
  all_goals rfl

theorem hsub2 (h d a b) : Statement (.hsub2 h d a b) := by
  intro hw _
  replace hw : (a.ok .h && b.ok .h) = true := hw
  simp only [Bool.and_eq_true] at hw
  change decode (encLA 0x38 d a.enc b.enc (h.bit ++ 1#3)) = _
  rw [decode_L _ (encLA_uset ..), decodeL_38 (encLA 0x38 d a.enc b.enc (h.bit ++ 1#3)) (encLA_major ..)]
  cases h
  all_goals try simp [encLA_d, encLA_a7, encLA_b7, encLA_f4, encLA_comb, encLA_cbit, dec38, srcOf_enc, ok_bind, pure_ok, guardD, hw]
  all_goals rfl

theorem hmul2 (h d a b) : Statement (.hmul2 h d a b) := by
  intro hw _
  replace hw : (a.ok .h && b.ok .h) = true := hw
  simp only [Bool.and_eq_true] at hw
  change decode (encLA 0x38 d a.enc b.enc (h.bit ++ 2#3)) = _
  rw [decode_L _ (encLA_uset ..), decodeL_38 (encLA 0x38 d a.enc b.enc (h.bit ++ 2#3)) (encLA_major ..)]
  cases h
  all_goals try simp [encLA_d, encLA_a7, encLA_b7, encLA_f4, encLA_comb, encLA_cbit, dec38, srcOf_enc, ok_bind, pure_ok, guardD, hw]
  all_goals rfl

theorem hmin2 (h d a b) : Statement (.hmin2 h d a b) := by
  intro hw _
  replace hw : (a.ok .h && b.ok .h) = true := hw
  simp only [Bool.and_eq_true] at hw
  change decode (encLA 0x38 d a.enc b.enc (h.bit ++ 3#3)) = _
  rw [decode_L _ (encLA_uset ..), decodeL_38 (encLA 0x38 d a.enc b.enc (h.bit ++ 3#3)) (encLA_major ..)]
  cases h
  all_goals try simp [encLA_d, encLA_a7, encLA_b7, encLA_f4, encLA_comb, encLA_cbit, dec38, srcOf_enc, ok_bind, pure_ok, guardD, hw]
  all_goals rfl

theorem hmax2 (h d a b) : Statement (.hmax2 h d a b) := by
  intro hw _
  replace hw : (a.ok .h && b.ok .h) = true := hw
  simp only [Bool.and_eq_true] at hw
  change decode (encLA 0x38 d a.enc b.enc (h.bit ++ 4#3)) = _
  rw [decode_L _ (encLA_uset ..), decodeL_38 (encLA 0x38 d a.enc b.enc (h.bit ++ 4#3)) (encLA_major ..)]
  cases h
  all_goals try simp [encLA_d, encLA_a7, encLA_b7, encLA_f4, encLA_comb, encLA_cbit, dec38, srcOf_enc, ok_bind, pure_ok, guardD, hw]
  all_goals rfl

theorem hfma2F16 (d a b c) : Statement (.hfma2F16 d a b c) := by
  intro hw _
  change decode (encLX 0x39 d a b c) = _
  rw [decode_L _ (encLX_uset ..), decodeL_39 (encLX 0x39 d a b c) (encLX_major ..)]
  simp [encLX_d, encLX_y, encLX_z, encLX_f6, srcOf_enc, ok_bind, pure_ok, guardD]

theorem hfma2Bf16 (d a b c) : Statement (.hfma2Bf16 d a b c) := by
  intro hw _
  change decode (encLX 0x3A d a b c) = _
  rw [decode_L _ (encLX_uset ..), decodeL_3A (encLX 0x3A d a b c) (encLX_major ..)]
  simp [encLX_d, encLX_y, encLX_z, encLX_f6, srcOf_enc, ok_bind, pure_ok, guardD]

theorem hcmp2 (p h cm k a b) : Statement (.hcmp2 p h cm k a b) := by
  intro hw _
  replace hw : (a.ok .h && b.ok .h) = true := hw
  simp only [Bool.and_eq_true] at hw
  change decode (encLA 0x3B (BitVec.ofNat 3 cm.code ++ k ++ 0#1) a.enc b.enc (h.bit ++ BitVec.ofNat 3 p.code)) = _
  rw [decode_L _ (encLA_uset ..), decodeL_3B (encLA 0x3B (BitVec.ofNat 3 cm.code ++ k ++ 0#1) a.enc b.enc (h.bit ++ BitVec.ofNat 3 p.code)) (encLA_major ..)]
  have hp : FPred.ofCode ((h.bit ++ BitVec.ofNat 3 p.code : BitVec (1 + 3)).toNat % 8) = some p := by cases h <;> cases p <;> rfl
  have hh : (if (h.bit ++ BitVec.ofNat 3 p.code : BitVec (1 + 3)).toNat / 8 = 1 then Half.bf16 else .fp16) = h := by
    cases h <;> cases p <;> rfl
  simp (disch := decide) only [encLA_comb_d, encLA_cbit_d, hcHigh, hcLow, kLow, encLA_a7, encLA_b7, encLA_f4, hp, hh, named_some, ok_bind]
  simp [srcOf_enc, ok_bind, pure_ok, guardD, hw, Comb_code', Comb_code, named_some]

theorem cadd (t d a b) : Statement (.cadd t d a b) := by
  intro hw _
  replace hw : (t.regOk d && a.ok t.kind && b.ok t.kind) = true := hw
  simp only [Bool.and_eq_true] at hw
  cases t
  · change decode (encLA 0x40 d a.enc b.enc 0) = _
    rw [decode_L _ (encLA_uset ..), decodeL_40 (encLA 0x40 d a.enc b.enc 0) (encLA_major ..)]
    simp [encLA_d, encLA_a7, encLA_b7, encLA_f4, encLA_comb, encLA_cbit, dec40, srcOf_enc, ok_bind, pure_ok, guardD, hw]
  · change decode (encLA 0x41 d a.enc b.enc 0) = _
    rw [decode_L _ (encLA_uset ..), decodeL_41 (encLA 0x41 d a.enc b.enc 0) (encLA_major ..)]
    simp [encLA_d, encLA_a7, encLA_b7, encLA_f4, encLA_comb, encLA_cbit, dec40, srcOf_enc, ok_bind, pure_ok, guardD, hw]
  · change decode (encLA 0x42 d a.enc b.enc 0) = _
    rw [decode_L _ (encLA_uset ..), decodeL_42 (encLA 0x42 d a.enc b.enc 0) (encLA_major ..)]
    simp [encLA_d, encLA_a7, encLA_b7, encLA_f4, encLA_comb, encLA_cbit, dec40, srcOf_enc, ok_bind, pure_ok, guardD, hw]

theorem csub (t d a b) : Statement (.csub t d a b) := by
  intro hw _
  replace hw : (t.regOk d && a.ok t.kind && b.ok t.kind) = true := hw
  simp only [Bool.and_eq_true] at hw
  cases t
  · change decode (encLA 0x40 d a.enc b.enc 1) = _
    rw [decode_L _ (encLA_uset ..), decodeL_40 (encLA 0x40 d a.enc b.enc 1) (encLA_major ..)]
    simp [encLA_d, encLA_a7, encLA_b7, encLA_f4, encLA_comb, encLA_cbit, dec40, srcOf_enc, ok_bind, pure_ok, guardD, hw]
  · change decode (encLA 0x41 d a.enc b.enc 1) = _
    rw [decode_L _ (encLA_uset ..), decodeL_41 (encLA 0x41 d a.enc b.enc 1) (encLA_major ..)]
    simp [encLA_d, encLA_a7, encLA_b7, encLA_f4, encLA_comb, encLA_cbit, dec40, srcOf_enc, ok_bind, pure_ok, guardD, hw]
  · change decode (encLA 0x42 d a.enc b.enc 1) = _
    rw [decode_L _ (encLA_uset ..), decodeL_42 (encLA 0x42 d a.enc b.enc 1) (encLA_major ..)]
    simp [encLA_d, encLA_a7, encLA_b7, encLA_f4, encLA_comb, encLA_cbit, dec40, srcOf_enc, ok_bind, pure_ok, guardD, hw]

theorem cmul (t d a b) : Statement (.cmul t d a b) := by
  intro hw _
  replace hw : (t.regOk d && a.ok t.kind && b.ok t.kind) = true := hw
  simp only [Bool.and_eq_true] at hw
  cases t
  · change decode (encLA 0x40 d a.enc b.enc 2) = _
    rw [decode_L _ (encLA_uset ..), decodeL_40 (encLA 0x40 d a.enc b.enc 2) (encLA_major ..)]
    simp [encLA_d, encLA_a7, encLA_b7, encLA_f4, encLA_comb, encLA_cbit, dec40, srcOf_enc, ok_bind, pure_ok, guardD, hw]
  · change decode (encLA 0x41 d a.enc b.enc 2) = _
    rw [decode_L _ (encLA_uset ..), decodeL_41 (encLA 0x41 d a.enc b.enc 2) (encLA_major ..)]
    simp [encLA_d, encLA_a7, encLA_b7, encLA_f4, encLA_comb, encLA_cbit, dec40, srcOf_enc, ok_bind, pure_ok, guardD, hw]
  · change decode (encLA 0x42 d a.enc b.enc 2) = _
    rw [decode_L _ (encLA_uset ..), decodeL_42 (encLA 0x42 d a.enc b.enc 2) (encLA_major ..)]
    simp [encLA_d, encLA_a7, encLA_b7, encLA_f4, encLA_comb, encLA_cbit, dec40, srcOf_enc, ok_bind, pure_ok, guardD, hw]

theorem cmag (t d a) : Statement (.cmag t d a) := by
  intro hw _
  replace hw : (t.regOk d && a.ok t.kind) = true := hw
  simp only [Bool.and_eq_true] at hw
  cases t
  · change decode (encLA 0x40 d a.enc 0 3) = _
    rw [decode_L _ (encLA_uset ..), decodeL_40 (encLA 0x40 d a.enc 0 3) (encLA_major ..)]
    simp [encLA_d, encLA_a7, encLA_b7, encLA_f4, encLA_comb, encLA_cbit, dec40, srcOf_enc, ok_bind, pure_ok, guardD, hw]
  · change decode (encLA 0x41 d a.enc 0 3) = _
    rw [decode_L _ (encLA_uset ..), decodeL_41 (encLA 0x41 d a.enc 0 3) (encLA_major ..)]
    simp [encLA_d, encLA_a7, encLA_b7, encLA_f4, encLA_comb, encLA_cbit, dec40, srcOf_enc, ok_bind, pure_ok, guardD, hw]
  · change decode (encLA 0x42 d a.enc 0 3) = _
    rw [decode_L _ (encLA_uset ..), decodeL_42 (encLA 0x42 d a.enc 0 3) (encLA_major ..)]
    simp [encLA_d, encLA_a7, encLA_b7, encLA_f4, encLA_comb, encLA_cbit, dec40, srcOf_enc, ok_bind, pure_ok, guardD, hw]

theorem carg (t d a) : Statement (.carg t d a) := by
  intro hw _
  replace hw : (t.regOk d && a.ok t.kind) = true := hw
  simp only [Bool.and_eq_true] at hw
  cases t
  · change decode (encLA 0x40 d a.enc 0 4) = _
    rw [decode_L _ (encLA_uset ..), decodeL_40 (encLA 0x40 d a.enc 0 4) (encLA_major ..)]
    simp [encLA_d, encLA_a7, encLA_b7, encLA_f4, encLA_comb, encLA_cbit, dec40, srcOf_enc, ok_bind, pure_ok, guardD, hw]
  · change decode (encLA 0x41 d a.enc 0 4) = _
    rw [decode_L _ (encLA_uset ..), decodeL_41 (encLA 0x41 d a.enc 0 4) (encLA_major ..)]
    simp [encLA_d, encLA_a7, encLA_b7, encLA_f4, encLA_comb, encLA_cbit, dec40, srcOf_enc, ok_bind, pure_ok, guardD, hw]
  · change decode (encLA 0x42 d a.enc 0 4) = _
    rw [decode_L _ (encLA_uset ..), decodeL_42 (encLA 0x42 d a.enc 0 4) (encLA_major ..)]
    simp [encLA_d, encLA_a7, encLA_b7, encLA_f4, encLA_comb, encLA_cbit, dec40, srcOf_enc, ok_bind, pure_ok, guardD, hw]

theorem cexi (t d a) : Statement (.cexi t d a) := by
  intro hw _
  replace hw : (t.regOk d && a.ok t.kind) = true := hw
  simp only [Bool.and_eq_true] at hw
  cases t
  · change decode (encLA 0x40 d a.enc 0 5) = _
    rw [decode_L _ (encLA_uset ..), decodeL_40 (encLA 0x40 d a.enc 0 5) (encLA_major ..)]
    simp [encLA_d, encLA_a7, encLA_b7, encLA_f4, encLA_comb, encLA_cbit, dec40, srcOf_enc, ok_bind, pure_ok, guardD, hw]
  · change decode (encLA 0x41 d a.enc 0 5) = _
    rw [decode_L _ (encLA_uset ..), decodeL_41 (encLA 0x41 d a.enc 0 5) (encLA_major ..)]
    simp [encLA_d, encLA_a7, encLA_b7, encLA_f4, encLA_comb, encLA_cbit, dec40, srcOf_enc, ok_bind, pure_ok, guardD, hw]
  · change decode (encLA 0x42 d a.enc 0 5) = _
    rw [decode_L _ (encLA_uset ..), decodeL_42 (encLA 0x42 d a.enc 0 5) (encLA_major ..)]
    simp [encLA_d, encLA_a7, encLA_b7, encLA_f4, encLA_comb, encLA_cbit, dec40, srcOf_enc, ok_bind, pure_ok, guardD, hw]

theorem crot (t d a b) : Statement (.crot t d a b) := by
  intro hw _
  replace hw : (t.regOk d && a.ok t.kind && b.ok t.kind) = true := hw
  simp only [Bool.and_eq_true] at hw
  cases t
  · change decode (encLA 0x40 d a.enc b.enc 6) = _
    rw [decode_L _ (encLA_uset ..), decodeL_40 (encLA 0x40 d a.enc b.enc 6) (encLA_major ..)]
    simp [encLA_d, encLA_a7, encLA_b7, encLA_f4, encLA_comb, encLA_cbit, dec40, srcOf_enc, ok_bind, pure_ok, guardD, hw]
  · change decode (encLA 0x41 d a.enc b.enc 6) = _
    rw [decode_L _ (encLA_uset ..), decodeL_41 (encLA 0x41 d a.enc b.enc 6) (encLA_major ..)]
    simp [encLA_d, encLA_a7, encLA_b7, encLA_f4, encLA_comb, encLA_cbit, dec40, srcOf_enc, ok_bind, pure_ok, guardD, hw]
  · change decode (encLA 0x42 d a.enc b.enc 6) = _
    rw [decode_L _ (encLA_uset ..), decodeL_42 (encLA 0x42 d a.enc b.enc 6) (encLA_major ..)]
    simp [encLA_d, encLA_a7, encLA_b7, encLA_f4, encLA_comb, encLA_cbit, dec40, srcOf_enc, ok_bind, pure_ok, guardD, hw]

theorem cfmaFp16 (d a b c) : Statement (.cfmaFp16 d a b c) := by
  intro hw _
  change decode (encLX 0x43 d a b c) = _
  rw [decode_L _ (encLX_uset ..), decodeL_43 (encLX 0x43 d a b c) (encLX_major ..)]
  simp [encLX_d, encLX_y, encLX_z, encLX_f6, srcOf_enc, ok_bind, pure_ok, guardD]

theorem cfmaBf16 (d a b c) : Statement (.cfmaBf16 d a b c) := by
  intro hw _
  change decode (encLX 0x44 d a b c) = _
  rw [decode_L _ (encLX_uset ..), decodeL_44 (encLX 0x44 d a b c) (encLX_major ..)]
  simp [encLX_d, encLX_y, encLX_z, encLX_f6, srcOf_enc, ok_bind, pure_ok, guardD]

theorem cfmaFp32 (d a b c) : Statement (.cfmaFp32 d a b c) := by
  intro hw _
  replace hw : (d.even && a.even && b.even && c.even) = true := hw
  simp only [Bool.and_eq_true] at hw
  change decode (encLX 0x45 d a b c) = _
  rw [decode_L _ (encLX_uset ..), decodeL_45 (encLX 0x45 d a b c) (encLX_major ..)]
  simp [encLX_d, encLX_y, encLX_z, encLX_f6, srcOf_enc, ok_bind, pure_ok, guardD, hw]

theorem twid (t inv d a n) : Statement (.twid t inv d a n) := by
  intro hw _
  replace hw : (t.regOk d && a.ok .i && 1 ≤ n.toNat && n.toNat ≤ 24) = true := hw
  simp only [Bool.and_eq_true] at hw
  change decode (encLI 0x46 d a.enc (0#3 ++ bit1 inv ++ BitVec.ofNat 2 t.code ++ n)) = _
  rw [decode_L _ (encLI_uset ..), decodeL_46 (encLI 0x46 d a.enc (0#3 ++ bit1 inv ++ BitVec.ofNat 2 t.code ++ n)) (encLI_major ..)]
  simp (disch := decide) only [encLI_d, encLI_a7, encLI_imm11, encLI_imm5, encLI_comb, encLI_cbit, dec46, extract_above, extract_below, extract_whole, Nat.reduceSub, ok_bind, CType_code, bit1_eq, named_some, CType_code', bit1_eq']
  simp [encLI_d, encLI_a7, encLI_imm11, encLI_imm5, encLI_comb, encLI_cbit, dec46, srcOf_enc, ok_bind, pure_ok, guardD, hw, CType_code, bit1_eq, named_some, CType_code', bit1_eq']

theorem bfly (t x y z n) : Statement (.bfly t x y z n) := by
  intro hw _
  replace hw : (t.regOk x && t.regOk y && t.regOk z && n.toNat ≤ 4) = true := hw
  simp only [Bool.and_eq_true] at hw
  change decode (encLX 0x48 x y z (0#1 ++ BitVec.ofNat 2 t.code ++ n)) = _
  rw [decode_L _ (encLX_uset ..), decodeL_48 (encLX 0x48 x y z (0#1 ++ BitVec.ofNat 2 t.code ++ n)) (encLX_major ..)]
  simp (disch := decide) only [encLX_d, encLX_y, encLX_z, encLX_f6, dec48, extract_above, extract_below, extract_whole, Nat.reduceSub, ok_bind, CType_code, named_some, CType_code']
  simp [encLX_d, encLX_y, encLX_z, encLX_f6, dec48, srcOf_enc, ok_bind, pure_ok, guardD, hw, CType_code, named_some, CType_code']

theorem shufIdx (d a b) : Statement (.shufIdx d a b) := by
  intro hw _
  replace hw : (a.ok .i && b.ok .i) = true := hw
  simp only [Bool.and_eq_true] at hw
  change decode (encLA 0x49 d a.enc b.enc 0) = _
  rw [decode_L _ (encLA_uset ..), decodeL_49 (encLA 0x49 d a.enc b.enc 0) (encLA_major ..)]
  simp [encLA_d, encLA_a7, encLA_b7, encLA_f4, encLA_comb, encLA_cbit, dec49, srcOf_enc, ok_bind, pure_ok, guardD, hw]

theorem shufXor (d a b) : Statement (.shufXor d a b) := by
  intro hw _
  replace hw : (a.ok .i && b.ok .i) = true := hw
  simp only [Bool.and_eq_true] at hw
  change decode (encLA 0x49 d a.enc b.enc 1) = _
  rw [decode_L _ (encLA_uset ..), decodeL_49 (encLA 0x49 d a.enc b.enc 1) (encLA_major ..)]
  simp [encLA_d, encLA_a7, encLA_b7, encLA_f4, encLA_comb, encLA_cbit, dec49, srcOf_enc, ok_bind, pure_ok, guardD, hw]

theorem shufUp (d a b) : Statement (.shufUp d a b) := by
  intro hw _
  replace hw : (a.ok .i && b.ok .i) = true := hw
  simp only [Bool.and_eq_true] at hw
  change decode (encLA 0x49 d a.enc b.enc 2) = _
  rw [decode_L _ (encLA_uset ..), decodeL_49 (encLA 0x49 d a.enc b.enc 2) (encLA_major ..)]
  simp [encLA_d, encLA_a7, encLA_b7, encLA_f4, encLA_comb, encLA_cbit, dec49, srcOf_enc, ok_bind, pure_ok, guardD, hw]

theorem shufDown (d a b) : Statement (.shufDown d a b) := by
  intro hw _
  replace hw : (a.ok .i && b.ok .i) = true := hw
  simp only [Bool.and_eq_true] at hw
  change decode (encLA 0x49 d a.enc b.enc 3) = _
  rw [decode_L _ (encLA_uset ..), decodeL_49 (encLA 0x49 d a.enc b.enc 3) (encLA_major ..)]
  simp [encLA_d, encLA_a7, encLA_b7, encLA_f4, encLA_comb, encLA_cbit, dec49, srcOf_enc, ok_bind, pure_ok, guardD, hw]

theorem voteAll (d k) : Statement (.voteAll d k) := by
  intro hw _
  change decode (encLA 0x4A d 0 0 (0#1 ++ k)) = _
  rw [decode_L _ (encLA_uset ..), decodeL_4A (encLA 0x4A d 0 0 (0#1 ++ k)) (encLA_major ..)]
  simp (disch := decide) only [encLA_d, encLA_a7, encLA_b7, encLA_f4, encLA_comb, encLA_cbit, dec4A, extract_above, extract_below, extract_whole, Nat.reduceSub, ok_bind]
  simp [encLA_d, encLA_a7, encLA_b7, encLA_f4, encLA_comb, encLA_cbit, dec4A, srcOf_enc, ok_bind, pure_ok, guardD]

theorem voteAny (d k) : Statement (.voteAny d k) := by
  intro hw _
  change decode (encLA 0x4A d 0 1 (0#1 ++ k)) = _
  rw [decode_L _ (encLA_uset ..), decodeL_4A (encLA 0x4A d 0 1 (0#1 ++ k)) (encLA_major ..)]
  simp (disch := decide) only [encLA_d, encLA_a7, encLA_b7, encLA_f4, encLA_comb, encLA_cbit, dec4A, extract_above, extract_below, extract_whole, Nat.reduceSub, ok_bind]
  simp [encLA_d, encLA_a7, encLA_b7, encLA_f4, encLA_comb, encLA_cbit, dec4A, srcOf_enc, ok_bind, pure_ok, guardD]

theorem voteBallot (d k) : Statement (.voteBallot d k) := by
  intro hw _
  change decode (encLA 0x4A d 0 2 (0#1 ++ k)) = _
  rw [decode_L _ (encLA_uset ..), decodeL_4A (encLA 0x4A d 0 2 (0#1 ++ k)) (encLA_major ..)]
  simp (disch := decide) only [encLA_d, encLA_a7, encLA_b7, encLA_f4, encLA_comb, encLA_cbit, dec4A, extract_above, extract_below, extract_whole, Nat.reduceSub, ok_bind]
  simp [encLA_d, encLA_a7, encLA_b7, encLA_f4, encLA_comb, encLA_cbit, dec4A, srcOf_enc, ok_bind, pure_ok, guardD]

theorem xcopy (ft sc acq rel x y) : Statement (.xcopy ft sc acq rel x y) := by
  intro hw _
  change decode (encLX 0x4C x y 0 (bit1 ft ++ BitVec.ofNat 3 sc.code ++ bit1 acq ++ bit1 rel)) = _
  rw [decode_L _ (encLX_uset ..), decodeL_4C (encLX 0x4C x y 0 (bit1 ft ++ BitVec.ofNat 3 sc.code ++ bit1 acq ++ bit1 rel)) (encLX_major ..)]
  simp (disch := decide) only [encLX_d, encLX_y, encLX_z, encLX_f6, dec4C, extract_above, extract_below, extract_whole, Nat.reduceSub, ok_bind, Scope_code, bit1_eq, named_some, Scope_code', bit1_eq']
  simp [encLX_d, encLX_y, encLX_z, encLX_f6, dec4C, srcOf_enc, ok_bind, pure_ok, guardD, Scope_code, bit1_eq, named_some, Scope_code', bit1_eq', zl_toNat_4_2, zl_setWidth_4_2, zl_toNat_2_4, zl_setWidth_2_4, zl_toNat_1_6, zl_setWidth_1_6, zl_toNat_1_5, zl_setWidth_1_5, zl_toNat_3_3, zl_setWidth_3_3]

theorem xlut (x slot z) : Statement (.xlut x slot z) := by
  intro hw _
  change decode (encLX 0x4D x (0#4 ++ slot) z 0) = _
  rw [decode_L _ (encLX_uset ..), decodeL_4D (encLX 0x4D x (0#4 ++ slot) z 0) (encLX_major ..)]
  simp (disch := decide) only [encLX_d, encLX_y, encLX_z, encLX_f6, extract_above, extract_below, extract_whole, Nat.reduceSub, ok_bind]
  simp [encLX_d, encLX_y, encLX_z, encLX_f6, srcOf_enc, ok_bind, pure_ok, guardD, zl_toNat_4_2, zl_setWidth_4_2, zl_toNat_2_4, zl_setWidth_2_4, zl_toNat_1_6, zl_setWidth_1_6, zl_toNat_1_5, zl_setWidth_1_5, zl_toNat_3_3, zl_setWidth_3_3, slot.isLt]

theorem obres (ob y cv) : Statement (.obres ob y cv) := by
  intro hw _
  change decode (encLX 0x4E (0#2 ++ ob) y 0 (cvFld cv 0)) = _
  rw [decode_L _ (encLX_uset ..), decodeL_4E (encLX 0x4E (0#2 ++ ob) y 0 (cvFld cv 0)) (encLX_major ..)]
  simp [encLX_d, encLX_y, encLX_z, encLX_f6, dec4E, srcOf_enc, ok_bind, pure_ok, guardD, obOf_low, cvF_eq, cvOf_eq]

theorem obrel (ob cv) : Statement (.obrel ob cv) := by
  intro hw _
  change decode (encLX 0x4E (0#2 ++ ob) 0 0 (cvFld cv 1)) = _
  rw [decode_L _ (encLX_uset ..), decodeL_4E (encLX 0x4E (0#2 ++ ob) 0 0 (cvFld cv 1)) (encLX_major ..)]
  simp [encLX_d, encLX_y, encLX_z, encLX_f6, dec4E, srcOf_enc, ok_bind, pure_ok, guardD, obOf_low, cvF_eq, cvOf_eq]

theorem obld (ob y z cv) : Statement (.obld ob y z cv) := by
  intro hw _
  replace hw : (y.even) = true := hw
  change decode (encLX 0x4E (0#2 ++ ob) y z (cvFld cv 2)) = _
  rw [decode_L _ (encLX_uset ..), decodeL_4E (encLX 0x4E (0#2 ++ ob) y z (cvFld cv 2)) (encLX_major ..)]
  simp [encLX_d, encLX_y, encLX_z, encLX_f6, dec4E, srcOf_enc, ok_bind, pure_ok, guardD, hw, obOf_low, cvF_eq, cvOf_eq]

theorem obgat (ob y z cv) : Statement (.obgat ob y z cv) := by
  intro hw _
  change decode (encLX 0x4E (0#2 ++ ob) y z (cvFld cv 3)) = _
  rw [decode_L _ (encLX_uset ..), decodeL_4E (encLX 0x4E (0#2 ++ ob) y z (cvFld cv 3)) (encLX_major ..)]
  simp [encLX_d, encLX_y, encLX_z, encLX_f6, dec4E, srcOf_enc, ok_bind, pure_ok, guardD, obOf_low, cvF_eq, cvOf_eq]

theorem mma (acc a b cv) : Statement (.mma acc a b cv) := by
  intro hw _
  change decode (encLX 0x4F (0#3 ++ acc) (0#2 ++ a) (0#2 ++ b) (cvFld cv 0)) = _
  rw [decode_L _ (encLX_uset ..), decodeL_4F (encLX 0x4F (0#3 ++ acc) (0#2 ++ a) (0#2 ++ b) (cvFld cv 0)) (encLX_major ..)]
  simp [encLX_d, encLX_y, encLX_z, encLX_f6, dec4F, srcOf_enc, ok_bind, pure_ok, guardD, DftLen_code, named_some, accOf_low, obOf_low, cvF_eq, cvOf_eq, DftLen_code']

theorem mmac (acc a b cv) : Statement (.mmac acc a b cv) := by
  intro hw _
  change decode (encLX 0x4F (0#3 ++ acc) (0#2 ++ a) (0#2 ++ b) (cvFld cv 1)) = _
  rw [decode_L _ (encLX_uset ..), decodeL_4F (encLX 0x4F (0#3 ++ acc) (0#2 ++ a) (0#2 ++ b) (cvFld cv 1)) (encLX_major ..)]
  simp [encLX_d, encLX_y, encLX_z, encLX_f6, dec4F, srcOf_enc, ok_bind, pure_ok, guardD, DftLen_code, named_some, accOf_low, obOf_low, cvF_eq, cvOf_eq, DftLen_code']

theorem mdft (inv n acc a cv) : Statement (.mdft inv n acc a cv) := by
  intro hw _
  have hw : ¬n = .n64 ∨ acc.toNat % 2 = 0 := by
    revert hw; cases n <;> first | exact fun _ => .inl (by decide) | exact fun h => .inr (eq_of_beq h)
  change decode (encLX 0x4F (0#3 ++ acc) (0#2 ++ a) (0#3 ++ bit1 inv ++ BitVec.ofNat 2 n.code) (cvFld cv 2)) = _
  rw [decode_L _ (encLX_uset ..), decodeL_4F (encLX 0x4F (0#3 ++ acc) (0#2 ++ a) (0#3 ++ bit1 inv ++ BitVec.ofNat 2 n.code) (cvFld cv 2)) (encLX_major ..)]
  simp (disch := decide) only [encLX_d, encLX_y, encLX_z, encLX_f6, dec4F, extract_above, extract_below, extract_whole, Nat.reduceSub, ok_bind, accOf_low, obOf_low, cvF_eq, cvOf_eq, DftLen_code, bit1_eq, named_some]
  simp [ok_bind, pure_ok, guardD, hw, accOf_low, obOf_low, bit1_eq', bit1_eq, DftLen_code, DftLen_code', named_some]

theorem mdrn (acc y cv) : Statement (.mdrn acc y cv) := by
  intro hw _
  change decode (encLX 0x4F (0#3 ++ acc) y 0 (cvFld cv 3)) = _
  rw [decode_L _ (encLX_uset ..), decodeL_4F (encLX 0x4F (0#3 ++ acc) y 0 (cvFld cv 3)) (encLX_major ..)]
  simp [encLX_d, encLX_y, encLX_z, encLX_f6, dec4F, srcOf_enc, ok_bind, pure_ok, guardD, DftLen_code, named_some, accOf_low, obOf_low, cvF_eq, cvOf_eq, DftLen_code']

theorem mzro (i acc cv) : Statement (.mzro i acc cv) := by
  intro hw _
  change decode (encLX 0x4F (0#3 ++ acc) 0 (0#5 ++ bit1 i) (cvFld cv 4)) = _
  rw [decode_L _ (encLX_uset ..), decodeL_4F (encLX 0x4F (0#3 ++ acc) 0 (0#5 ++ bit1 i) (cvFld cv 4)) (encLX_major ..)]
  cases i
  all_goals try simp [encLX_d, encLX_y, encLX_z, encLX_f6, dec4F, srcOf_enc, ok_bind, pure_ok, guardD, DftLen_code, bit1_eq, named_some, accOf_low, obOf_low, cvF_eq, cvOf_eq, DftLen_code', bit1_eq', zl_toNat_4_2, zl_setWidth_4_2, zl_toNat_2_4, zl_setWidth_2_4, zl_toNat_1_6, zl_setWidth_1_6, zl_toNat_1_5, zl_setWidth_1_5, zl_toNat_3_3, zl_setWidth_3_3]
  all_goals rfl

theorem cvt (dst src rm sat x y) : Statement (.cvt dst src rm sat x y) := by
  intro hw _
  have hw : ¬dst = .h4 ∧ ¬dst = .h8 ∨ rm = .rne := by
    revert hw; cases dst <;> first | exact fun _ => .inl ⟨by decide, by decide⟩ | exact fun h => .inr (eq_of_beq h)
  change decode (encLX 0x50 x y (bit1 sat ++ 0#1 ++ BitVec.ofNat 4 src.code) (BitVec.ofNat 2 rm.code ++ BitVec.ofNat 4 dst.code)) = _
  rw [decode_L _ (encLX_uset ..), decodeL_50 (encLX 0x50 x y (bit1 sat ++ 0#1 ++ BitVec.ofNat 4 src.code) (BitVec.ofNat 2 rm.code ++ BitVec.ofNat 4 dst.code)) (encLX_major ..)]
  simp (disch := decide) only [encLX_d, encLX_y, encLX_z, encLX_f6, dec50, extract_above, extract_below, extract_whole, Nat.reduceSub, ok_bind, Rm_code, Fmt_code, bit1_eq, named_some]
  simp [ok_bind, pure_ok, guardD, hw, Rm_code', Fmt_code', bit1_eq', named_some]

theorem qpack (nf wf x y z) : Statement (.qpack nf wf x y z) := by
  intro hw _
  replace hw : (y.toNat % nf.group wf == 0 && (nf != .q4n || z.even)) = true := hw
  simp only [Bool.and_eq_true] at hw
  change decode (encLX 0x51 x y z (BitVec.ofNat 2 (wideCode wf) ++ BitVec.ofNat 4 nf.code)) = _
  rw [decode_L _ (encLX_uset ..), decodeL_51 (encLX 0x51 x y z (BitVec.ofNat 2 (wideCode wf) ++ BitVec.ofNat 4 nf.code)) (encLX_major ..)]
  simp (disch := decide) only [encLX_d, encLX_y, encLX_z, encLX_f6, decQ, extract_above, extract_below, extract_whole, Nat.reduceSub, ok_bind, NFmt_code, wide_code, named_some, decQ, NFmt_code', wide_code']
  simp [encLX_d, encLX_y, encLX_z, encLX_f6, decQ, srcOf_enc, ok_bind, pure_ok, guardD, hw, NFmt_code, wide_code, named_some, decQ, NFmt_code', wide_code']

theorem qunpk (nf wf x y z) : Statement (.qunpk nf wf x y z) := by
  intro hw _
  replace hw : (x.toNat % nf.group wf == 0 && (nf != .q4n || z.even)) = true := hw
  simp only [Bool.and_eq_true] at hw
  change decode (encLX 0x52 x y z (BitVec.ofNat 2 (wideCode wf) ++ BitVec.ofNat 4 nf.code)) = _
  rw [decode_L _ (encLX_uset ..), decodeL_52 (encLX 0x52 x y z (BitVec.ofNat 2 (wideCode wf) ++ BitVec.ofNat 4 nf.code)) (encLX_major ..)]
  simp (disch := decide) only [encLX_d, encLX_y, encLX_z, encLX_f6, decQ, extract_above, extract_below, extract_whole, Nat.reduceSub, ok_bind, NFmt_code, wide_code, named_some, decQ, NFmt_code', wide_code']
  simp [encLX_d, encLX_y, encLX_z, encLX_f6, decQ, srcOf_enc, ok_bind, pure_ok, guardD, hw, NFmt_code, wide_code, named_some, decQ, NFmt_code', wide_code']

theorem qscl (nf wf x y z) : Statement (.qscl nf wf x y z) := by
  intro hw _
  replace hw : (nf == .q4n || z == 0) = true := hw
  change decode (encLX 0x53 x y z (BitVec.ofNat 2 (wideCode wf) ++ BitVec.ofNat 4 nf.code)) = _
  rw [decode_L _ (encLX_uset ..), decodeL_53 (encLX 0x53 x y z (BitVec.ofNat 2 (wideCode wf) ++ BitVec.ofNat 4 nf.code)) (encLX_major ..)]
  simp (disch := decide) only [encLX_d, encLX_y, encLX_z, encLX_f6, decQ, extract_above, extract_below, extract_whole, Nat.reduceSub, ok_bind, NFmt_code, wide_code, named_some, guardD, hw, if_true]

theorem rng (x y z k) : Statement (.rng x y z k) := by
  intro hw _
  replace hw : (k.toNat % 2 == 0 && k.toNat ≤ 28) = true := hw
  simp only [Bool.and_eq_true] at hw
  change decode (encLX 0x54 x y z (0#1 ++ k)) = _
  rw [decode_L _ (encLX_uset ..), decodeL_54 (encLX 0x54 x y z (0#1 ++ k)) (encLX_major ..)]
  simp (disch := decide) only [encLX_d, encLX_y, encLX_z, encLX_f6, extract_above, extract_below, extract_whole, Nat.reduceSub, ok_bind]
  simp [encLX_d, encLX_y, encLX_z, encLX_f6, srcOf_enc, ok_bind, pure_ok, guardD, hw, zl_toNat_4_2, zl_setWidth_4_2, zl_toNat_2_4, zl_setWidth_2_4, zl_toNat_1_6, zl_setWidth_1_6, zl_toNat_1_5, zl_setWidth_1_5, zl_toNat_3_3, zl_setWidth_3_3]

theorem tkget (acc cv) : Statement (.tkget acc cv) := by
  intro hw _
  change decode (encLX 0x57 (0#3 ++ acc) 0 0 (cvFld cv 0)) = _
  rw [decode_L _ (encLX_uset ..), decodeL_57 (encLX 0x57 (0#3 ++ acc) 0 0 (cvFld cv 0)) (encLX_major ..)]
  simp [encLX_d, encLX_y, encLX_z, encLX_f6, dec57, srcOf_enc, ok_bind, pure_ok, guardD, accOf_low, cvF_eq, cvOf_eq]

theorem tkput (acc cv) : Statement (.tkput acc cv) := by
  intro hw _
  change decode (encLX 0x57 (0#3 ++ acc) 0 0 (cvFld cv 1)) = _
  rw [decode_L _ (encLX_uset ..), decodeL_57 (encLX 0x57 (0#3 ++ acc) 0 0 (cvFld cv 1)) (encLX_major ..)]
  simp [encLX_d, encLX_y, encLX_z, encLX_f6, dec57, srcOf_enc, ok_bind, pure_ok, guardD, accOf_low, cvF_eq, cvOf_eq]

theorem acld (x acc z) : Statement (.acld x acc z) := by
  intro hw _
  change decode (encLX 0x57 x (0#3 ++ acc) z (cvFld 0 2)) = _
  rw [decode_L _ (encLX_uset ..), decodeL_57 (encLX 0x57 x (0#3 ++ acc) z (cvFld 0 2)) (encLX_major ..)]
  simp [encLX_d, encLX_y, encLX_z, encLX_f6, dec57, srcOf_enc, ok_bind, pure_ok, guardD, accOf_low, cvF_eq, cvOf_eq]

theorem acst (x acc z) : Statement (.acst x acc z) := by
  intro hw _
  change decode (encLX 0x57 x (0#3 ++ acc) z (cvFld 0 3)) = _
  rw [decode_L _ (encLX_uset ..), decodeL_57 (encLX 0x57 x (0#3 ++ acc) z (cvFld 0 3)) (encLX_major ..)]
  simp [encLX_d, encLX_y, encLX_z, encLX_f6, dec57, srcOf_enc, ok_bind, pure_ok, guardD, accOf_low, cvF_eq, cvOf_eq]

theorem mtwn (cv) : Statement (.mtwn cv) := by
  intro hw _
  change decode (encLX 0x57 0 0 0 (cvFld cv 4)) = _
  rw [decode_L _ (encLX_uset ..), decodeL_57 (encLX 0x57 0 0 0 (cvFld cv 4)) (encLX_major ..)]
  simp [encLX_d, encLX_y, encLX_z, encLX_f6, dec57, srcOf_enc, ok_bind, pure_ok, guardD, accOf_low, cvF_eq, cvOf_eq]

theorem cbop (x y z t) : Statement (.cbop x y z t) := by
  intro hw _
  change decode (encLX 0x58 (0#3 ++ x) (0#3 ++ y) (0#3 ++ z) (0#2 ++ t)) = _
  rw [decode_L _ (encLX_uset ..), decodeL_58 (encLX 0x58 (0#3 ++ x) (0#3 ++ y) (0#3 ++ z) (0#2 ++ t)) (encLX_major ..)]
  simp (disch := decide) only [encLX_d, encLX_y, encLX_z, encLX_f6, dec58, extract_above, extract_below, extract_whole, Nat.reduceSub, ok_bind, cb6_low]
  simp [encLX_d, encLX_y, encLX_z, encLX_f6, dec58, srcOf_enc, ok_bind, pure_ok, guardD, cb6_low]

theorem cbmvGet (x y) : Statement (.cbmvGet x y) := by
  intro hw _
  change decode (encLX 0x59 x (0#3 ++ y) 0 0) = _
  rw [decode_L _ (encLX_uset ..), decodeL_59 (encLX 0x59 x (0#3 ++ y) 0 0) (encLX_major ..)]
  simp [encLX_d, encLX_y, encLX_z, encLX_f6, dec59, srcOf_enc, ok_bind, pure_ok, guardD, cb6_low]

theorem cbmvPut (x y) : Statement (.cbmvPut x y) := by
  intro hw _
  change decode (encLX 0x59 x (0#3 ++ y) 0 1) = _
  rw [decode_L _ (encLX_uset ..), decodeL_59 (encLX 0x59 x (0#3 ++ y) 0 1) (encLX_major ..)]
  simp [encLX_d, encLX_y, encLX_z, encLX_f6, dec59, srcOf_enc, ok_bind, pure_ok, guardD, cb6_low]

theorem cbmvGetAll (x) : Statement (.cbmvGetAll x) := by
  intro hw _
  change decode (encLX 0x59 x 0 0 2) = _
  rw [decode_L _ (encLX_uset ..), decodeL_59 (encLX 0x59 x 0 0 2) (encLX_major ..)]
  simp [encLX_d, encLX_y, encLX_z, encLX_f6, dec59, srcOf_enc, ok_bind, pure_ok, guardD, cb6_low]

theorem cbmvPutAll (x) : Statement (.cbmvPutAll x) := by
  intro hw _
  change decode (encLX 0x59 x 0 0 3) = _
  rw [decode_L _ (encLX_uset ..), decodeL_59 (encLX 0x59 x 0 0 3) (encLX_major ..)]
  simp [encLX_d, encLX_y, encLX_z, encLX_f6, dec59, srcOf_enc, ok_bind, pure_ok, guardD, cb6_low]

theorem enq (x y) : Statement (.enq x y) := by
  intro hw _
  change decode (encLX 0x5C x y 0 0) = _
  rw [decode_L _ (encLX_uset ..), decodeL_5C (encLX 0x5C x y 0 0) (encLX_major ..)]
  simp [encLX_d, encLX_y, encLX_z, encLX_f6, srcOf_enc, ok_bind, pure_ok, guardD]

theorem enqNb (x y) : Statement (.enqNb x y) := by
  intro hw _
  change decode (encLX 0x5C x y 0 1) = _
  rw [decode_L _ (encLX_uset ..), decodeL_5C (encLX 0x5C x y 0 1) (encLX_major ..)]
  simp [encLX_d, encLX_y, encLX_z, encLX_f6, srcOf_enc, ok_bind, pure_ok, guardD]

theorem range (x u) : Statement (.range x u) := by
  intro hw _
  replace hw : (x.even) = true := hw
  change decode (encLX 0x5D x (0#2 ++ u) 0 0) = _
  rw [decode_L _ (encLX_uset ..), decodeL_5D (encLX 0x5D x (0#2 ++ u) 0 0) (encLX_major ..)]
  simp (disch := decide) only [encLX_d, encLX_y, encLX_z, encLX_f6, extract_above, extract_below, extract_whole, Nat.reduceSub, ok_bind]
  simp [encLX_d, encLX_y, encLX_z, encLX_f6, srcOf_enc, ok_bind, pure_ok, guardD, hw, zl_toNat_4_2, zl_setWidth_4_2, zl_toNat_2_4, zl_setWidth_2_4, zl_toNat_1_6, zl_setWidth_1_6, zl_toNat_1_5, zl_setWidth_1_5, zl_toNat_3_3, zl_setWidth_3_3, u.isLt]

theorem qstat (x y) : Statement (.qstat x y) := by
  intro hw _
  replace hw : (x.even) = true := hw
  change decode (encLX 0x5E x y 0 0) = _
  rw [decode_L _ (encLX_uset ..), decodeL_5E (encLX 0x5E x y 0 0) (encLX_major ..)]
  simp [encLX_d, encLX_y, encLX_z, encLX_f6, srcOf_enc, ok_bind, pure_ok, guardD, hw]

theorem tex (x y z) : Statement (.tex x y z) := by
  intro hw _
  replace hw : (x.quad && z.even) = true := hw
  simp only [Bool.and_eq_true] at hw
  change decode (encLX 0x5F x y z 0) = _
  rw [decode_L _ (encLX_uset ..), decodeL_5F (encLX 0x5F x y z 0) (encLX_major ..)]
  simp [encLX_d, encLX_y, encLX_z, encLX_f6, dec5F, srcOf_enc, ok_bind, pure_ok, guardD, hw]

theorem trav (x y) : Statement (.trav x y) := by
  intro hw _
  replace hw : (x.quad) = true := hw
  change decode (encLX 0x5F x y 0 1) = _
  rw [decode_L _ (encLX_uset ..), decodeL_5F (encLX 0x5F x y 0 1) (encLX_major ..)]
  simp [encLX_d, encLX_y, encLX_z, encLX_f6, dec5F, srcOf_enc, ok_bind, pure_ok, guardD, hw]

theorem rast (y) : Statement (.rast y) := by
  intro hw _
  change decode (encLX 0x5F 0 y 0 2) = _
  rw [decode_L _ (encLX_uset ..), decodeL_5F (encLX 0x5F 0 y 0 2) (encLX_major ..)]
  simp [encLX_d, encLX_y, encLX_z, encLX_f6, dec5F, srcOf_enc, ok_bind, pure_ok, guardD]

theorem bra (off) : Statement (.bra off) := by
  intro hw _
  change decode (encLB 0x60 0 0 0 off) = _
  rw [decode_L _ (encLB_uset ..), decodeL_60 (encLB 0x60 0 0 0 off) (encLB_major ..)]
  simp [encLB_comb, encLB_lbS, encLB_lbH, encLB_off19, srcOf_enc, ok_bind, pure_ok, guardD]

theorem bc (k inv h off) : Statement (.bc k inv h off) := by
  intro hw _
  change decode (encLB 0x61 k (bit1 inv) (bit1 h) off) = _
  rw [decode_L _ (encLB_uset ..), decodeL_61 (encLB 0x61 k (bit1 inv) (bit1 h) off) (encLB_major ..)]
  simp [encLB_comb, encLB_lbS, encLB_lbH, encLB_off19, srcOf_enc, ok_bind, pure_ok, guardD, bit1_eq, bit1_eq']

theorem call (w off) : Statement (.call w off) := by
  intro _ _
  change decode (0#1 ++ 0x62#7 ++ w ++ off : BitVec (1 + 7 + 6 + 18)) = _
  rw [decode_L _ (by simp (disch := decide) only [Field.uset, extract_above, extract_below, extract_whole, Nat.reduceSub, ok_bind]; rfl),
    decodeL_62 _ (by simp (disch := decide) only [Field.major, extract_above, extract_below, extract_whole, Nat.reduceSub, ok_bind])]
  simp (disch := decide) only [Field.d, Field.off18, extract_above, extract_below, extract_whole, Nat.reduceSub, ok_bind]

theorem callc (w k inv off) : Statement (.callc w k inv off) := by
  intro _ _
  change decode (0#1 ++ 0x63#7 ++ w ++ k ++ bit1 inv ++ off : BitVec (1 + 7 + 6 + 3 + 1 + 14)) = _
  rw [decode_L _ (by simp (disch := decide) only [Field.uset, extract_above, extract_below, extract_whole, Nat.reduceSub, ok_bind]; rfl),
    decodeL_63 _ (by simp (disch := decide) only [Field.major, extract_above, extract_below, extract_whole, Nat.reduceSub, ok_bind])]
  simp (disch := decide) only [Field.d, Field.lcCb, Field.lcS, Field.off14, bit1_eq, extract_above, extract_below, extract_whole, Nat.reduceSub, ok_bind]

theorem bri (a) : Statement (.bri a) := by
  intro hw _
  replace hw : (a.ok .a) = true := hw
  change decode (encLA 0x64 0 a.enc 0 0) = _
  rw [decode_L _ (encLA_uset ..), decodeL_64 (encLA 0x64 0 a.enc 0 0) (encLA_major ..)]
  simp [encLA_d, encLA_a7, encLA_b7, encLA_f4, encLA_comb, encLA_cbit, srcOf_enc, ok_bind, pure_ok, guardD, hw]

theorem calli (w y) : Statement (.calli w y) := by
  intro hw _
  replace hw : (y.even) = true := hw
  change decode (encLX 0x65 w y 0 0) = _
  rw [decode_L _ (encLX_uset ..), decodeL_65 (encLX 0x65 w y 0 0) (encLX_major ..)]
  simp [encLX_d, encLX_y, encLX_z, encLX_f6, srcOf_enc, ok_bind, pure_ok, guardD, hw]

theorem retc (k inv) : Statement (.retc k inv) := by
  intro hw _
  change decode (encLB 0x67 k (bit1 inv) 0 0) = _
  rw [decode_L _ (encLB_uset ..), decodeL_67 (encLB 0x67 k (bit1 inv) 0 0) (encLB_major ..)]
  simp [encLB_comb, encLB_lbS, encLB_lbH, encLB_off19, srcOf_enc, ok_bind, pure_ok, guardD, bit1_eq, bit1_eq']

theorem nap (a m) : Statement (.nap a m) := by
  intro hw _
  replace hw : (a.ok .i) = true := hw
  change decode (encLI 0x6A 0 a.enc (0#8 ++ m)) = _
  rw [decode_L _ (encLI_uset ..), decodeL_6A (encLI 0x6A 0 a.enc (0#8 ++ m)) (encLI_major ..)]
  simp (disch := decide) only [encLI_d, encLI_a7, encLI_imm11, encLI_imm5, encLI_comb, encLI_cbit, extract_above, extract_below, extract_whole, Nat.reduceSub, ok_bind]
  simp [encLI_d, encLI_a7, encLI_imm11, encLI_imm5, encLI_comb, encLI_cbit, srcOf_enc, ok_bind, pure_ok, guardD, hw]

theorem peal (n) : Statement (.peal n) := by
  intro hw _
  change decode (encLA 0x6B 0 (0#1 ++ n) 0 0) = _
  rw [decode_L _ (encLA_uset ..), decodeL_6B (encLA 0x6B 0 (0#1 ++ n) 0 0) (encLA_major ..)]
  simp (disch := decide) only [encLA_d, encLA_a7, encLA_b7, encLA_f4, encLA_comb, encLA_cbit, extract_above, extract_below, extract_whole, Nat.reduceSub, ok_bind]
  simp [encLA_d, encLA_a7, encLA_b7, encLA_f4, encLA_comb, encLA_cbit, srcOf_enc, ok_bind, pure_ok, guardD, zl_toNat_4_2, zl_setWidth_4_2, zl_toNat_2_4, zl_setWidth_2_4, zl_toNat_1_6, zl_setWidth_1_6, zl_toNat_1_5, zl_setWidth_1_5, zl_toNat_3_3, zl_setWidth_3_3, n.isLt]

theorem conv (cv) : Statement (.conv cv) := by
  intro hw _
  change decode (encLX 0x6C (0#3 ++ cv) 0 0 0) = _
  rw [decode_L _ (encLX_uset ..), decodeL_6C (encLX 0x6C (0#3 ++ cv) 0 0 0) (encLX_major ..)]
  simp [encLX_d, encLX_y, encLX_z, encLX_f6, dec6C, srcOf_enc, ok_bind, pure_ok, guardD, cb6_low]

theorem convInit (cv y) : Statement (.convInit cv y) := by
  intro hw _
  change decode (encLX 0x6C (0#3 ++ cv) y 0 1) = _
  rw [decode_L _ (encLX_uset ..), decodeL_6C (encLX 0x6C (0#3 ++ cv) y 0 1) (encLX_major ..)]
  simp [encLX_d, encLX_y, encLX_z, encLX_f6, dec6C, srcOf_enc, ok_bind, pure_ok, guardD, cb6_low]

theorem convQuery (z cv) : Statement (.convQuery z cv) := by
  intro hw _
  replace hw : (z.even) = true := hw
  change decode (encLX 0x6C (0#3 ++ cv) 0 z 2) = _
  rw [decode_L _ (encLX_uset ..), decodeL_6C (encLX 0x6C (0#3 ++ cv) 0 z 2) (encLX_major ..)]
  simp [encLX_d, encLX_y, encLX_z, encLX_f6, dec6C, srcOf_enc, ok_bind, pure_ok, guardD, hw, cb6_low]

theorem ldg (sz t b m imm) : Statement (.ldg sz t b m imm) := by
  intro hw _
  have hw : b.even = true ∧ wideOk sz.code t = true := by
    revert hw; cases sz <;> exact fun h => (Bool.and_eq_true _ _).mp h
  change decode (encLM 0x70 t b m (BitVec.ofNat 3 sz.code) imm) = _
  rw [decode_L _ (encLM_uset ..), decodeL_70 (encLM 0x70 t b m (BitVec.ofNat 3 sz.code) imm) (encLM_major ..)]
  simp [decLd, maskOf_encLM, encLM_d, encLM_y, encLM_sz, encLM_imm5, ok_bind, pure_ok, guardD, hw, LdSize_code', LdSize_code, named_some]

theorem stg (sz t b m imm) : Statement (.stg sz t b m imm) := by
  intro hw _
  have hw : b.even = true ∧ wideOk sz.code t = true := by
    revert hw; cases sz <;> exact fun h => (Bool.and_eq_true _ _).mp h
  change decode (encLM 0x71 t b m (BitVec.ofNat 3 sz.code) imm) = _
  rw [decode_L _ (encLM_uset ..), decodeL_71 (encLM 0x71 t b m (BitVec.ofNat 3 sz.code) imm) (encLM_major ..)]
  simp [decSt, maskOf_encLM, encLM_d, encLM_y, encLM_sz, encLM_imm5, ok_bind, pure_ok, guardD, hw, StSize_code', StSize_code, named_some]

theorem ldl (sz t b m imm) : Statement (.ldl sz t b m imm) := by
  intro hw _
  have hw : wideOk sz.code t = true := by revert hw; cases sz <;> exact id
  change decode (encLM 0x72 t b m (BitVec.ofNat 3 sz.code) imm) = _
  rw [decode_L _ (encLM_uset ..), decodeL_72 (encLM 0x72 t b m (BitVec.ofNat 3 sz.code) imm) (encLM_major ..)]
  simp [decLd, maskOf_encLM, encLM_d, encLM_y, encLM_sz, encLM_imm5, ok_bind, pure_ok, guardD, hw, LdSize_code', LdSize_code, named_some]

theorem stl (sz t b m imm) : Statement (.stl sz t b m imm) := by
  intro hw _
  have hw : wideOk sz.code t = true := by revert hw; cases sz <;> exact id
  change decode (encLM 0x73 t b m (BitVec.ofNat 3 sz.code) imm) = _
  rw [decode_L _ (encLM_uset ..), decodeL_73 (encLM 0x73 t b m (BitVec.ofNat 3 sz.code) imm) (encLM_major ..)]
  simp [decSt, maskOf_encLM, encLM_d, encLM_y, encLM_sz, encLM_imm5, ok_bind, pure_ok, guardD, hw, StSize_code', StSize_code, named_some]

theorem ldt (v sz t b m imm) : Statement (.ldt v sz t b m imm) := by
  intro hw _
  have hs : wideOk (sz.code + 2) t = true := by revert hw; cases sz <;> exact id
  change decode (encLM 0x74 t b m (BitVec.ofNat 1 v.code ++ BitVec.ofNat 2 sz.code) imm) = _
  rw [decode_L _ (encLM_uset ..), decodeL_74 (encLM 0x74 t b m (BitVec.ofNat 1 v.code ++ BitVec.ofNat 2 sz.code) imm) (encLM_major ..)]
  simp (disch := decide) only [decT, maskOf_encLM, encLM_d, encLM_y, encLM_sz, encLM_imm5, extract_above, extract_below, extract_whole, Nat.reduceSub, ok_bind, named_some, TSize_code]
  cases v <;> simp [ok_bind, guardD, hs, View.code]

theorem stt (v sz t b m imm) : Statement (.stt v sz t b m imm) := by
  intro hw _
  have hs : wideOk (sz.code + 2) t = true := by revert hw; cases sz <;> exact id
  change decode (encLM 0x75 t b m (BitVec.ofNat 1 v.code ++ BitVec.ofNat 2 sz.code) imm) = _
  rw [decode_L _ (encLM_uset ..), decodeL_75 (encLM 0x75 t b m (BitVec.ofNat 1 v.code ++ BitVec.ofNat 2 sz.code) imm) (encLM_major ..)]
  simp (disch := decide) only [decT, maskOf_encLM, encLM_d, encLM_y, encLM_sz, encLM_imm5, extract_above, extract_below, extract_whole, Nat.reduceSub, ok_bind, named_some, TSize_code]
  cases v <;> simp [ok_bind, guardD, hs, View.code]

theorem atom (op m x y z) : Statement (.atom op m x y z) := by
  intro hw _
  replace hw : (y.even) = true := hw
  change decode (encLX 0x76 x y z (BitVec.ofNat 4 op.code ++ m.code)) = _
  rw [decode_L _ (encLX_uset ..), decodeL_76 (encLX 0x76 x y z (BitVec.ofNat 4 op.code ++ m.code)) (encLX_major ..)]
  simp (disch := decide) only [encLX_d, encLX_y, encLX_z, encLX_f6, decAtom, extract_above, extract_below, extract_whole, Nat.reduceSub, ok_bind, Aop_code, AtomMask_code, named_some, Aop_code']
  simp [encLX_d, encLX_y, encLX_z, encLX_f6, decAtom, srcOf_enc, ok_bind, pure_ok, guardD, hw, Aop_code, AtomMask_code, named_some, Aop_code']

theorem atomn (op m y z) : Statement (.atomn op m y z) := by
  intro hw _
  replace hw : (y.even) = true := hw
  change decode (encLX 0x77 0 y z (BitVec.ofNat 4 op.code ++ m.code)) = _
  rw [decode_L _ (encLX_uset ..), decodeL_77 (encLX 0x77 0 y z (BitVec.ofNat 4 op.code ++ m.code)) (encLX_major ..)]
  simp (disch := decide) only [encLX_d, encLX_y, encLX_z, encLX_f6, decAtom, extract_above, extract_below, extract_whole, Nat.reduceSub, ok_bind, Aop_code, AtomMask_code, named_some, Aop_code']
  simp [encLX_d, encLX_y, encLX_z, encLX_f6, decAtom, srcOf_enc, ok_bind, pure_ok, guardD, hw, Aop_code, AtomMask_code, named_some, Aop_code']

theorem cas (d a b c) : Statement (.cas d a b c) := by
  intro hw _
  replace hw : (a.even) = true := hw
  change decode (encLX 0x78 d a b c) = _
  rw [decode_L _ (encLX_uset ..), decodeL_78 (encLX 0x78 d a b c) (encLX_major ..)]
  simp [encLX_d, encLX_y, encLX_z, encLX_f6, srcOf_enc, ok_bind, pure_ok, guardD, hw]

theorem pref (l b m imm) : Statement (.pref l b m imm) := by
  intro hw _
  replace hw : (b.even) = true := hw
  change decode (encLM 0x79 0 b m (BitVec.ofNat 3 l.code) imm) = _
  rw [decode_L _ (encLM_uset ..), decodeL_79 (encLM 0x79 0 b m (BitVec.ofNat 3 l.code) imm) (encLM_major ..)]
  simp [encLM_d, encLM_y, encLM_sz, encLM_imm5, dec79, srcOf_enc, ok_bind, pure_ok, guardD, hw, PrefLevel_code, named_some, maskOf_encLM, PrefLevel_code']

theorem fence (s) : Statement (.fence s) := by
  intro hw _
  change decode (encLK 0x7A 0 0 (BitVec.ofNat 16 s.code)) = _
  rw [decode_L _ (encLK_uset ..), decodeL_7A (encLK 0x7A 0 0 (BitVec.ofNat 16 s.code)) (encLK_major ..)]
  cases s
  all_goals try simp [encLK_d, encLK_k2, encLK_imm16, srcOf_enc, ok_bind, pure_ok, guardD, Scope_code, named_some, Scope_code']
  all_goals rfl

theorem fenceHostTransmitted (x1) : Statement (.fenceHostTransmitted x1) :=
  fun _ h => absurd (h : true = false) Bool.noConfusion
theorem bari (x y) : Statement (.bari x y) := by
  intro hw _
  change decode (encLX 0x7B x y 0 0) = _
  rw [decode_L _ (encLX_uset ..), decodeL_7B (encLX 0x7B x y 0 0) (encLX_major ..)]
  simp [encLX_d, encLX_y, encLX_z, encLX_f6, dec7B, srcOf_enc, ok_bind, pure_ok, guardD]

theorem bara (x y) : Statement (.bara x y) := by
  intro hw _
  change decode (encLX 0x7B x y 0 1) = _
  rw [decode_L _ (encLX_uset ..), decodeL_7B (encLX 0x7B x y 0 1) (encLX_major ..)]
  simp [encLX_d, encLX_y, encLX_z, encLX_f6, dec7B, srcOf_enc, ok_bind, pure_ok, guardD]

theorem barw (x y) : Statement (.barw x y) := by
  intro hw _
  change decode (encLX 0x7B x y 0 2) = _
  rw [decode_L _ (encLX_uset ..), decodeL_7B (encLX 0x7B x y 0 2) (encLX_major ..)]
  simp [encLX_d, encLX_y, encLX_z, encLX_f6, dec7B, srcOf_enc, ok_bind, pure_ok, guardD]

theorem bart (z x y) : Statement (.bart z x y) := by
  intro hw _
  change decode (encLX 0x7B x y z 3) = _
  rw [decode_L _ (encLX_uset ..), decodeL_7B (encLX 0x7B x y z 3) (encLX_major ..)]
  simp [encLX_d, encLX_y, encLX_z, encLX_f6, dec7B, srcOf_enc, ok_bind, pure_ok, guardD]

theorem flsetE (x y) : Statement (.flsetE x y) := by
  intro hw _
  change decode (encLX 0x7C x y 0 0) = _
  rw [decode_L _ (encLX_uset ..), decodeL_7C (encLX 0x7C x y 0 0) (encLX_major ..)]
  simp [encLX_d, encLX_y, encLX_z, encLX_f6, srcOf_enc, ok_bind, pure_ok, guardD]

theorem flsetF (x y) : Statement (.flsetF x y) := by
  intro hw _
  change decode (encLX 0x7C x y 0 1) = _
  rw [decode_L _ (encLX_uset ..), decodeL_7C (encLX 0x7C x y 0 1) (encLX_major ..)]
  simp [encLX_d, encLX_y, encLX_z, encLX_f6, srcOf_enc, ok_bind, pure_ok, guardD]

theorem cwb (x y) : Statement (.cwb x y) := by
  intro hw _
  replace hw : (x.even) = true := hw
  change decode (encLX 0x7D x y 0 0) = _
  rw [decode_L _ (encLX_uset ..), decodeL_7D (encLX 0x7D x y 0 0) (encLX_major ..)]
  simp [encLX_d, encLX_y, encLX_z, encLX_f6, dec7D, srcOf_enc, ok_bind, pure_ok, guardD, hw]

theorem cinv (x y) : Statement (.cinv x y) := by
  intro hw _
  replace hw : (x.even) = true := hw
  change decode (encLX 0x7D x y 0 1) = _
  rw [decode_L _ (encLX_uset ..), decodeL_7D (encLX 0x7D x y 0 1) (encLX_major ..)]
  simp [encLX_d, encLX_y, encLX_z, encLX_f6, dec7D, srcOf_enc, ok_bind, pure_ok, guardD, hw]

theorem iinv (x y) : Statement (.iinv x y) := by
  intro hw _
  replace hw : (x.even) = true := hw
  change decode (encLX 0x7D x y 0 2) = _
  rw [decode_L _ (encLX_uset ..), decodeL_7D (encLX 0x7D x y 0 2) (encLX_major ..)]
  simp [encLX_d, encLX_y, encLX_z, encLX_f6, dec7D, srcOf_enc, ok_bind, pure_ok, guardD, hw]

theorem ipre (x y) : Statement (.ipre x y) := by
  intro hw _
  replace hw : (x.even) = true := hw
  change decode (encLX 0x7D x y 0 4) = _
  rw [decode_L _ (encLX_uset ..), decodeL_7D (encLX 0x7D x y 0 4) (encLX_major ..)]
  simp [encLX_d, encLX_y, encLX_z, encLX_f6, dec7D, srcOf_enc, ok_bind, pure_ok, guardD, hw]

theorem ipin (x y) : Statement (.ipin x y) := by
  intro hw _
  replace hw : (x.even) = true := hw
  change decode (encLX 0x7D x y 0 5) = _
  rw [decode_L _ (encLX_uset ..), decodeL_7D (encLX 0x7D x y 0 5) (encLX_major ..)]
  simp [encLX_d, encLX_y, encLX_z, encLX_f6, dec7D, srcOf_enc, ok_bind, pure_ok, guardD, hw]

theorem iunp (x y) : Statement (.iunp x y) := by
  intro hw _
  replace hw : (x.even) = true := hw
  change decode (encLX 0x7D x y 0 6) = _
  rw [decode_L _ (encLX_uset ..), decodeL_7D (encLX 0x7D x y 0 6) (encLX_major ..)]
  simp [encLX_d, encLX_y, encLX_z, encLX_f6, dec7D, srcOf_enc, ok_bind, pure_ok, guardD, hw]

theorem uadd (d a b) : Statement (.uadd d a b) := by
  intro _ _
  change decode (encUA d a.enc b.enc 0) = _
  rw [decode_U _ (encUA_uset ..), decodeU_10 _ (encUA_major ..)]
  simp [encUA_ud, encUA_ua, encUA_ub, encUA_uf, src6Of_enc, ok_bind, pure_ok, decUA]

theorem usub (d a b) : Statement (.usub d a b) := by
  intro _ _
  change decode (encUA d a.enc b.enc 1) = _
  rw [decode_U _ (encUA_uset ..), decodeU_10 _ (encUA_major ..)]
  simp [encUA_ud, encUA_ua, encUA_ub, encUA_uf, src6Of_enc, ok_bind, pure_ok, decUA]

theorem uand (d a b) : Statement (.uand d a b) := by
  intro _ _
  change decode (encUA d a.enc b.enc 2) = _
  rw [decode_U _ (encUA_uset ..), decodeU_10 _ (encUA_major ..)]
  simp [encUA_ud, encUA_ua, encUA_ub, encUA_uf, src6Of_enc, ok_bind, pure_ok, decUA]

theorem uor (d a b) : Statement (.uor d a b) := by
  intro _ _
  change decode (encUA d a.enc b.enc 3) = _
  rw [decode_U _ (encUA_uset ..), decodeU_10 _ (encUA_major ..)]
  simp [encUA_ud, encUA_ua, encUA_ub, encUA_uf, src6Of_enc, ok_bind, pure_ok, decUA]

theorem uxor (d a b) : Statement (.uxor d a b) := by
  intro _ _
  change decode (encUA d a.enc b.enc 4) = _
  rw [decode_U _ (encUA_uset ..), decodeU_10 _ (encUA_major ..)]
  simp [encUA_ud, encUA_ua, encUA_ub, encUA_uf, src6Of_enc, ok_bind, pure_ok, decUA]

theorem ushl (d a b) : Statement (.ushl d a b) := by
  intro _ _
  change decode (encUA d a.enc b.enc 5) = _
  rw [decode_U _ (encUA_uset ..), decodeU_10 _ (encUA_major ..)]
  simp [encUA_ud, encUA_ua, encUA_ub, encUA_uf, src6Of_enc, ok_bind, pure_ok, decUA]

theorem ushr (d a b) : Statement (.ushr d a b) := by
  intro _ _
  change decode (encUA d a.enc b.enc 6) = _
  rw [decode_U _ (encUA_uset ..), decodeU_10 _ (encUA_major ..)]
  simp [encUA_ud, encUA_ua, encUA_ub, encUA_uf, src6Of_enc, ok_bind, pure_ok, decUA]

theorem usar (d a b) : Statement (.usar d a b) := by
  intro _ _
  change decode (encUA d a.enc b.enc 7) = _
  rw [decode_U _ (encUA_uset ..), decodeU_10 _ (encUA_major ..)]
  simp [encUA_ud, encUA_ua, encUA_ub, encUA_uf, src6Of_enc, ok_bind, pure_ok, decUA]

theorem umul (d a b) : Statement (.umul d a b) := by
  intro _ _
  change decode (encUA d a.enc b.enc 8) = _
  rw [decode_U _ (encUA_uset ..), decodeU_10 _ (encUA_major ..)]
  simp [encUA_ud, encUA_ua, encUA_ub, encUA_uf, src6Of_enc, ok_bind, pure_ok, decUA]

theorem umin (d a b) : Statement (.umin d a b) := by
  intro _ _
  change decode (encUA d a.enc b.enc 9) = _
  rw [decode_U _ (encUA_uset ..), decodeU_10 _ (encUA_major ..)]
  simp [encUA_ud, encUA_ua, encUA_ub, encUA_uf, src6Of_enc, ok_bind, pure_ok, decUA]

theorem umax (d a b) : Statement (.umax d a b) := by
  intro _ _
  change decode (encUA d a.enc b.enc 10) = _
  rw [decode_U _ (encUA_uset ..), decodeU_10 _ (encUA_major ..)]
  simp [encUA_ud, encUA_ua, encUA_ub, encUA_uf, src6Of_enc, ok_bind, pure_ok, decUA]

theorem umov (d a) : Statement (.umov d a) := by
  intro _ _
  change decode (encUA d a.enc 0 11) = _
  rw [decode_U _ (encUA_uset ..), decodeU_10 _ (encUA_major ..)]
  simp [encUA_ud, encUA_ua, encUA_ub, encUA_uf, src6Of_enc, ok_bind, pure_ok, decUA, src6Of_zero, src6Of_zero', guardD]

theorem ulea (d a b s) : Statement (.ulea d a b s) := by
  intro _ _
  obtain rfl | rfl | rfl | rfl := two_cases s
  · change decode (encUA d a.enc b.enc 12) = _
    rw [decode_U _ (encUA_uset ..), decodeU_10 _ (encUA_major ..)]
    simp [encUA_ud, encUA_ua, encUA_ub, encUA_uf, src6Of_enc, ok_bind, pure_ok, decUA]
  · change decode (encUA d a.enc b.enc 13) = _
    rw [decode_U _ (encUA_uset ..), decodeU_10 _ (encUA_major ..)]
    simp [encUA_ud, encUA_ua, encUA_ub, encUA_uf, src6Of_enc, ok_bind, pure_ok, decUA]
  · change decode (encUA d a.enc b.enc 14) = _
    rw [decode_U _ (encUA_uset ..), decodeU_10 _ (encUA_major ..)]
    simp [encUA_ud, encUA_ua, encUA_ub, encUA_uf, src6Of_enc, ok_bind, pure_ok, decUA]
  · change decode (encUA d a.enc b.enc 15) = _
    rw [decode_U _ (encUA_uset ..), decodeU_10 _ (encUA_major ..)]
    simp [encUA_ud, encUA_ua, encUA_ub, encUA_uf, src6Of_enc, ok_bind, pure_ok, decUA]

theorem ucmp (cc d a b) : Statement (.ucmp cc d a b) := by
  intro _ _
  cases cc
  · change decode (encUA d a.enc b.enc 16) = _
    rw [decode_U _ (encUA_uset ..), decodeU_10 _ (encUA_major ..)]
    simp [encUA_ud, encUA_ua, encUA_ub, encUA_uf, src6Of_enc, ok_bind, pure_ok, decUA, Cc.ofCode, named_some]
  · change decode (encUA d a.enc b.enc 17) = _
    rw [decode_U _ (encUA_uset ..), decodeU_10 _ (encUA_major ..)]
    simp [encUA_ud, encUA_ua, encUA_ub, encUA_uf, src6Of_enc, ok_bind, pure_ok, decUA, Cc.ofCode, named_some]
  · change decode (encUA d a.enc b.enc 18) = _
    rw [decode_U _ (encUA_uset ..), decodeU_10 _ (encUA_major ..)]
    simp [encUA_ud, encUA_ua, encUA_ub, encUA_uf, src6Of_enc, ok_bind, pure_ok, decUA, Cc.ofCode, named_some]
  · change decode (encUA d a.enc b.enc 19) = _
    rw [decode_U _ (encUA_uset ..), decodeU_10 _ (encUA_major ..)]
    simp [encUA_ud, encUA_ua, encUA_ub, encUA_uf, src6Of_enc, ok_bind, pure_ok, decUA, Cc.ofCode, named_some]
  · change decode (encUA d a.enc b.enc 20) = _
    rw [decode_U _ (encUA_uset ..), decodeU_10 _ (encUA_major ..)]
    simp [encUA_ud, encUA_ua, encUA_ub, encUA_uf, src6Of_enc, ok_bind, pure_ok, decUA, Cc.ofCode, named_some]
  · change decode (encUA d a.enc b.enc 21) = _
    rw [decode_U _ (encUA_uset ..), decodeU_10 _ (encUA_major ..)]
    simp [encUA_ud, encUA_ua, encUA_ub, encUA_uf, src6Of_enc, ok_bind, pure_ok, decUA, Cc.ofCode, named_some]
  · change decode (encUA d a.enc b.enc 22) = _
    rw [decode_U _ (encUA_uset ..), decodeU_10 _ (encUA_major ..)]
    simp [encUA_ud, encUA_ua, encUA_ub, encUA_uf, src6Of_enc, ok_bind, pure_ok, decUA, Cc.ofCode, named_some]
  · change decode (encUA d a.enc b.enc 23) = _
    rw [decode_U _ (encUA_uset ..), decodeU_10 _ (encUA_major ..)]
    simp [encUA_ud, encUA_ua, encUA_ub, encUA_uf, src6Of_enc, ok_bind, pure_ok, decUA, Cc.ofCode, named_some]
  · change decode (encUA d a.enc b.enc 24) = _
    rw [decode_U _ (encUA_uset ..), decodeU_10 _ (encUA_major ..)]
    simp [encUA_ud, encUA_ua, encUA_ub, encUA_uf, src6Of_enc, ok_bind, pure_ok, decUA, Cc.ofCode, named_some]
  · change decode (encUA d a.enc b.enc 25) = _
    rw [decode_U _ (encUA_uset ..), decodeU_10 _ (encUA_major ..)]
    simp [encUA_ud, encUA_ua, encUA_ub, encUA_uf, src6Of_enc, ok_bind, pure_ok, decUA, Cc.ofCode, named_some]

theorem usel (d a b) : Statement (.usel d a b) := by
  intro _ _
  change decode (encUA d a.enc b.enc 26) = _
  rw [decode_U _ (encUA_uset ..), decodeU_10 _ (encUA_major ..)]
  simp [encUA_ud, encUA_ua, encUA_ub, encUA_uf, src6Of_enc, ok_bind, pure_ok, decUA]

theorem umoviLo (d imm) : Statement (.umoviLo d imm) := by
  intro _ _
  change decode (encUK d 0 imm) = _
  rw [decode_U _ (encUK_uset ..), decodeU_11 _ (encUK_major ..)]
  simp [encUK_ud, encUK_uk, encUK_imm16]

theorem umoviSx (d imm) : Statement (.umoviSx d imm) := by
  intro _ _
  change decode (encUK d 1 imm) = _
  rw [decode_U _ (encUK_uset ..), decodeU_11 _ (encUK_major ..)]
  simp [encUK_ud, encUK_uk, encUK_imm16]

theorem umoviHi (d imm) : Statement (.umoviHi d imm) := by
  intro _ _
  change decode (encUK d 2 imm) = _
  rw [decode_U _ (encUK_uset ..), decodeU_11 _ (encUK_major ..)]
  simp [encUK_ud, encUK_uk, encUK_imm16]

theorem uld (d b imm) : Statement (.uld d b imm) := by
  intro hw _
  replace hw : (b.even && imm.toNat % 4 == 0) = true := hw
  simp only [Bool.and_eq_true] at hw
  change decode (encUM d b imm) = _
  rw [decode_U _ (encUM_uset ..), decodeU_12 _ (encUM_major ..)]
  simp [encUM_ud, encUM_ubase, encUM_off14, guardD, hw]

theorem resetBringUp (x1) : Statement (.resetBringUp x1) :=
  fun _ h => absurd (h : true = false) Bool.noConfusion
theorem submissionDoorbell (x1) : Statement (.submissionDoorbell x1) :=
  fun _ h => absurd (h : true = false) Bool.noConfusion
theorem sqctlWrite (x1) : Statement (.sqctlWrite x1) :=
  fun _ h => absurd (h : true = false) Bool.noConfusion
theorem rsizeWrite (x1 x2) : Statement (.rsizeWrite x1 x2) :=
  fun _ h => absurd (h : true = false) Bool.noConfusion
theorem detack (x1) : Statement (.detack x1) :=
  fun _ h => absurd (h : true = false) Bool.noConfusion
theorem framePointerWrite (x1 x2) : Statement (.framePointerWrite x1 x2) :=
  fun _ h => absurd (h : true = false) Bool.noConfusion
theorem registerWrite (x1 x2 x3 x4) : Statement (.registerWrite x1 x2 x3 x4) :=
  fun _ h => absurd (h : true = false) Bool.noConfusion
theorem hostRingEntryWrite (x1) : Statement (.hostRingEntryWrite x1) :=
  fun _ h => absurd (h : true = false) Bool.noConfusion
theorem hostBar2Read (x1 x2) : Statement (.hostBar2Read x1 x2) :=
  fun _ h => absurd (h : true = false) Bool.noConfusion
theorem hostBar2Write (x1 x2) : Statement (.hostBar2Write x1 x2) :=
  fun _ h => absurd (h : true = false) Bool.noConfusion
theorem sensorPacket (x1) : Statement (.sensorPacket x1) :=
  fun _ h => absurd (h : true = false) Bool.noConfusion
theorem scanoutFieldStart (x1) : Statement (.scanoutFieldStart x1) :=
  fun _ h => absurd (h : true = false) Bool.noConfusion
theorem columnGrant (x1) : Statement (.columnGrant x1) :=
  fun _ h => absurd (h : true = false) Bool.noConfusion
theorem crewSave (x1 x2) : Statement (.crewSave x1 x2) :=
  fun _ h => absurd (h : true = false) Bool.noConfusion
theorem saveTimeout (x1) : Statement (.saveTimeout x1) :=
  fun _ h => absurd (h : true = false) Bool.noConfusion
theorem crewResume (x1 x2) : Statement (.crewResume x1 x2) :=
  fun _ h => absurd (h : true = false) Bool.noConfusion
theorem crewTimerLapse (x1) : Statement (.crewTimerLapse x1) :=
  fun _ h => absurd (h : true = false) Bool.noConfusion
theorem remoteEnqAccept (x1) : Statement (.remoteEnqAccept x1) :=
  fun _ h => absurd (h : true = false) Bool.noConfusion
theorem enqQueueRoom (x1) : Statement (.enqQueueRoom x1) :=
  fun _ h => absurd (h : true = false) Bool.noConfusion
theorem crewLaunch (x1 x2) : Statement (.crewLaunch x1 x2) :=
  fun _ h => absurd (h : true = false) Bool.noConfusion
theorem crewStart (x1) : Statement (.crewStart x1) :=
  fun _ h => absurd (h : true = false) Bool.noConfusion
theorem crewEnd (x1) : Statement (.crewEnd x1) :=
  fun _ h => absurd (h : true = false) Bool.noConfusion
theorem ageingPromotion (x1 x2) : Statement (.ageingPromotion x1 x2) :=
  fun _ h => absurd (h : true = false) Bool.noConfusion
theorem pageWalk (x1) : Statement (.pageWalk x1) :=
  fun _ h => absurd (h : true = false) Bool.noConfusion
theorem walkComplete (x1 x2) : Statement (.walkComplete x1 x2) :=
  fun _ h => absurd (h : true = false) Bool.noConfusion
theorem pagingServiceReply (x1 x2 x3) : Statement (.pagingServiceReply x1 x2 x3) :=
  fun _ h => absurd (h : true = false) Bool.noConfusion
theorem taggedReply (x1 x2 x3) : Statement (.taggedReply x1 x2 x3) :=
  fun _ h => absurd (h : true = false) Bool.noConfusion
theorem copySectorRead (x1 x2 x3) : Statement (.copySectorRead x1 x2 x3) :=
  fun _ h => absurd (h : true = false) Bool.noConfusion
theorem copySectorLand (x1 x2 x3) : Statement (.copySectorLand x1 x2 x3) :=
  fun _ h => absurd (h : true = false) Bool.noConfusion
theorem amaxFold (x1 x2 x3) : Statement (.amaxFold x1 x2 x3) :=
  fun _ h => absurd (h : true = false) Bool.noConfusion
theorem obresSpaceFreed (x1) : Statement (.obresSpaceFreed x1) :=
  fun _ h => absurd (h : true = false) Bool.noConfusion
theorem matrixEngineHang (x1 x2) : Statement (.matrixEngineHang x1 x2) :=
  fun _ h => absurd (h : true = false) Bool.noConfusion
theorem ffRequestTakeup (x1 x2 x3) : Statement (.ffRequestTakeup x1 x2 x3) :=
  fun _ h => absurd (h : true = false) Bool.noConfusion
theorem texReply (x1 x2 x3) : Statement (.texReply x1 x2 x3) :=
  fun _ h => absurd (h : true = false) Bool.noConfusion
theorem travReply (x1 x2 x3) : Statement (.travReply x1 x2 x3) :=
  fun _ h => absurd (h : true = false) Bool.noConfusion
theorem rastRun (x1 x2 x3) : Statement (.rastRun x1 x2 x3) :=
  fun _ h => absurd (h : true = false) Bool.noConfusion
theorem thermalMigration (x1 x2) : Statement (.thermalMigration x1 x2) :=
  fun _ h => absurd (h : true = false) Bool.noConfusion
theorem columnFence (x1 x2 x3) : Statement (.columnFence x1 x2 x3) :=
  fun _ h => absurd (h : true = false) Bool.noConfusion
theorem faultRecordAppend (x1) : Statement (.faultRecordAppend x1) :=
  fun _ h => absurd (h : true = false) Bool.noConfusion
theorem dieFreeze (x1) : Statement (.dieFreeze x1) :=
  fun _ h => absurd (h : true = false) Bool.noConfusion
theorem halyardMessage (x1 x2 x3) : Statement (.halyardMessage x1 x2 x3) :=
  fun _ h => absurd (h : true = false) Bool.noConfusion
theorem napTimeout (x1) : Statement (.napTimeout x1) :=
  fun _ h => absurd (h : true = false) Bool.noConfusion
theorem yieldExpiry (x1) : Statement (.yieldExpiry x1) :=
  fun _ h => absurd (h : true = false) Bool.noConfusion
theorem matrixOperationFinished (x1 x2) : Statement (.matrixOperationFinished x1 x2) :=
  fun _ h => absurd (h : true = false) Bool.noConfusion
theorem matrixEngineResetComplete (x1 x2) : Statement (.matrixEngineResetComplete x1 x2) :=
  fun _ h => absurd (h : true = false) Bool.noConfusion
theorem cwbComplete (x1) : Statement (.cwbComplete x1) :=
  fun _ h => absurd (h : true = false) Bool.noConfusion
theorem cinvComplete (x1) : Statement (.cinvComplete x1) :=
  fun _ h => absurd (h : true = false) Bool.noConfusion
theorem iinvComplete (x1) : Statement (.iinvComplete x1) :=
  fun _ h => absurd (h : true = false) Bool.noConfusion
theorem ipinComplete (x1) : Statement (.ipinComplete x1) :=
  fun _ h => absurd (h : true = false) Bool.noConfusion
theorem instructionFetchReturn (x1) : Statement (.instructionFetchReturn x1) :=
  fun _ h => absurd (h : true = false) Bool.noConfusion
theorem scanoutLutWrite (x1 x2 x3 x4 x5) : Statement (.scanoutLutWrite x1 x2 x3 x4 x5) :=
  fun _ h => absurd (h : true = false) Bool.noConfusion
theorem accessTableWrite (x1 x2 x3 x4) : Statement (.accessTableWrite x1 x2 x3 x4) :=
  fun _ h => absurd (h : true = false) Bool.noConfusion
theorem hostAtomicop (x1 x2 x3) : Statement (.hostAtomicop x1 x2 x3) :=
  fun _ h => absurd (h : true = false) Bool.noConfusion
theorem leafChange (x1) : Statement (.leafChange x1) :=
  fun _ h => absurd (h : true = false) Bool.noConfusion
theorem thermalShutdown (x1) : Statement (.thermalShutdown x1) :=
  fun _ h => absurd (h : true = false) Bool.noConfusion
theorem remapScrub (x1 x2 x3 x4) : Statement (.remapScrub x1 x2 x3 x4) :=
  fun _ h => absurd (h : true = false) Bool.noConfusion
theorem fatalError (x1 x2) : Statement (.fatalError x1 x2) :=
  fun _ h => absurd (h : true = false) Bool.noConfusion
theorem nop : Statement (.nop) := by
  intro hw _
  rfl

theorem syscIdentity : Statement (.syscIdentity) := by
  intro hw _
  change decode (encLK 0x04 0 0 0) = _
  rw [decode_L _ (encLK_uset ..), decodeL_04 (encLK 0x04 0 0 0) (encLK_major ..)]
  simp [encLK_d, encLK_k2, encLK_imm16, srcOf_enc, ok_bind, pure_ok, guardD]

theorem syscBudget : Statement (.syscBudget) := by
  intro hw _
  change decode (encLK 0x04 0 0 1) = _
  rw [decode_L _ (encLK_uset ..), decodeL_04 (encLK 0x04 0 0 1) (encLK_major ..)]
  simp [encLK_d, encLK_k2, encLK_imm16, srcOf_enc, ok_bind, pure_ok, guardD]

theorem syscDispose : Statement (.syscDispose) := by
  intro hw _
  change decode (encLK 0x04 0 0 16) = _
  rw [decode_L _ (encLK_uset ..), decodeL_04 (encLK 0x04 0 0 16) (encLK_major ..)]
  simp [encLK_d, encLK_k2, encLK_imm16, srcOf_enc, ok_bind, pure_ok, guardD]

theorem ret : Statement (.ret) := by
  intro hw _
  rfl

theorem exit : Statement (.exit) := by
  intro hw _
  rfl

theorem yield : Statement (.yield) := by
  intro hw _
  rfl

theorem fbar : Statement (.fbar) := by
  intro hw _
  change decode (encLX 0x7D 0 0 0 3) = _
  rw [decode_L _ (encLX_uset ..), decodeL_7D (encLX 0x7D 0 0 0 3) (encLX_major ..)]
  simp [encLX_d, encLX_y, encLX_z, encLX_f6, dec7D, srcOf_enc, ok_bind, pure_ok, guardD]

theorem launchPacket : Statement (.launchPacket) :=
  fun _ h => absurd (h : true = false) Bool.noConfusion
theorem dispose : Statement (.dispose) :=
  fun _ h => absurd (h : true = false) Bool.noConfusion
theorem pagereply : Statement (.pagereply) :=
  fun _ h => absurd (h : true = false) Bool.noConfusion
theorem clearkill : Statement (.clearkill) :=
  fun _ h => absurd (h : true = false) Bool.noConfusion
theorem qread : Statement (.qread) :=
  fun _ h => absurd (h : true = false) Bool.noConfusion
theorem qdrain : Statement (.qdrain) :=
  fun _ h => absurd (h : true = false) Bool.noConfusion
theorem qlaunch : Statement (.qlaunch) :=
  fun _ h => absurd (h : true = false) Bool.noConfusion
theorem gsreset : Statement (.gsreset) :=
  fun _ h => absurd (h : true = false) Bool.noConfusion
theorem colstate : Statement (.colstate) :=
  fun _ h => absurd (h : true = false) Bool.noConfusion
theorem counts : Statement (.counts) :=
  fun _ h => absurd (h : true = false) Bool.noConfusion
theorem attest : Statement (.attest) :=
  fun _ h => absurd (h : true = false) Bool.noConfusion
theorem loadcode : Statement (.loadcode) :=
  fun _ h => absurd (h : true = false) Bool.noConfusion
theorem hostDetach : Statement (.hostDetach) :=
  fun _ h => absurd (h : true = false) Bool.noConfusion
theorem linkRetrain : Statement (.linkRetrain) :=
  fun _ h => absurd (h : true = false) Bool.noConfusion
theorem poseMirror : Statement (.poseMirror) :=
  fun _ h => absurd (h : true = false) Bool.noConfusion
theorem issueCycle : Statement (.issueCycle) :=
  fun _ h => absurd (h : true = false) Bool.noConfusion
theorem ptsTick : Statement (.ptsTick) :=
  fun _ h => absurd (h : true = false) Bool.noConfusion
theorem quiescenceUpdate : Statement (.quiescenceUpdate) :=
  fun _ h => absurd (h : true = false) Bool.noConfusion
theorem powerLoss : Statement (.powerLoss) :=
  fun _ h => absurd (h : true = false) Bool.noConfusion
end Sys2Proof.Laws.Encoding
end

