-- ==== Sys2Proof/Laws/State.lean ====
section
/-! SUPPORT. What each named update of the state leaves alone, field by field, and what the part it changes reads as. Every
frame lemma is true by unfolding the update once, so that no later proof unfolds a record update. -/

namespace Sys2Proof.Laws

open Sys2Proof Sys2Proof.Machine

/-! ## Fields that an update leaves alone -/

@[simp] theorem modDie_power (s : State) (d : Nat) (f : Die → Die) : (s.modDie d f).power = s.power := by
  unfold State.modDie; split <;> rfl
@[simp] theorem modDie_fatal (s : State) (d : Nat) (f : Die → Die) : (s.modDie d f).fatal = s.fatal := by
  unfold State.modDie; split <;> rfl
@[simp] theorem modDie_ns (s : State) (d : Nat) (f : Die → Die) : (s.modDie d f).ns = s.ns := by
  unfold State.modDie; split <;> rfl
@[simp] theorem modDie_nsPart (s : State) (d : Nat) (f : Die → Die) : (s.modDie d f).nsPart = s.nsPart := by
  unfold State.modDie; split <;> rfl
@[simp] theorem modDie_attached (s : State) (d : Nat) (f : Die → Die) : (s.modDie d f).attached = s.attached := by
  unfold State.modDie; split <;> rfl
@[simp] theorem modDie_enumerated (s : State) (d : Nat) (f : Die → Die) : (s.modDie d f).enumerated = s.enumerated := by
  unfold State.modDie; split <;> rfl
@[simp] theorem modDie_heldLaunch (s : State) (d : Nat) (f : Die → Die) : (s.modDie d f).heldLaunch = s.heldLaunch := by
  unfold State.modDie; split <;> rfl
@[simp] theorem modDie_mem (s : State) (d : Nat) (f : Die → Die) : (s.modDie d f).mem = s.mem := by
  unfold State.modDie; split <;> rfl
@[simp] theorem modDie_stamps (s : State) (d : Nat) (f : Die → Die) : (s.modDie d f).stamps = s.stamps := by
  unfold State.modDie; split <;> rfl
@[simp] theorem modDie_others (s : State) (d : Nat) (f : Die → Die) : (s.modDie d f).others = s.others := by
  unfold State.modDie; split <;> rfl
@[simp] theorem modDie_hostPts (s : State) (d : Nat) (f : Die → Die) : (s.modDie d f).hostPts = s.hostPts := by
  unfold State.modDie; split <;> rfl
@[simp] theorem modDie_poison (s : State) (d : Nat) (f : Die → Die) : (s.modDie d f).poison = s.poison := by
  unfold State.modDie; split <;> rfl
@[simp] theorem modDie_damage (s : State) (d : Nat) (f : Die → Die) : (s.modDie d f).damage = s.damage := by
  unfold State.modDie; split <;> rfl
@[simp] theorem modDie_execLeaves (s : State) (d : Nat) (f : Die → Die) : (s.modDie d f).execLeaves = s.execLeaves := by
  unfold State.modDie; split <;> rfl
@[simp] theorem modDie_codePages (s : State) (d : Nat) (f : Die → Die) : (s.modDie d f).codePages = s.codePages := by
  unfold State.modDie; split <;> rfl
@[simp] theorem modDie_hostMem (s : State) (d : Nat) (f : Die → Die) : (s.modDie d f).hostMem = s.hostMem := by
  unfold State.modDie; split <;> rfl
@[simp] theorem modDie_hostOut (s : State) (d : Nat) (f : Die → Die) : (s.modDie d f).hostOut = s.hostOut := by
  unfold State.modDie; split <;> rfl
@[simp] theorem modDie_hostLost (s : State) (d : Nat) (f : Die → Die) : (s.modDie d f).hostLost = s.hostLost := by
  unfold State.modDie; split <;> rfl
@[simp] theorem modDie_host (s : State) (d : Nat) (f : Die → Die) : (s.modDie d f).host = s.host := by
  unfold State.modDie; split <;> rfl
@[simp] theorem modDie_mailbox (s : State) (d : Nat) (f : Die → Die) : (s.modDie d f).mailbox = s.mailbox := by
  unfold State.modDie; split <;> rfl
@[simp] theorem modDie_msix (s : State) (d : Nat) (f : Die → Die) : (s.modDie d f).msix = s.msix := by
  unfold State.modDie; split <;> rfl
@[simp] theorem modDie_msiSent (s : State) (d : Nat) (f : Die → Die) : (s.modDie d f).msiSent = s.msiSent := by
  unfold State.modDie; split <;> rfl
@[simp] theorem modDie_replies (s : State) (d : Nat) (f : Die → Die) : (s.modDie d f).replies = s.replies := by
  unfold State.modDie; split <;> rfl
@[simp] theorem modDie_cols (s : State) (d : Nat) (f : Die → Die) : (s.modDie d f).cols = s.cols := by
  unfold State.modDie; split <;> rfl
@[simp] theorem modDie_crews (s : State) (d : Nat) (f : Die → Die) : (s.modDie d f).crews = s.crews := by
  unfold State.modDie; split <;> rfl
@[simp] theorem modDie_regions (s : State) (d : Nat) (f : Die → Die) : (s.modDie d f).regions = s.regions := by
  unfold State.modDie; split <;> rfl
@[simp] theorem modDie_kills (s : State) (d : Nat) (f : Die → Die) : (s.modDie d f).kills = s.kills := by
  unfold State.modDie; split <;> rfl
@[simp] theorem modDie_tickets (s : State) (d : Nat) (f : Die → Die) : (s.modDie d f).tickets = s.tickets := by
  unfold State.modDie; split <;> rfl
@[simp] theorem modDie_outgoing (s : State) (d : Nat) (f : Die → Die) : (s.modDie d f).outgoing = s.outgoing := by
  unfold State.modDie; split <;> rfl
@[simp] theorem modDie_transit (s : State) (d : Nat) (f : Die → Die) : (s.modDie d f).transit = s.transit := by
  unfold State.modDie; split <;> rfl
@[simp] theorem modDie_launching (s : State) (d : Nat) (f : Die → Die) : (s.modDie d f).launching = s.launching := by
  unfold State.modDie; split <;> rfl
@[simp] theorem modDie_victims (s : State) (d : Nat) (f : Die → Die) : (s.modDie d f).victims = s.victims := by
  unfold State.modDie; split <;> rfl
@[simp] theorem modDie_targets (s : State) (d : Nat) (f : Die → Die) : (s.modDie d f).targets = s.targets := by
  unfold State.modDie; split <;> rfl
@[simp] theorem modDie_grantNs (s : State) (d : Nat) (f : Die → Die) : (s.modDie d f).grantNs = s.grantNs := by
  unfold State.modDie; split <;> rfl
@[simp] theorem modDie_agenda (s : State) (d : Nat) (f : Die → Die) : (s.modDie d f).agenda = s.agenda := by
  unfold State.modDie; split <;> rfl
@[simp] theorem modDie_pending (s : State) (d : Nat) (f : Die → Die) : (s.modDie d f).pending = s.pending := by
  unfold State.modDie; split <;> rfl
@[simp] theorem modDie_cur (s : State) (d : Nat) (f : Die → Die) : (s.modDie d f).cur = s.cur := by
  unfold State.modDie; split <;> rfl
@[simp] theorem modDie_oracle (s : State) (d : Nat) (f : Die → Die) : (s.modDie d f).oracle = s.oracle := by
  unfold State.modDie; split <;> rfl
@[simp] theorem modDie_store (s : State) (d : Nat) (f : Die → Die) : (s.modDie d f).store = s.store := by
  unfold State.modDie; split <;> rfl
@[simp] theorem modDie_past (s : State) (d : Nat) (f : Die → Die) : (s.modDie d f).past = s.past := by
  unfold State.modDie; split <;> rfl
@[simp] theorem modDie_linePast (s : State) (d : Nat) (f : Die → Die) : (s.modDie d f).linePast = s.linePast := by
  unfold State.modDie; split <;> rfl
@[simp] theorem modDie_heldSteps (s : State) (d : Nat) (f : Die → Die) : (s.modDie d f).heldSteps = s.heldSteps := by
  unfold State.modDie; split <;> rfl
@[simp] theorem modDie_walkedFor (s : State) (d : Nat) (f : Die → Die) : (s.modDie d f).walkedFor = s.walkedFor := by
  unfold State.modDie; split <;> rfl
@[simp] theorem modDie_missedPage (s : State) (d : Nat) (f : Die → Die) : (s.modDie d f).missedPage = s.missedPage := by
  unfold State.modDie; split <;> rfl
@[simp] theorem modDie_serial (s : State) (d : Nat) (f : Die → Die) : (s.modDie d f).serial = s.serial := by
  unfold State.modDie; split <;> rfl

@[simp] theorem modCol_power (s : State) (d c : Nat) (f : Column → Column) : (s.modCol d c f).power = s.power := rfl
@[simp] theorem modCol_fatal (s : State) (d c : Nat) (f : Column → Column) : (s.modCol d c f).fatal = s.fatal := rfl
@[simp] theorem modCol_ns (s : State) (d c : Nat) (f : Column → Column) : (s.modCol d c f).ns = s.ns := rfl
@[simp] theorem modCol_nsPart (s : State) (d c : Nat) (f : Column → Column) : (s.modCol d c f).nsPart = s.nsPart := rfl
@[simp] theorem modCol_attached (s : State) (d c : Nat) (f : Column → Column) : (s.modCol d c f).attached = s.attached := rfl
@[simp] theorem modCol_enumerated (s : State) (d c : Nat) (f : Column → Column) : (s.modCol d c f).enumerated = s.enumerated := rfl
@[simp] theorem modCol_heldLaunch (s : State) (d c : Nat) (f : Column → Column) : (s.modCol d c f).heldLaunch = s.heldLaunch := rfl
@[simp] theorem modCol_mem (s : State) (d c : Nat) (f : Column → Column) : (s.modCol d c f).mem = s.mem := rfl
@[simp] theorem modCol_stamps (s : State) (d c : Nat) (f : Column → Column) : (s.modCol d c f).stamps = s.stamps := rfl
@[simp] theorem modCol_others (s : State) (d c : Nat) (f : Column → Column) : (s.modCol d c f).others = s.others := rfl
@[simp] theorem modCol_hostPts (s : State) (d c : Nat) (f : Column → Column) : (s.modCol d c f).hostPts = s.hostPts := rfl
@[simp] theorem modCol_poison (s : State) (d c : Nat) (f : Column → Column) : (s.modCol d c f).poison = s.poison := rfl
@[simp] theorem modCol_damage (s : State) (d c : Nat) (f : Column → Column) : (s.modCol d c f).damage = s.damage := rfl
@[simp] theorem modCol_execLeaves (s : State) (d c : Nat) (f : Column → Column) : (s.modCol d c f).execLeaves = s.execLeaves := rfl
@[simp] theorem modCol_codePages (s : State) (d c : Nat) (f : Column → Column) : (s.modCol d c f).codePages = s.codePages := rfl
@[simp] theorem modCol_hostMem (s : State) (d c : Nat) (f : Column → Column) : (s.modCol d c f).hostMem = s.hostMem := rfl
@[simp] theorem modCol_hostOut (s : State) (d c : Nat) (f : Column → Column) : (s.modCol d c f).hostOut = s.hostOut := rfl
@[simp] theorem modCol_hostLost (s : State) (d c : Nat) (f : Column → Column) : (s.modCol d c f).hostLost = s.hostLost := rfl
@[simp] theorem modCol_host (s : State) (d c : Nat) (f : Column → Column) : (s.modCol d c f).host = s.host := rfl
@[simp] theorem modCol_mailbox (s : State) (d c : Nat) (f : Column → Column) : (s.modCol d c f).mailbox = s.mailbox := rfl
@[simp] theorem modCol_msix (s : State) (d c : Nat) (f : Column → Column) : (s.modCol d c f).msix = s.msix := rfl
@[simp] theorem modCol_msiSent (s : State) (d c : Nat) (f : Column → Column) : (s.modCol d c f).msiSent = s.msiSent := rfl
@[simp] theorem modCol_replies (s : State) (d c : Nat) (f : Column → Column) : (s.modCol d c f).replies = s.replies := rfl
@[simp] theorem modCol_die0 (s : State) (d c : Nat) (f : Column → Column) : (s.modCol d c f).die0 = s.die0 := rfl
@[simp] theorem modCol_die1 (s : State) (d c : Nat) (f : Column → Column) : (s.modCol d c f).die1 = s.die1 := rfl
@[simp] theorem modCol_crews (s : State) (d c : Nat) (f : Column → Column) : (s.modCol d c f).crews = s.crews := rfl
@[simp] theorem modCol_regions (s : State) (d c : Nat) (f : Column → Column) : (s.modCol d c f).regions = s.regions := rfl
@[simp] theorem modCol_kills (s : State) (d c : Nat) (f : Column → Column) : (s.modCol d c f).kills = s.kills := rfl
@[simp] theorem modCol_tickets (s : State) (d c : Nat) (f : Column → Column) : (s.modCol d c f).tickets = s.tickets := rfl
@[simp] theorem modCol_outgoing (s : State) (d c : Nat) (f : Column → Column) : (s.modCol d c f).outgoing = s.outgoing := rfl
@[simp] theorem modCol_transit (s : State) (d c : Nat) (f : Column → Column) : (s.modCol d c f).transit = s.transit := rfl
@[simp] theorem modCol_launching (s : State) (d c : Nat) (f : Column → Column) : (s.modCol d c f).launching = s.launching := rfl
@[simp] theorem modCol_victims (s : State) (d c : Nat) (f : Column → Column) : (s.modCol d c f).victims = s.victims := rfl
@[simp] theorem modCol_targets (s : State) (d c : Nat) (f : Column → Column) : (s.modCol d c f).targets = s.targets := rfl
@[simp] theorem modCol_grantNs (s : State) (d c : Nat) (f : Column → Column) : (s.modCol d c f).grantNs = s.grantNs := rfl
@[simp] theorem modCol_agenda (s : State) (d c : Nat) (f : Column → Column) : (s.modCol d c f).agenda = s.agenda := rfl
@[simp] theorem modCol_pending (s : State) (d c : Nat) (f : Column → Column) : (s.modCol d c f).pending = s.pending := rfl
@[simp] theorem modCol_cur (s : State) (d c : Nat) (f : Column → Column) : (s.modCol d c f).cur = s.cur := rfl
@[simp] theorem modCol_oracle (s : State) (d c : Nat) (f : Column → Column) : (s.modCol d c f).oracle = s.oracle := rfl
@[simp] theorem modCol_store (s : State) (d c : Nat) (f : Column → Column) : (s.modCol d c f).store = s.store := rfl
@[simp] theorem modCol_past (s : State) (d c : Nat) (f : Column → Column) : (s.modCol d c f).past = s.past := rfl
@[simp] theorem modCol_linePast (s : State) (d c : Nat) (f : Column → Column) : (s.modCol d c f).linePast = s.linePast := rfl
@[simp] theorem modCol_heldSteps (s : State) (d c : Nat) (f : Column → Column) : (s.modCol d c f).heldSteps = s.heldSteps := rfl
@[simp] theorem modCol_walkedFor (s : State) (d c : Nat) (f : Column → Column) : (s.modCol d c f).walkedFor = s.walkedFor := rfl
@[simp] theorem modCol_missedPage (s : State) (d c : Nat) (f : Column → Column) : (s.modCol d c f).missedPage = s.missedPage := rfl
@[simp] theorem modCol_serial (s : State) (d c : Nat) (f : Column → Column) : (s.modCol d c f).serial = s.serial := rfl

@[simp] theorem modCrew_power (s : State) (p : CrewAt) (f : Crew → Crew) : (s.modCrew p f).power = s.power := rfl
@[simp] theorem modCrew_fatal (s : State) (p : CrewAt) (f : Crew → Crew) : (s.modCrew p f).fatal = s.fatal := rfl
@[simp] theorem modCrew_ns (s : State) (p : CrewAt) (f : Crew → Crew) : (s.modCrew p f).ns = s.ns := rfl
@[simp] theorem modCrew_nsPart (s : State) (p : CrewAt) (f : Crew → Crew) : (s.modCrew p f).nsPart = s.nsPart := rfl
@[simp] theorem modCrew_attached (s : State) (p : CrewAt) (f : Crew → Crew) : (s.modCrew p f).attached = s.attached := rfl
@[simp] theorem modCrew_enumerated (s : State) (p : CrewAt) (f : Crew → Crew) : (s.modCrew p f).enumerated = s.enumerated := rfl
@[simp] theorem modCrew_heldLaunch (s : State) (p : CrewAt) (f : Crew → Crew) : (s.modCrew p f).heldLaunch = s.heldLaunch := rfl
@[simp] theorem modCrew_mem (s : State) (p : CrewAt) (f : Crew → Crew) : (s.modCrew p f).mem = s.mem := rfl
@[simp] theorem modCrew_stamps (s : State) (p : CrewAt) (f : Crew → Crew) : (s.modCrew p f).stamps = s.stamps := rfl
@[simp] theorem modCrew_others (s : State) (p : CrewAt) (f : Crew → Crew) : (s.modCrew p f).others = s.others := rfl
@[simp] theorem modCrew_hostPts (s : State) (p : CrewAt) (f : Crew → Crew) : (s.modCrew p f).hostPts = s.hostPts := rfl
@[simp] theorem modCrew_poison (s : State) (p : CrewAt) (f : Crew → Crew) : (s.modCrew p f).poison = s.poison := rfl
@[simp] theorem modCrew_damage (s : State) (p : CrewAt) (f : Crew → Crew) : (s.modCrew p f).damage = s.damage := rfl
@[simp] theorem modCrew_execLeaves (s : State) (p : CrewAt) (f : Crew → Crew) : (s.modCrew p f).execLeaves = s.execLeaves := rfl
@[simp] theorem modCrew_codePages (s : State) (p : CrewAt) (f : Crew → Crew) : (s.modCrew p f).codePages = s.codePages := rfl
@[simp] theorem modCrew_hostMem (s : State) (p : CrewAt) (f : Crew → Crew) : (s.modCrew p f).hostMem = s.hostMem := rfl
@[simp] theorem modCrew_hostOut (s : State) (p : CrewAt) (f : Crew → Crew) : (s.modCrew p f).hostOut = s.hostOut := rfl
@[simp] theorem modCrew_hostLost (s : State) (p : CrewAt) (f : Crew → Crew) : (s.modCrew p f).hostLost = s.hostLost := rfl
@[simp] theorem modCrew_host (s : State) (p : CrewAt) (f : Crew → Crew) : (s.modCrew p f).host = s.host := rfl
@[simp] theorem modCrew_mailbox (s : State) (p : CrewAt) (f : Crew → Crew) : (s.modCrew p f).mailbox = s.mailbox := rfl
@[simp] theorem modCrew_msix (s : State) (p : CrewAt) (f : Crew → Crew) : (s.modCrew p f).msix = s.msix := rfl
@[simp] theorem modCrew_msiSent (s : State) (p : CrewAt) (f : Crew → Crew) : (s.modCrew p f).msiSent = s.msiSent := rfl
@[simp] theorem modCrew_replies (s : State) (p : CrewAt) (f : Crew → Crew) : (s.modCrew p f).replies = s.replies := rfl
@[simp] theorem modCrew_die0 (s : State) (p : CrewAt) (f : Crew → Crew) : (s.modCrew p f).die0 = s.die0 := rfl
@[simp] theorem modCrew_die1 (s : State) (p : CrewAt) (f : Crew → Crew) : (s.modCrew p f).die1 = s.die1 := rfl
@[simp] theorem modCrew_cols (s : State) (p : CrewAt) (f : Crew → Crew) : (s.modCrew p f).cols = s.cols := rfl
@[simp] theorem modCrew_regions (s : State) (p : CrewAt) (f : Crew → Crew) : (s.modCrew p f).regions = s.regions := rfl
@[simp] theorem modCrew_kills (s : State) (p : CrewAt) (f : Crew → Crew) : (s.modCrew p f).kills = s.kills := rfl
@[simp] theorem modCrew_tickets (s : State) (p : CrewAt) (f : Crew → Crew) : (s.modCrew p f).tickets = s.tickets := rfl
@[simp] theorem modCrew_outgoing (s : State) (p : CrewAt) (f : Crew → Crew) : (s.modCrew p f).outgoing = s.outgoing := rfl
@[simp] theorem modCrew_transit (s : State) (p : CrewAt) (f : Crew → Crew) : (s.modCrew p f).transit = s.transit := rfl
@[simp] theorem modCrew_launching (s : State) (p : CrewAt) (f : Crew → Crew) : (s.modCrew p f).launching = s.launching := rfl
@[simp] theorem modCrew_victims (s : State) (p : CrewAt) (f : Crew → Crew) : (s.modCrew p f).victims = s.victims := rfl
@[simp] theorem modCrew_targets (s : State) (p : CrewAt) (f : Crew → Crew) : (s.modCrew p f).targets = s.targets := rfl
@[simp] theorem modCrew_grantNs (s : State) (p : CrewAt) (f : Crew → Crew) : (s.modCrew p f).grantNs = s.grantNs := rfl
@[simp] theorem modCrew_agenda (s : State) (p : CrewAt) (f : Crew → Crew) : (s.modCrew p f).agenda = s.agenda := rfl
@[simp] theorem modCrew_pending (s : State) (p : CrewAt) (f : Crew → Crew) : (s.modCrew p f).pending = s.pending := rfl
@[simp] theorem modCrew_cur (s : State) (p : CrewAt) (f : Crew → Crew) : (s.modCrew p f).cur = s.cur := rfl
@[simp] theorem modCrew_oracle (s : State) (p : CrewAt) (f : Crew → Crew) : (s.modCrew p f).oracle = s.oracle := rfl
@[simp] theorem modCrew_store (s : State) (p : CrewAt) (f : Crew → Crew) : (s.modCrew p f).store = s.store := rfl
@[simp] theorem modCrew_past (s : State) (p : CrewAt) (f : Crew → Crew) : (s.modCrew p f).past = s.past := rfl
@[simp] theorem modCrew_linePast (s : State) (p : CrewAt) (f : Crew → Crew) : (s.modCrew p f).linePast = s.linePast := rfl
@[simp] theorem modCrew_heldSteps (s : State) (p : CrewAt) (f : Crew → Crew) : (s.modCrew p f).heldSteps = s.heldSteps := rfl
@[simp] theorem modCrew_walkedFor (s : State) (p : CrewAt) (f : Crew → Crew) : (s.modCrew p f).walkedFor = s.walkedFor := rfl
@[simp] theorem modCrew_missedPage (s : State) (p : CrewAt) (f : Crew → Crew) : (s.modCrew p f).missedPage = s.missedPage := rfl
@[simp] theorem modCrew_serial (s : State) (p : CrewAt) (f : Crew → Crew) : (s.modCrew p f).serial = s.serial := rfl

@[simp] theorem modThread_power (s : State) (p : CrewAt) (t : Nat) (f : Thread → Thread) : (s.modThread p t f).power = s.power := rfl
@[simp] theorem modThread_fatal (s : State) (p : CrewAt) (t : Nat) (f : Thread → Thread) : (s.modThread p t f).fatal = s.fatal := rfl
@[simp] theorem modThread_ns (s : State) (p : CrewAt) (t : Nat) (f : Thread → Thread) : (s.modThread p t f).ns = s.ns := rfl
@[simp] theorem modThread_nsPart (s : State) (p : CrewAt) (t : Nat) (f : Thread → Thread) : (s.modThread p t f).nsPart = s.nsPart := rfl
@[simp] theorem modThread_attached (s : State) (p : CrewAt) (t : Nat) (f : Thread → Thread) : (s.modThread p t f).attached = s.attached := rfl
@[simp] theorem modThread_enumerated (s : State) (p : CrewAt) (t : Nat) (f : Thread → Thread) : (s.modThread p t f).enumerated = s.enumerated := rfl
@[simp] theorem modThread_heldLaunch (s : State) (p : CrewAt) (t : Nat) (f : Thread → Thread) : (s.modThread p t f).heldLaunch = s.heldLaunch := rfl
@[simp] theorem modThread_mem (s : State) (p : CrewAt) (t : Nat) (f : Thread → Thread) : (s.modThread p t f).mem = s.mem := rfl
@[simp] theorem modThread_stamps (s : State) (p : CrewAt) (t : Nat) (f : Thread → Thread) : (s.modThread p t f).stamps = s.stamps := rfl
@[simp] theorem modThread_others (s : State) (p : CrewAt) (t : Nat) (f : Thread → Thread) : (s.modThread p t f).others = s.others := rfl
@[simp] theorem modThread_hostPts (s : State) (p : CrewAt) (t : Nat) (f : Thread → Thread) : (s.modThread p t f).hostPts = s.hostPts := rfl
@[simp] theorem modThread_poison (s : State) (p : CrewAt) (t : Nat) (f : Thread → Thread) : (s.modThread p t f).poison = s.poison := rfl
@[simp] theorem modThread_damage (s : State) (p : CrewAt) (t : Nat) (f : Thread → Thread) : (s.modThread p t f).damage = s.damage := rfl
@[simp] theorem modThread_execLeaves (s : State) (p : CrewAt) (t : Nat) (f : Thread → Thread) : (s.modThread p t f).execLeaves = s.execLeaves := rfl
@[simp] theorem modThread_codePages (s : State) (p : CrewAt) (t : Nat) (f : Thread → Thread) : (s.modThread p t f).codePages = s.codePages := rfl
@[simp] theorem modThread_hostMem (s : State) (p : CrewAt) (t : Nat) (f : Thread → Thread) : (s.modThread p t f).hostMem = s.hostMem := rfl
@[simp] theorem modThread_hostOut (s : State) (p : CrewAt) (t : Nat) (f : Thread → Thread) : (s.modThread p t f).hostOut = s.hostOut := rfl
@[simp] theorem modThread_hostLost (s : State) (p : CrewAt) (t : Nat) (f : Thread → Thread) : (s.modThread p t f).hostLost = s.hostLost := rfl
@[simp] theorem modThread_host (s : State) (p : CrewAt) (t : Nat) (f : Thread → Thread) : (s.modThread p t f).host = s.host := rfl
@[simp] theorem modThread_mailbox (s : State) (p : CrewAt) (t : Nat) (f : Thread → Thread) : (s.modThread p t f).mailbox = s.mailbox := rfl
@[simp] theorem modThread_msix (s : State) (p : CrewAt) (t : Nat) (f : Thread → Thread) : (s.modThread p t f).msix = s.msix := rfl
@[simp] theorem modThread_msiSent (s : State) (p : CrewAt) (t : Nat) (f : Thread → Thread) : (s.modThread p t f).msiSent = s.msiSent := rfl
@[simp] theorem modThread_replies (s : State) (p : CrewAt) (t : Nat) (f : Thread → Thread) : (s.modThread p t f).replies = s.replies := rfl
@[simp] theorem modThread_die0 (s : State) (p : CrewAt) (t : Nat) (f : Thread → Thread) : (s.modThread p t f).die0 = s.die0 := rfl
@[simp] theorem modThread_die1 (s : State) (p : CrewAt) (t : Nat) (f : Thread → Thread) : (s.modThread p t f).die1 = s.die1 := rfl
@[simp] theorem modThread_cols (s : State) (p : CrewAt) (t : Nat) (f : Thread → Thread) : (s.modThread p t f).cols = s.cols := rfl
@[simp] theorem modThread_regions (s : State) (p : CrewAt) (t : Nat) (f : Thread → Thread) : (s.modThread p t f).regions = s.regions := rfl
@[simp] theorem modThread_kills (s : State) (p : CrewAt) (t : Nat) (f : Thread → Thread) : (s.modThread p t f).kills = s.kills := rfl
@[simp] theorem modThread_tickets (s : State) (p : CrewAt) (t : Nat) (f : Thread → Thread) : (s.modThread p t f).tickets = s.tickets := rfl
@[simp] theorem modThread_outgoing (s : State) (p : CrewAt) (t : Nat) (f : Thread → Thread) : (s.modThread p t f).outgoing = s.outgoing := rfl
@[simp] theorem modThread_transit (s : State) (p : CrewAt) (t : Nat) (f : Thread → Thread) : (s.modThread p t f).transit = s.transit := rfl
@[simp] theorem modThread_launching (s : State) (p : CrewAt) (t : Nat) (f : Thread → Thread) : (s.modThread p t f).launching = s.launching := rfl
@[simp] theorem modThread_victims (s : State) (p : CrewAt) (t : Nat) (f : Thread → Thread) : (s.modThread p t f).victims = s.victims := rfl
@[simp] theorem modThread_targets (s : State) (p : CrewAt) (t : Nat) (f : Thread → Thread) : (s.modThread p t f).targets = s.targets := rfl
@[simp] theorem modThread_grantNs (s : State) (p : CrewAt) (t : Nat) (f : Thread → Thread) : (s.modThread p t f).grantNs = s.grantNs := rfl
@[simp] theorem modThread_agenda (s : State) (p : CrewAt) (t : Nat) (f : Thread → Thread) : (s.modThread p t f).agenda = s.agenda := rfl
@[simp] theorem modThread_pending (s : State) (p : CrewAt) (t : Nat) (f : Thread → Thread) : (s.modThread p t f).pending = s.pending := rfl
@[simp] theorem modThread_cur (s : State) (p : CrewAt) (t : Nat) (f : Thread → Thread) : (s.modThread p t f).cur = s.cur := rfl
@[simp] theorem modThread_oracle (s : State) (p : CrewAt) (t : Nat) (f : Thread → Thread) : (s.modThread p t f).oracle = s.oracle := rfl
@[simp] theorem modThread_store (s : State) (p : CrewAt) (t : Nat) (f : Thread → Thread) : (s.modThread p t f).store = s.store := rfl
@[simp] theorem modThread_past (s : State) (p : CrewAt) (t : Nat) (f : Thread → Thread) : (s.modThread p t f).past = s.past := rfl
@[simp] theorem modThread_linePast (s : State) (p : CrewAt) (t : Nat) (f : Thread → Thread) : (s.modThread p t f).linePast = s.linePast := rfl
@[simp] theorem modThread_heldSteps (s : State) (p : CrewAt) (t : Nat) (f : Thread → Thread) : (s.modThread p t f).heldSteps = s.heldSteps := rfl
@[simp] theorem modThread_walkedFor (s : State) (p : CrewAt) (t : Nat) (f : Thread → Thread) : (s.modThread p t f).walkedFor = s.walkedFor := rfl
@[simp] theorem modThread_missedPage (s : State) (p : CrewAt) (t : Nat) (f : Thread → Thread) : (s.modThread p t f).missedPage = s.missedPage := rfl
@[simp] theorem modThread_serial (s : State) (p : CrewAt) (t : Nat) (f : Thread → Thread) : (s.modThread p t f).serial = s.serial := rfl

@[simp] theorem modRegion_power (s : State) (r : Nat) (f : Region → Region) : (s.modRegion r f).power = s.power := rfl
@[simp] theorem modRegion_fatal (s : State) (r : Nat) (f : Region → Region) : (s.modRegion r f).fatal = s.fatal := rfl
@[simp] theorem modRegion_ns (s : State) (r : Nat) (f : Region → Region) : (s.modRegion r f).ns = s.ns := rfl
@[simp] theorem modRegion_nsPart (s : State) (r : Nat) (f : Region → Region) : (s.modRegion r f).nsPart = s.nsPart := rfl
@[simp] theorem modRegion_attached (s : State) (r : Nat) (f : Region → Region) : (s.modRegion r f).attached = s.attached := rfl
@[simp] theorem modRegion_enumerated (s : State) (r : Nat) (f : Region → Region) : (s.modRegion r f).enumerated = s.enumerated := rfl
@[simp] theorem modRegion_heldLaunch (s : State) (r : Nat) (f : Region → Region) : (s.modRegion r f).heldLaunch = s.heldLaunch := rfl
@[simp] theorem modRegion_mem (s : State) (r : Nat) (f : Region → Region) : (s.modRegion r f).mem = s.mem := rfl
@[simp] theorem modRegion_stamps (s : State) (r : Nat) (f : Region → Region) : (s.modRegion r f).stamps = s.stamps := rfl
@[simp] theorem modRegion_others (s : State) (r : Nat) (f : Region → Region) : (s.modRegion r f).others = s.others := rfl
@[simp] theorem modRegion_hostPts (s : State) (r : Nat) (f : Region → Region) : (s.modRegion r f).hostPts = s.hostPts := rfl
@[simp] theorem modRegion_poison (s : State) (r : Nat) (f : Region → Region) : (s.modRegion r f).poison = s.poison := rfl
@[simp] theorem modRegion_damage (s : State) (r : Nat) (f : Region → Region) : (s.modRegion r f).damage = s.damage := rfl
@[simp] theorem modRegion_execLeaves (s : State) (r : Nat) (f : Region → Region) : (s.modRegion r f).execLeaves = s.execLeaves := rfl
@[simp] theorem modRegion_codePages (s : State) (r : Nat) (f : Region → Region) : (s.modRegion r f).codePages = s.codePages := rfl
@[simp] theorem modRegion_hostMem (s : State) (r : Nat) (f : Region → Region) : (s.modRegion r f).hostMem = s.hostMem := rfl
@[simp] theorem modRegion_hostOut (s : State) (r : Nat) (f : Region → Region) : (s.modRegion r f).hostOut = s.hostOut := rfl
@[simp] theorem modRegion_hostLost (s : State) (r : Nat) (f : Region → Region) : (s.modRegion r f).hostLost = s.hostLost := rfl
@[simp] theorem modRegion_host (s : State) (r : Nat) (f : Region → Region) : (s.modRegion r f).host = s.host := rfl
@[simp] theorem modRegion_mailbox (s : State) (r : Nat) (f : Region → Region) : (s.modRegion r f).mailbox = s.mailbox := rfl
@[simp] theorem modRegion_msix (s : State) (r : Nat) (f : Region → Region) : (s.modRegion r f).msix = s.msix := rfl
@[simp] theorem modRegion_msiSent (s : State) (r : Nat) (f : Region → Region) : (s.modRegion r f).msiSent = s.msiSent := rfl
@[simp] theorem modRegion_replies (s : State) (r : Nat) (f : Region → Region) : (s.modRegion r f).replies = s.replies := rfl
@[simp] theorem modRegion_die0 (s : State) (r : Nat) (f : Region → Region) : (s.modRegion r f).die0 = s.die0 := rfl
@[simp] theorem modRegion_die1 (s : State) (r : Nat) (f : Region → Region) : (s.modRegion r f).die1 = s.die1 := rfl
@[simp] theorem modRegion_cols (s : State) (r : Nat) (f : Region → Region) : (s.modRegion r f).cols = s.cols := rfl
@[simp] theorem modRegion_crews (s : State) (r : Nat) (f : Region → Region) : (s.modRegion r f).crews = s.crews := rfl
@[simp] theorem modRegion_kills (s : State) (r : Nat) (f : Region → Region) : (s.modRegion r f).kills = s.kills := rfl
@[simp] theorem modRegion_tickets (s : State) (r : Nat) (f : Region → Region) : (s.modRegion r f).tickets = s.tickets := rfl
@[simp] theorem modRegion_outgoing (s : State) (r : Nat) (f : Region → Region) : (s.modRegion r f).outgoing = s.outgoing := rfl
@[simp] theorem modRegion_transit (s : State) (r : Nat) (f : Region → Region) : (s.modRegion r f).transit = s.transit := rfl
@[simp] theorem modRegion_launching (s : State) (r : Nat) (f : Region → Region) : (s.modRegion r f).launching = s.launching := rfl
@[simp] theorem modRegion_victims (s : State) (r : Nat) (f : Region → Region) : (s.modRegion r f).victims = s.victims := rfl
@[simp] theorem modRegion_targets (s : State) (r : Nat) (f : Region → Region) : (s.modRegion r f).targets = s.targets := rfl
@[simp] theorem modRegion_grantNs (s : State) (r : Nat) (f : Region → Region) : (s.modRegion r f).grantNs = s.grantNs := rfl
@[simp] theorem modRegion_agenda (s : State) (r : Nat) (f : Region → Region) : (s.modRegion r f).agenda = s.agenda := rfl
@[simp] theorem modRegion_pending (s : State) (r : Nat) (f : Region → Region) : (s.modRegion r f).pending = s.pending := rfl
@[simp] theorem modRegion_cur (s : State) (r : Nat) (f : Region → Region) : (s.modRegion r f).cur = s.cur := rfl
@[simp] theorem modRegion_oracle (s : State) (r : Nat) (f : Region → Region) : (s.modRegion r f).oracle = s.oracle := rfl
@[simp] theorem modRegion_store (s : State) (r : Nat) (f : Region → Region) : (s.modRegion r f).store = s.store := rfl
@[simp] theorem modRegion_past (s : State) (r : Nat) (f : Region → Region) : (s.modRegion r f).past = s.past := rfl
@[simp] theorem modRegion_linePast (s : State) (r : Nat) (f : Region → Region) : (s.modRegion r f).linePast = s.linePast := rfl
@[simp] theorem modRegion_heldSteps (s : State) (r : Nat) (f : Region → Region) : (s.modRegion r f).heldSteps = s.heldSteps := rfl
@[simp] theorem modRegion_walkedFor (s : State) (r : Nat) (f : Region → Region) : (s.modRegion r f).walkedFor = s.walkedFor := rfl
@[simp] theorem modRegion_missedPage (s : State) (r : Nat) (f : Region → Region) : (s.modRegion r f).missedPage = s.missedPage := rfl
@[simp] theorem modRegion_serial (s : State) (r : Nat) (f : Region → Region) : (s.modRegion r f).serial = s.serial := rfl

@[simp] theorem modStage_power (s : State) (a : StageAt) (f : Stage → Stage) : (s.modStage a f).power = s.power := rfl
@[simp] theorem modStage_fatal (s : State) (a : StageAt) (f : Stage → Stage) : (s.modStage a f).fatal = s.fatal := rfl
@[simp] theorem modStage_ns (s : State) (a : StageAt) (f : Stage → Stage) : (s.modStage a f).ns = s.ns := rfl
@[simp] theorem modStage_nsPart (s : State) (a : StageAt) (f : Stage → Stage) : (s.modStage a f).nsPart = s.nsPart := rfl
@[simp] theorem modStage_attached (s : State) (a : StageAt) (f : Stage → Stage) : (s.modStage a f).attached = s.attached := rfl
@[simp] theorem modStage_enumerated (s : State) (a : StageAt) (f : Stage → Stage) : (s.modStage a f).enumerated = s.enumerated := rfl
@[simp] theorem modStage_heldLaunch (s : State) (a : StageAt) (f : Stage → Stage) : (s.modStage a f).heldLaunch = s.heldLaunch := rfl
@[simp] theorem modStage_mem (s : State) (a : StageAt) (f : Stage → Stage) : (s.modStage a f).mem = s.mem := rfl
@[simp] theorem modStage_stamps (s : State) (a : StageAt) (f : Stage → Stage) : (s.modStage a f).stamps = s.stamps := rfl
@[simp] theorem modStage_others (s : State) (a : StageAt) (f : Stage → Stage) : (s.modStage a f).others = s.others := rfl
@[simp] theorem modStage_hostPts (s : State) (a : StageAt) (f : Stage → Stage) : (s.modStage a f).hostPts = s.hostPts := rfl
@[simp] theorem modStage_poison (s : State) (a : StageAt) (f : Stage → Stage) : (s.modStage a f).poison = s.poison := rfl
@[simp] theorem modStage_damage (s : State) (a : StageAt) (f : Stage → Stage) : (s.modStage a f).damage = s.damage := rfl
@[simp] theorem modStage_execLeaves (s : State) (a : StageAt) (f : Stage → Stage) : (s.modStage a f).execLeaves = s.execLeaves := rfl
@[simp] theorem modStage_codePages (s : State) (a : StageAt) (f : Stage → Stage) : (s.modStage a f).codePages = s.codePages := rfl
@[simp] theorem modStage_hostMem (s : State) (a : StageAt) (f : Stage → Stage) : (s.modStage a f).hostMem = s.hostMem := rfl
@[simp] theorem modStage_hostOut (s : State) (a : StageAt) (f : Stage → Stage) : (s.modStage a f).hostOut = s.hostOut := rfl
@[simp] theorem modStage_hostLost (s : State) (a : StageAt) (f : Stage → Stage) : (s.modStage a f).hostLost = s.hostLost := rfl
@[simp] theorem modStage_host (s : State) (a : StageAt) (f : Stage → Stage) : (s.modStage a f).host = s.host := rfl
@[simp] theorem modStage_mailbox (s : State) (a : StageAt) (f : Stage → Stage) : (s.modStage a f).mailbox = s.mailbox := rfl
@[simp] theorem modStage_msix (s : State) (a : StageAt) (f : Stage → Stage) : (s.modStage a f).msix = s.msix := rfl
@[simp] theorem modStage_msiSent (s : State) (a : StageAt) (f : Stage → Stage) : (s.modStage a f).msiSent = s.msiSent := rfl
@[simp] theorem modStage_replies (s : State) (a : StageAt) (f : Stage → Stage) : (s.modStage a f).replies = s.replies := rfl
@[simp] theorem modStage_die0 (s : State) (a : StageAt) (f : Stage → Stage) : (s.modStage a f).die0 = s.die0 := rfl
@[simp] theorem modStage_die1 (s : State) (a : StageAt) (f : Stage → Stage) : (s.modStage a f).die1 = s.die1 := rfl
@[simp] theorem modStage_cols (s : State) (a : StageAt) (f : Stage → Stage) : (s.modStage a f).cols = s.cols := rfl
@[simp] theorem modStage_crews (s : State) (a : StageAt) (f : Stage → Stage) : (s.modStage a f).crews = s.crews := rfl
@[simp] theorem modStage_kills (s : State) (a : StageAt) (f : Stage → Stage) : (s.modStage a f).kills = s.kills := rfl
@[simp] theorem modStage_tickets (s : State) (a : StageAt) (f : Stage → Stage) : (s.modStage a f).tickets = s.tickets := rfl
@[simp] theorem modStage_outgoing (s : State) (a : StageAt) (f : Stage → Stage) : (s.modStage a f).outgoing = s.outgoing := rfl
@[simp] theorem modStage_transit (s : State) (a : StageAt) (f : Stage → Stage) : (s.modStage a f).transit = s.transit := rfl
@[simp] theorem modStage_launching (s : State) (a : StageAt) (f : Stage → Stage) : (s.modStage a f).launching = s.launching := rfl
@[simp] theorem modStage_victims (s : State) (a : StageAt) (f : Stage → Stage) : (s.modStage a f).victims = s.victims := rfl
@[simp] theorem modStage_targets (s : State) (a : StageAt) (f : Stage → Stage) : (s.modStage a f).targets = s.targets := rfl
@[simp] theorem modStage_grantNs (s : State) (a : StageAt) (f : Stage → Stage) : (s.modStage a f).grantNs = s.grantNs := rfl
@[simp] theorem modStage_agenda (s : State) (a : StageAt) (f : Stage → Stage) : (s.modStage a f).agenda = s.agenda := rfl
@[simp] theorem modStage_pending (s : State) (a : StageAt) (f : Stage → Stage) : (s.modStage a f).pending = s.pending := rfl
@[simp] theorem modStage_cur (s : State) (a : StageAt) (f : Stage → Stage) : (s.modStage a f).cur = s.cur := rfl
@[simp] theorem modStage_oracle (s : State) (a : StageAt) (f : Stage → Stage) : (s.modStage a f).oracle = s.oracle := rfl
@[simp] theorem modStage_store (s : State) (a : StageAt) (f : Stage → Stage) : (s.modStage a f).store = s.store := rfl
@[simp] theorem modStage_past (s : State) (a : StageAt) (f : Stage → Stage) : (s.modStage a f).past = s.past := rfl
@[simp] theorem modStage_linePast (s : State) (a : StageAt) (f : Stage → Stage) : (s.modStage a f).linePast = s.linePast := rfl
@[simp] theorem modStage_heldSteps (s : State) (a : StageAt) (f : Stage → Stage) : (s.modStage a f).heldSteps = s.heldSteps := rfl
@[simp] theorem modStage_walkedFor (s : State) (a : StageAt) (f : Stage → Stage) : (s.modStage a f).walkedFor = s.walkedFor := rfl
@[simp] theorem modStage_missedPage (s : State) (a : StageAt) (f : Stage → Stage) : (s.modStage a f).missedPage = s.missedPage := rfl
@[simp] theorem modStage_serial (s : State) (a : StageAt) (f : Stage → Stage) : (s.modStage a f).serial = s.serial := rfl

@[simp] theorem pick_power (s : State) (n : Nat) : ((s.pick n).2).power = s.power := by
  unfold State.pick; split <;> rfl
@[simp] theorem pick_fatal (s : State) (n : Nat) : ((s.pick n).2).fatal = s.fatal := by
  unfold State.pick; split <;> rfl
@[simp] theorem pick_ns (s : State) (n : Nat) : ((s.pick n).2).ns = s.ns := by
  unfold State.pick; split <;> rfl
@[simp] theorem pick_nsPart (s : State) (n : Nat) : ((s.pick n).2).nsPart = s.nsPart := by
  unfold State.pick; split <;> rfl
@[simp] theorem pick_attached (s : State) (n : Nat) : ((s.pick n).2).attached = s.attached := by
  unfold State.pick; split <;> rfl
@[simp] theorem pick_enumerated (s : State) (n : Nat) : ((s.pick n).2).enumerated = s.enumerated := by
  unfold State.pick; split <;> rfl
@[simp] theorem pick_heldLaunch (s : State) (n : Nat) : ((s.pick n).2).heldLaunch = s.heldLaunch := by
  unfold State.pick; split <;> rfl
@[simp] theorem pick_mem (s : State) (n : Nat) : ((s.pick n).2).mem = s.mem := by
  unfold State.pick; split <;> rfl
@[simp] theorem pick_stamps (s : State) (n : Nat) : ((s.pick n).2).stamps = s.stamps := by
  unfold State.pick; split <;> rfl
@[simp] theorem pick_others (s : State) (n : Nat) : ((s.pick n).2).others = s.others := by
  unfold State.pick; split <;> rfl
@[simp] theorem pick_hostPts (s : State) (n : Nat) : ((s.pick n).2).hostPts = s.hostPts := by
  unfold State.pick; split <;> rfl
@[simp] theorem pick_poison (s : State) (n : Nat) : ((s.pick n).2).poison = s.poison := by
  unfold State.pick; split <;> rfl
@[simp] theorem pick_damage (s : State) (n : Nat) : ((s.pick n).2).damage = s.damage := by
  unfold State.pick; split <;> rfl
@[simp] theorem pick_execLeaves (s : State) (n : Nat) : ((s.pick n).2).execLeaves = s.execLeaves := by
  unfold State.pick; split <;> rfl
@[simp] theorem pick_codePages (s : State) (n : Nat) : ((s.pick n).2).codePages = s.codePages := by
  unfold State.pick; split <;> rfl
@[simp] theorem pick_hostMem (s : State) (n : Nat) : ((s.pick n).2).hostMem = s.hostMem := by
  unfold State.pick; split <;> rfl
@[simp] theorem pick_hostOut (s : State) (n : Nat) : ((s.pick n).2).hostOut = s.hostOut := by
  unfold State.pick; split <;> rfl
@[simp] theorem pick_hostLost (s : State) (n : Nat) : ((s.pick n).2).hostLost = s.hostLost := by
  unfold State.pick; split <;> rfl
@[simp] theorem pick_host (s : State) (n : Nat) : ((s.pick n).2).host = s.host := by
  unfold State.pick; split <;> rfl
@[simp] theorem pick_mailbox (s : State) (n : Nat) : ((s.pick n).2).mailbox = s.mailbox := by
  unfold State.pick; split <;> rfl
@[simp] theorem pick_msix (s : State) (n : Nat) : ((s.pick n).2).msix = s.msix := by
  unfold State.pick; split <;> rfl
@[simp] theorem pick_msiSent (s : State) (n : Nat) : ((s.pick n).2).msiSent = s.msiSent := by
  unfold State.pick; split <;> rfl
@[simp] theorem pick_replies (s : State) (n : Nat) : ((s.pick n).2).replies = s.replies := by
  unfold State.pick; split <;> rfl
@[simp] theorem pick_die0 (s : State) (n : Nat) : ((s.pick n).2).die0 = s.die0 := by
  unfold State.pick; split <;> rfl
@[simp] theorem pick_die1 (s : State) (n : Nat) : ((s.pick n).2).die1 = s.die1 := by
  unfold State.pick; split <;> rfl
@[simp] theorem pick_cols (s : State) (n : Nat) : ((s.pick n).2).cols = s.cols := by
  unfold State.pick; split <;> rfl
@[simp] theorem pick_crews (s : State) (n : Nat) : ((s.pick n).2).crews = s.crews := by
  unfold State.pick; split <;> rfl
@[simp] theorem pick_regions (s : State) (n : Nat) : ((s.pick n).2).regions = s.regions := by
  unfold State.pick; split <;> rfl
@[simp] theorem pick_kills (s : State) (n : Nat) : ((s.pick n).2).kills = s.kills := by
  unfold State.pick; split <;> rfl
@[simp] theorem pick_tickets (s : State) (n : Nat) : ((s.pick n).2).tickets = s.tickets := by
  unfold State.pick; split <;> rfl
@[simp] theorem pick_outgoing (s : State) (n : Nat) : ((s.pick n).2).outgoing = s.outgoing := by
  unfold State.pick; split <;> rfl
@[simp] theorem pick_transit (s : State) (n : Nat) : ((s.pick n).2).transit = s.transit := by
  unfold State.pick; split <;> rfl
@[simp] theorem pick_launching (s : State) (n : Nat) : ((s.pick n).2).launching = s.launching := by
  unfold State.pick; split <;> rfl
@[simp] theorem pick_victims (s : State) (n : Nat) : ((s.pick n).2).victims = s.victims := by
  unfold State.pick; split <;> rfl
@[simp] theorem pick_targets (s : State) (n : Nat) : ((s.pick n).2).targets = s.targets := by
  unfold State.pick; split <;> rfl
@[simp] theorem pick_grantNs (s : State) (n : Nat) : ((s.pick n).2).grantNs = s.grantNs := by
  unfold State.pick; split <;> rfl
@[simp] theorem pick_agenda (s : State) (n : Nat) : ((s.pick n).2).agenda = s.agenda := by
  unfold State.pick; split <;> rfl
@[simp] theorem pick_pending (s : State) (n : Nat) : ((s.pick n).2).pending = s.pending := by
  unfold State.pick; split <;> rfl
@[simp] theorem pick_cur (s : State) (n : Nat) : ((s.pick n).2).cur = s.cur := by
  unfold State.pick; split <;> rfl
@[simp] theorem pick_store (s : State) (n : Nat) : ((s.pick n).2).store = s.store := by
  unfold State.pick; split <;> rfl
@[simp] theorem pick_past (s : State) (n : Nat) : ((s.pick n).2).past = s.past := by
  unfold State.pick; split <;> rfl
@[simp] theorem pick_linePast (s : State) (n : Nat) : ((s.pick n).2).linePast = s.linePast := by
  unfold State.pick; split <;> rfl
@[simp] theorem pick_heldSteps (s : State) (n : Nat) : ((s.pick n).2).heldSteps = s.heldSteps := by
  unfold State.pick; split <;> rfl
@[simp] theorem pick_walkedFor (s : State) (n : Nat) : ((s.pick n).2).walkedFor = s.walkedFor := by
  unfold State.pick; split <;> rfl
@[simp] theorem pick_missedPage (s : State) (n : Nat) : ((s.pick n).2).missedPage = s.missedPage := by
  unfold State.pick; split <;> rfl
@[simp] theorem pick_serial (s : State) (n : Nat) : ((s.pick n).2).serial = s.serial := by
  unfold State.pick; split <;> rfl

@[simp] theorem anyWord_power (s : State) : (s.anyWord.2).power = s.power := rfl
@[simp] theorem anyWord_fatal (s : State) : (s.anyWord.2).fatal = s.fatal := rfl
@[simp] theorem anyWord_ns (s : State) : (s.anyWord.2).ns = s.ns := rfl
@[simp] theorem anyWord_nsPart (s : State) : (s.anyWord.2).nsPart = s.nsPart := rfl
@[simp] theorem anyWord_attached (s : State) : (s.anyWord.2).attached = s.attached := rfl
@[simp] theorem anyWord_enumerated (s : State) : (s.anyWord.2).enumerated = s.enumerated := rfl
@[simp] theorem anyWord_heldLaunch (s : State) : (s.anyWord.2).heldLaunch = s.heldLaunch := rfl
@[simp] theorem anyWord_mem (s : State) : (s.anyWord.2).mem = s.mem := rfl
@[simp] theorem anyWord_stamps (s : State) : (s.anyWord.2).stamps = s.stamps := rfl
@[simp] theorem anyWord_others (s : State) : (s.anyWord.2).others = s.others := rfl
@[simp] theorem anyWord_hostPts (s : State) : (s.anyWord.2).hostPts = s.hostPts := rfl
@[simp] theorem anyWord_poison (s : State) : (s.anyWord.2).poison = s.poison := rfl
@[simp] theorem anyWord_damage (s : State) : (s.anyWord.2).damage = s.damage := rfl
@[simp] theorem anyWord_execLeaves (s : State) : (s.anyWord.2).execLeaves = s.execLeaves := rfl
@[simp] theorem anyWord_codePages (s : State) : (s.anyWord.2).codePages = s.codePages := rfl
@[simp] theorem anyWord_hostMem (s : State) : (s.anyWord.2).hostMem = s.hostMem := rfl
@[simp] theorem anyWord_hostOut (s : State) : (s.anyWord.2).hostOut = s.hostOut := rfl
@[simp] theorem anyWord_hostLost (s : State) : (s.anyWord.2).hostLost = s.hostLost := rfl
@[simp] theorem anyWord_host (s : State) : (s.anyWord.2).host = s.host := rfl
@[simp] theorem anyWord_mailbox (s : State) : (s.anyWord.2).mailbox = s.mailbox := rfl
@[simp] theorem anyWord_msix (s : State) : (s.anyWord.2).msix = s.msix := rfl
@[simp] theorem anyWord_msiSent (s : State) : (s.anyWord.2).msiSent = s.msiSent := rfl
@[simp] theorem anyWord_replies (s : State) : (s.anyWord.2).replies = s.replies := rfl
@[simp] theorem anyWord_die0 (s : State) : (s.anyWord.2).die0 = s.die0 := rfl
@[simp] theorem anyWord_die1 (s : State) : (s.anyWord.2).die1 = s.die1 := rfl
@[simp] theorem anyWord_cols (s : State) : (s.anyWord.2).cols = s.cols := rfl
@[simp] theorem anyWord_crews (s : State) : (s.anyWord.2).crews = s.crews := rfl
@[simp] theorem anyWord_regions (s : State) : (s.anyWord.2).regions = s.regions := rfl
@[simp] theorem anyWord_kills (s : State) : (s.anyWord.2).kills = s.kills := rfl
@[simp] theorem anyWord_tickets (s : State) : (s.anyWord.2).tickets = s.tickets := rfl
@[simp] theorem anyWord_outgoing (s : State) : (s.anyWord.2).outgoing = s.outgoing := rfl
@[simp] theorem anyWord_transit (s : State) : (s.anyWord.2).transit = s.transit := rfl
@[simp] theorem anyWord_launching (s : State) : (s.anyWord.2).launching = s.launching := rfl
@[simp] theorem anyWord_victims (s : State) : (s.anyWord.2).victims = s.victims := rfl
@[simp] theorem anyWord_targets (s : State) : (s.anyWord.2).targets = s.targets := rfl
@[simp] theorem anyWord_grantNs (s : State) : (s.anyWord.2).grantNs = s.grantNs := rfl
@[simp] theorem anyWord_agenda (s : State) : (s.anyWord.2).agenda = s.agenda := rfl
@[simp] theorem anyWord_pending (s : State) : (s.anyWord.2).pending = s.pending := rfl
@[simp] theorem anyWord_cur (s : State) : (s.anyWord.2).cur = s.cur := rfl
@[simp] theorem anyWord_store (s : State) : (s.anyWord.2).store = s.store := rfl
@[simp] theorem anyWord_past (s : State) : (s.anyWord.2).past = s.past := rfl
@[simp] theorem anyWord_linePast (s : State) : (s.anyWord.2).linePast = s.linePast := rfl
@[simp] theorem anyWord_heldSteps (s : State) : (s.anyWord.2).heldSteps = s.heldSteps := rfl
@[simp] theorem anyWord_walkedFor (s : State) : (s.anyWord.2).walkedFor = s.walkedFor := rfl
@[simp] theorem anyWord_missedPage (s : State) : (s.anyWord.2).missedPage = s.missedPage := rfl
@[simp] theorem anyWord_serial (s : State) : (s.anyWord.2).serial = s.serial := rfl

@[simp] theorem anyBytes_power (s : State) (n : Nat) : ((s.anyBytes n).2).power = s.power := rfl
@[simp] theorem anyBytes_fatal (s : State) (n : Nat) : ((s.anyBytes n).2).fatal = s.fatal := rfl
@[simp] theorem anyBytes_ns (s : State) (n : Nat) : ((s.anyBytes n).2).ns = s.ns := rfl
@[simp] theorem anyBytes_nsPart (s : State) (n : Nat) : ((s.anyBytes n).2).nsPart = s.nsPart := rfl
@[simp] theorem anyBytes_attached (s : State) (n : Nat) : ((s.anyBytes n).2).attached = s.attached := rfl
@[simp] theorem anyBytes_enumerated (s : State) (n : Nat) : ((s.anyBytes n).2).enumerated = s.enumerated := rfl
@[simp] theorem anyBytes_heldLaunch (s : State) (n : Nat) : ((s.anyBytes n).2).heldLaunch = s.heldLaunch := rfl
@[simp] theorem anyBytes_mem (s : State) (n : Nat) : ((s.anyBytes n).2).mem = s.mem := rfl
@[simp] theorem anyBytes_stamps (s : State) (n : Nat) : ((s.anyBytes n).2).stamps = s.stamps := rfl
@[simp] theorem anyBytes_others (s : State) (n : Nat) : ((s.anyBytes n).2).others = s.others := rfl
@[simp] theorem anyBytes_hostPts (s : State) (n : Nat) : ((s.anyBytes n).2).hostPts = s.hostPts := rfl
@[simp] theorem anyBytes_poison (s : State) (n : Nat) : ((s.anyBytes n).2).poison = s.poison := rfl
@[simp] theorem anyBytes_damage (s : State) (n : Nat) : ((s.anyBytes n).2).damage = s.damage := rfl
@[simp] theorem anyBytes_execLeaves (s : State) (n : Nat) : ((s.anyBytes n).2).execLeaves = s.execLeaves := rfl
@[simp] theorem anyBytes_codePages (s : State) (n : Nat) : ((s.anyBytes n).2).codePages = s.codePages := rfl
@[simp] theorem anyBytes_hostMem (s : State) (n : Nat) : ((s.anyBytes n).2).hostMem = s.hostMem := rfl
@[simp] theorem anyBytes_hostOut (s : State) (n : Nat) : ((s.anyBytes n).2).hostOut = s.hostOut := rfl
@[simp] theorem anyBytes_hostLost (s : State) (n : Nat) : ((s.anyBytes n).2).hostLost = s.hostLost := rfl
@[simp] theorem anyBytes_host (s : State) (n : Nat) : ((s.anyBytes n).2).host = s.host := rfl
@[simp] theorem anyBytes_mailbox (s : State) (n : Nat) : ((s.anyBytes n).2).mailbox = s.mailbox := rfl
@[simp] theorem anyBytes_msix (s : State) (n : Nat) : ((s.anyBytes n).2).msix = s.msix := rfl
@[simp] theorem anyBytes_msiSent (s : State) (n : Nat) : ((s.anyBytes n).2).msiSent = s.msiSent := rfl
@[simp] theorem anyBytes_replies (s : State) (n : Nat) : ((s.anyBytes n).2).replies = s.replies := rfl
@[simp] theorem anyBytes_die0 (s : State) (n : Nat) : ((s.anyBytes n).2).die0 = s.die0 := rfl
@[simp] theorem anyBytes_die1 (s : State) (n : Nat) : ((s.anyBytes n).2).die1 = s.die1 := rfl
@[simp] theorem anyBytes_cols (s : State) (n : Nat) : ((s.anyBytes n).2).cols = s.cols := rfl
@[simp] theorem anyBytes_crews (s : State) (n : Nat) : ((s.anyBytes n).2).crews = s.crews := rfl
@[simp] theorem anyBytes_regions (s : State) (n : Nat) : ((s.anyBytes n).2).regions = s.regions := rfl
@[simp] theorem anyBytes_kills (s : State) (n : Nat) : ((s.anyBytes n).2).kills = s.kills := rfl
@[simp] theorem anyBytes_tickets (s : State) (n : Nat) : ((s.anyBytes n).2).tickets = s.tickets := rfl
@[simp] theorem anyBytes_outgoing (s : State) (n : Nat) : ((s.anyBytes n).2).outgoing = s.outgoing := rfl
@[simp] theorem anyBytes_transit (s : State) (n : Nat) : ((s.anyBytes n).2).transit = s.transit := rfl
@[simp] theorem anyBytes_launching (s : State) (n : Nat) : ((s.anyBytes n).2).launching = s.launching := rfl
@[simp] theorem anyBytes_victims (s : State) (n : Nat) : ((s.anyBytes n).2).victims = s.victims := rfl
@[simp] theorem anyBytes_targets (s : State) (n : Nat) : ((s.anyBytes n).2).targets = s.targets := rfl
@[simp] theorem anyBytes_grantNs (s : State) (n : Nat) : ((s.anyBytes n).2).grantNs = s.grantNs := rfl
@[simp] theorem anyBytes_agenda (s : State) (n : Nat) : ((s.anyBytes n).2).agenda = s.agenda := rfl
@[simp] theorem anyBytes_pending (s : State) (n : Nat) : ((s.anyBytes n).2).pending = s.pending := rfl
@[simp] theorem anyBytes_cur (s : State) (n : Nat) : ((s.anyBytes n).2).cur = s.cur := rfl
@[simp] theorem anyBytes_store (s : State) (n : Nat) : ((s.anyBytes n).2).store = s.store := rfl
@[simp] theorem anyBytes_past (s : State) (n : Nat) : ((s.anyBytes n).2).past = s.past := rfl
@[simp] theorem anyBytes_linePast (s : State) (n : Nat) : ((s.anyBytes n).2).linePast = s.linePast := rfl
@[simp] theorem anyBytes_heldSteps (s : State) (n : Nat) : ((s.anyBytes n).2).heldSteps = s.heldSteps := rfl
@[simp] theorem anyBytes_walkedFor (s : State) (n : Nat) : ((s.anyBytes n).2).walkedFor = s.walkedFor := rfl
@[simp] theorem anyBytes_missedPage (s : State) (n : Nat) : ((s.anyBytes n).2).missedPage = s.missedPage := rfl
@[simp] theorem anyBytes_serial (s : State) (n : Nat) : ((s.anyBytes n).2).serial = s.serial := rfl

@[simp] theorem newTicket_power (s : State) (d : Nat) : ((s.newTicket d).2).power = s.power := by
  unfold State.newTicket State.modDie; dsimp only; split <;> rfl
@[simp] theorem newTicket_fatal (s : State) (d : Nat) : ((s.newTicket d).2).fatal = s.fatal := by
  unfold State.newTicket State.modDie; dsimp only; split <;> rfl
@[simp] theorem newTicket_ns (s : State) (d : Nat) : ((s.newTicket d).2).ns = s.ns := by
  unfold State.newTicket State.modDie; dsimp only; split <;> rfl
@[simp] theorem newTicket_nsPart (s : State) (d : Nat) : ((s.newTicket d).2).nsPart = s.nsPart := by
  unfold State.newTicket State.modDie; dsimp only; split <;> rfl
@[simp] theorem newTicket_attached (s : State) (d : Nat) : ((s.newTicket d).2).attached = s.attached := by
  unfold State.newTicket State.modDie; dsimp only; split <;> rfl
@[simp] theorem newTicket_enumerated (s : State) (d : Nat) : ((s.newTicket d).2).enumerated = s.enumerated := by
  unfold State.newTicket State.modDie; dsimp only; split <;> rfl
@[simp] theorem newTicket_heldLaunch (s : State) (d : Nat) : ((s.newTicket d).2).heldLaunch = s.heldLaunch := by
  unfold State.newTicket State.modDie; dsimp only; split <;> rfl
@[simp] theorem newTicket_mem (s : State) (d : Nat) : ((s.newTicket d).2).mem = s.mem := by
  unfold State.newTicket State.modDie; dsimp only; split <;> rfl
@[simp] theorem newTicket_stamps (s : State) (d : Nat) : ((s.newTicket d).2).stamps = s.stamps := by
  unfold State.newTicket State.modDie; dsimp only; split <;> rfl
@[simp] theorem newTicket_others (s : State) (d : Nat) : ((s.newTicket d).2).others = s.others := by
  unfold State.newTicket State.modDie; dsimp only; split <;> rfl
@[simp] theorem newTicket_hostPts (s : State) (d : Nat) : ((s.newTicket d).2).hostPts = s.hostPts := by
  unfold State.newTicket State.modDie; dsimp only; split <;> rfl
@[simp] theorem newTicket_poison (s : State) (d : Nat) : ((s.newTicket d).2).poison = s.poison := by
  unfold State.newTicket State.modDie; dsimp only; split <;> rfl
@[simp] theorem newTicket_damage (s : State) (d : Nat) : ((s.newTicket d).2).damage = s.damage := by
  unfold State.newTicket State.modDie; dsimp only; split <;> rfl
@[simp] theorem newTicket_execLeaves (s : State) (d : Nat) : ((s.newTicket d).2).execLeaves = s.execLeaves := by
  unfold State.newTicket State.modDie; dsimp only; split <;> rfl
@[simp] theorem newTicket_codePages (s : State) (d : Nat) : ((s.newTicket d).2).codePages = s.codePages := by
  unfold State.newTicket State.modDie; dsimp only; split <;> rfl
@[simp] theorem newTicket_hostMem (s : State) (d : Nat) : ((s.newTicket d).2).hostMem = s.hostMem := by
  unfold State.newTicket State.modDie; dsimp only; split <;> rfl
@[simp] theorem newTicket_hostOut (s : State) (d : Nat) : ((s.newTicket d).2).hostOut = s.hostOut := by
  unfold State.newTicket State.modDie; dsimp only; split <;> rfl
@[simp] theorem newTicket_hostLost (s : State) (d : Nat) : ((s.newTicket d).2).hostLost = s.hostLost := by
  unfold State.newTicket State.modDie; dsimp only; split <;> rfl
@[simp] theorem newTicket_host (s : State) (d : Nat) : ((s.newTicket d).2).host = s.host := by
  unfold State.newTicket State.modDie; dsimp only; split <;> rfl
@[simp] theorem newTicket_mailbox (s : State) (d : Nat) : ((s.newTicket d).2).mailbox = s.mailbox := by
  unfold State.newTicket State.modDie; dsimp only; split <;> rfl
@[simp] theorem newTicket_msix (s : State) (d : Nat) : ((s.newTicket d).2).msix = s.msix := by
  unfold State.newTicket State.modDie; dsimp only; split <;> rfl
@[simp] theorem newTicket_msiSent (s : State) (d : Nat) : ((s.newTicket d).2).msiSent = s.msiSent := by
  unfold State.newTicket State.modDie; dsimp only; split <;> rfl
@[simp] theorem newTicket_replies (s : State) (d : Nat) : ((s.newTicket d).2).replies = s.replies := by
  unfold State.newTicket State.modDie; dsimp only; split <;> rfl
@[simp] theorem newTicket_cols (s : State) (d : Nat) : ((s.newTicket d).2).cols = s.cols := by
  unfold State.newTicket State.modDie; dsimp only; split <;> rfl
@[simp] theorem newTicket_crews (s : State) (d : Nat) : ((s.newTicket d).2).crews = s.crews := by
  unfold State.newTicket State.modDie; dsimp only; split <;> rfl
@[simp] theorem newTicket_regions (s : State) (d : Nat) : ((s.newTicket d).2).regions = s.regions := by
  unfold State.newTicket State.modDie; dsimp only; split <;> rfl
@[simp] theorem newTicket_kills (s : State) (d : Nat) : ((s.newTicket d).2).kills = s.kills := by
  unfold State.newTicket State.modDie; dsimp only; split <;> rfl
@[simp] theorem newTicket_tickets (s : State) (d : Nat) : ((s.newTicket d).2).tickets = s.tickets := by
  unfold State.newTicket State.modDie; dsimp only; split <;> rfl
@[simp] theorem newTicket_outgoing (s : State) (d : Nat) : ((s.newTicket d).2).outgoing = s.outgoing := by
  unfold State.newTicket State.modDie; dsimp only; split <;> rfl
@[simp] theorem newTicket_transit (s : State) (d : Nat) : ((s.newTicket d).2).transit = s.transit := by
  unfold State.newTicket State.modDie; dsimp only; split <;> rfl
@[simp] theorem newTicket_launching (s : State) (d : Nat) : ((s.newTicket d).2).launching = s.launching := by
  unfold State.newTicket State.modDie; dsimp only; split <;> rfl
@[simp] theorem newTicket_victims (s : State) (d : Nat) : ((s.newTicket d).2).victims = s.victims := by
  unfold State.newTicket State.modDie; dsimp only; split <;> rfl
@[simp] theorem newTicket_targets (s : State) (d : Nat) : ((s.newTicket d).2).targets = s.targets := by
  unfold State.newTicket State.modDie; dsimp only; split <;> rfl
@[simp] theorem newTicket_grantNs (s : State) (d : Nat) : ((s.newTicket d).2).grantNs = s.grantNs := by
  unfold State.newTicket State.modDie; dsimp only; split <;> rfl
@[simp] theorem newTicket_agenda (s : State) (d : Nat) : ((s.newTicket d).2).agenda = s.agenda := by
  unfold State.newTicket State.modDie; dsimp only; split <;> rfl
@[simp] theorem newTicket_pending (s : State) (d : Nat) : ((s.newTicket d).2).pending = s.pending := by
  unfold State.newTicket State.modDie; dsimp only; split <;> rfl
@[simp] theorem newTicket_cur (s : State) (d : Nat) : ((s.newTicket d).2).cur = s.cur := by
  unfold State.newTicket State.modDie; dsimp only; split <;> rfl
@[simp] theorem newTicket_oracle (s : State) (d : Nat) : ((s.newTicket d).2).oracle = s.oracle := by
  unfold State.newTicket State.modDie; dsimp only; split <;> rfl
@[simp] theorem newTicket_store (s : State) (d : Nat) : ((s.newTicket d).2).store = s.store := by
  unfold State.newTicket State.modDie; dsimp only; split <;> rfl
@[simp] theorem newTicket_past (s : State) (d : Nat) : ((s.newTicket d).2).past = s.past := by
  unfold State.newTicket State.modDie; dsimp only; split <;> rfl
@[simp] theorem newTicket_linePast (s : State) (d : Nat) : ((s.newTicket d).2).linePast = s.linePast := by
  unfold State.newTicket State.modDie; dsimp only; split <;> rfl
@[simp] theorem newTicket_heldSteps (s : State) (d : Nat) : ((s.newTicket d).2).heldSteps = s.heldSteps := by
  unfold State.newTicket State.modDie; dsimp only; split <;> rfl
@[simp] theorem newTicket_walkedFor (s : State) (d : Nat) : ((s.newTicket d).2).walkedFor = s.walkedFor := by
  unfold State.newTicket State.modDie; dsimp only; split <;> rfl
@[simp] theorem newTicket_missedPage (s : State) (d : Nat) : ((s.newTicket d).2).missedPage = s.missedPage := by
  unfold State.newTicket State.modDie; dsimp only; split <;> rfl
@[simp] theorem newTicket_serial (s : State) (d : Nat) : ((s.newTicket d).2).serial = s.serial := by
  unfold State.newTicket State.modDie; dsimp only; split <;> rfl

@[simp] theorem sendRecord_power (s : State) (r : FaultRec) (d : Dest) (u : Nat) : (s.sendRecord r d u).power = s.power := rfl
@[simp] theorem sendRecord_fatal (s : State) (r : FaultRec) (d : Dest) (u : Nat) : (s.sendRecord r d u).fatal = s.fatal := rfl
@[simp] theorem sendRecord_ns (s : State) (r : FaultRec) (d : Dest) (u : Nat) : (s.sendRecord r d u).ns = s.ns := rfl
@[simp] theorem sendRecord_nsPart (s : State) (r : FaultRec) (d : Dest) (u : Nat) : (s.sendRecord r d u).nsPart = s.nsPart := rfl
@[simp] theorem sendRecord_attached (s : State) (r : FaultRec) (d : Dest) (u : Nat) : (s.sendRecord r d u).attached = s.attached := rfl
@[simp] theorem sendRecord_enumerated (s : State) (r : FaultRec) (d : Dest) (u : Nat) : (s.sendRecord r d u).enumerated = s.enumerated := rfl
@[simp] theorem sendRecord_heldLaunch (s : State) (r : FaultRec) (d : Dest) (u : Nat) : (s.sendRecord r d u).heldLaunch = s.heldLaunch := rfl
@[simp] theorem sendRecord_mem (s : State) (r : FaultRec) (d : Dest) (u : Nat) : (s.sendRecord r d u).mem = s.mem := rfl
@[simp] theorem sendRecord_stamps (s : State) (r : FaultRec) (d : Dest) (u : Nat) : (s.sendRecord r d u).stamps = s.stamps := rfl
@[simp] theorem sendRecord_others (s : State) (r : FaultRec) (d : Dest) (u : Nat) : (s.sendRecord r d u).others = s.others := rfl
@[simp] theorem sendRecord_hostPts (s : State) (r : FaultRec) (d : Dest) (u : Nat) : (s.sendRecord r d u).hostPts = s.hostPts := rfl
@[simp] theorem sendRecord_poison (s : State) (r : FaultRec) (d : Dest) (u : Nat) : (s.sendRecord r d u).poison = s.poison := rfl
@[simp] theorem sendRecord_damage (s : State) (r : FaultRec) (d : Dest) (u : Nat) : (s.sendRecord r d u).damage = s.damage := rfl
@[simp] theorem sendRecord_execLeaves (s : State) (r : FaultRec) (d : Dest) (u : Nat) : (s.sendRecord r d u).execLeaves = s.execLeaves := rfl
@[simp] theorem sendRecord_codePages (s : State) (r : FaultRec) (d : Dest) (u : Nat) : (s.sendRecord r d u).codePages = s.codePages := rfl
@[simp] theorem sendRecord_hostMem (s : State) (r : FaultRec) (d : Dest) (u : Nat) : (s.sendRecord r d u).hostMem = s.hostMem := rfl
@[simp] theorem sendRecord_hostOut (s : State) (r : FaultRec) (d : Dest) (u : Nat) : (s.sendRecord r d u).hostOut = s.hostOut := rfl
@[simp] theorem sendRecord_hostLost (s : State) (r : FaultRec) (d : Dest) (u : Nat) : (s.sendRecord r d u).hostLost = s.hostLost := rfl
@[simp] theorem sendRecord_host (s : State) (r : FaultRec) (d : Dest) (u : Nat) : (s.sendRecord r d u).host = s.host := rfl
@[simp] theorem sendRecord_mailbox (s : State) (r : FaultRec) (d : Dest) (u : Nat) : (s.sendRecord r d u).mailbox = s.mailbox := rfl
@[simp] theorem sendRecord_msix (s : State) (r : FaultRec) (d : Dest) (u : Nat) : (s.sendRecord r d u).msix = s.msix := rfl
@[simp] theorem sendRecord_msiSent (s : State) (r : FaultRec) (d : Dest) (u : Nat) : (s.sendRecord r d u).msiSent = s.msiSent := rfl
@[simp] theorem sendRecord_replies (s : State) (r : FaultRec) (d : Dest) (u : Nat) : (s.sendRecord r d u).replies = s.replies := rfl
@[simp] theorem sendRecord_die0 (s : State) (r : FaultRec) (d : Dest) (u : Nat) : (s.sendRecord r d u).die0 = s.die0 := rfl
@[simp] theorem sendRecord_die1 (s : State) (r : FaultRec) (d : Dest) (u : Nat) : (s.sendRecord r d u).die1 = s.die1 := rfl
@[simp] theorem sendRecord_cols (s : State) (r : FaultRec) (d : Dest) (u : Nat) : (s.sendRecord r d u).cols = s.cols := rfl
@[simp] theorem sendRecord_crews (s : State) (r : FaultRec) (d : Dest) (u : Nat) : (s.sendRecord r d u).crews = s.crews := rfl
@[simp] theorem sendRecord_regions (s : State) (r : FaultRec) (d : Dest) (u : Nat) : (s.sendRecord r d u).regions = s.regions := rfl
@[simp] theorem sendRecord_kills (s : State) (r : FaultRec) (d : Dest) (u : Nat) : (s.sendRecord r d u).kills = s.kills := rfl
@[simp] theorem sendRecord_transit (s : State) (r : FaultRec) (d : Dest) (u : Nat) : (s.sendRecord r d u).transit = s.transit := rfl
@[simp] theorem sendRecord_launching (s : State) (r : FaultRec) (d : Dest) (u : Nat) : (s.sendRecord r d u).launching = s.launching := rfl
@[simp] theorem sendRecord_victims (s : State) (r : FaultRec) (d : Dest) (u : Nat) : (s.sendRecord r d u).victims = s.victims := rfl
@[simp] theorem sendRecord_targets (s : State) (r : FaultRec) (d : Dest) (u : Nat) : (s.sendRecord r d u).targets = s.targets := rfl
@[simp] theorem sendRecord_grantNs (s : State) (r : FaultRec) (d : Dest) (u : Nat) : (s.sendRecord r d u).grantNs = s.grantNs := rfl
@[simp] theorem sendRecord_agenda (s : State) (r : FaultRec) (d : Dest) (u : Nat) : (s.sendRecord r d u).agenda = s.agenda := rfl
@[simp] theorem sendRecord_pending (s : State) (r : FaultRec) (d : Dest) (u : Nat) : (s.sendRecord r d u).pending = s.pending := rfl
@[simp] theorem sendRecord_cur (s : State) (r : FaultRec) (d : Dest) (u : Nat) : (s.sendRecord r d u).cur = s.cur := rfl
@[simp] theorem sendRecord_oracle (s : State) (r : FaultRec) (d : Dest) (u : Nat) : (s.sendRecord r d u).oracle = s.oracle := rfl
@[simp] theorem sendRecord_store (s : State) (r : FaultRec) (d : Dest) (u : Nat) : (s.sendRecord r d u).store = s.store := rfl
@[simp] theorem sendRecord_past (s : State) (r : FaultRec) (d : Dest) (u : Nat) : (s.sendRecord r d u).past = s.past := rfl
@[simp] theorem sendRecord_linePast (s : State) (r : FaultRec) (d : Dest) (u : Nat) : (s.sendRecord r d u).linePast = s.linePast := rfl
@[simp] theorem sendRecord_heldSteps (s : State) (r : FaultRec) (d : Dest) (u : Nat) : (s.sendRecord r d u).heldSteps = s.heldSteps := rfl
@[simp] theorem sendRecord_walkedFor (s : State) (r : FaultRec) (d : Dest) (u : Nat) : (s.sendRecord r d u).walkedFor = s.walkedFor := rfl
@[simp] theorem sendRecord_missedPage (s : State) (r : FaultRec) (d : Dest) (u : Nat) : (s.sendRecord r d u).missedPage = s.missedPage := rfl
@[simp] theorem sendRecord_serial (s : State) (r : FaultRec) (d : Dest) (u : Nat) : (s.sendRecord r d u).serial = s.serial := rfl

@[simp] theorem finish_power (s : State) (t : Nat) : (s.finish t).power = s.power := by
  unfold State.finish; split <;> rfl
@[simp] theorem finish_fatal (s : State) (t : Nat) : (s.finish t).fatal = s.fatal := by
  unfold State.finish; split <;> rfl
@[simp] theorem finish_ns (s : State) (t : Nat) : (s.finish t).ns = s.ns := by
  unfold State.finish; split <;> rfl
@[simp] theorem finish_nsPart (s : State) (t : Nat) : (s.finish t).nsPart = s.nsPart := by
  unfold State.finish; split <;> rfl
@[simp] theorem finish_attached (s : State) (t : Nat) : (s.finish t).attached = s.attached := by
  unfold State.finish; split <;> rfl
@[simp] theorem finish_enumerated (s : State) (t : Nat) : (s.finish t).enumerated = s.enumerated := by
  unfold State.finish; split <;> rfl
@[simp] theorem finish_heldLaunch (s : State) (t : Nat) : (s.finish t).heldLaunch = s.heldLaunch := by
  unfold State.finish; split <;> rfl
@[simp] theorem finish_mem (s : State) (t : Nat) : (s.finish t).mem = s.mem := by
  unfold State.finish; split <;> rfl
@[simp] theorem finish_stamps (s : State) (t : Nat) : (s.finish t).stamps = s.stamps := by
  unfold State.finish; split <;> rfl
@[simp] theorem finish_others (s : State) (t : Nat) : (s.finish t).others = s.others := by
  unfold State.finish; split <;> rfl
@[simp] theorem finish_hostPts (s : State) (t : Nat) : (s.finish t).hostPts = s.hostPts := by
  unfold State.finish; split <;> rfl
@[simp] theorem finish_poison (s : State) (t : Nat) : (s.finish t).poison = s.poison := by
  unfold State.finish; split <;> rfl
@[simp] theorem finish_damage (s : State) (t : Nat) : (s.finish t).damage = s.damage := by
  unfold State.finish; split <;> rfl
@[simp] theorem finish_execLeaves (s : State) (t : Nat) : (s.finish t).execLeaves = s.execLeaves := by
  unfold State.finish; split <;> rfl
@[simp] theorem finish_codePages (s : State) (t : Nat) : (s.finish t).codePages = s.codePages := by
  unfold State.finish; split <;> rfl
@[simp] theorem finish_hostMem (s : State) (t : Nat) : (s.finish t).hostMem = s.hostMem := by
  unfold State.finish; split <;> rfl
@[simp] theorem finish_hostOut (s : State) (t : Nat) : (s.finish t).hostOut = s.hostOut := by
  unfold State.finish; split <;> rfl
@[simp] theorem finish_hostLost (s : State) (t : Nat) : (s.finish t).hostLost = s.hostLost := by
  unfold State.finish; split <;> rfl
@[simp] theorem finish_host (s : State) (t : Nat) : (s.finish t).host = s.host := by
  unfold State.finish; split <;> rfl
@[simp] theorem finish_mailbox (s : State) (t : Nat) : (s.finish t).mailbox = s.mailbox := by
  unfold State.finish; split <;> rfl
@[simp] theorem finish_msix (s : State) (t : Nat) : (s.finish t).msix = s.msix := by
  unfold State.finish; split <;> rfl
@[simp] theorem finish_msiSent (s : State) (t : Nat) : (s.finish t).msiSent = s.msiSent := by
  unfold State.finish; split <;> rfl
@[simp] theorem finish_replies (s : State) (t : Nat) : (s.finish t).replies = s.replies := by
  unfold State.finish; split <;> rfl
@[simp] theorem finish_die0 (s : State) (t : Nat) : (s.finish t).die0 = s.die0 := by
  unfold State.finish; split <;> rfl
@[simp] theorem finish_die1 (s : State) (t : Nat) : (s.finish t).die1 = s.die1 := by
  unfold State.finish; split <;> rfl
@[simp] theorem finish_cols (s : State) (t : Nat) : (s.finish t).cols = s.cols := by
  unfold State.finish; split <;> rfl
@[simp] theorem finish_regions (s : State) (t : Nat) : (s.finish t).regions = s.regions := by
  unfold State.finish; split <;> rfl
@[simp] theorem finish_kills (s : State) (t : Nat) : (s.finish t).kills = s.kills := by
  unfold State.finish; split <;> rfl
@[simp] theorem finish_tickets (s : State) (t : Nat) : (s.finish t).tickets = s.tickets := by
  unfold State.finish; split <;> rfl
@[simp] theorem finish_outgoing (s : State) (t : Nat) : (s.finish t).outgoing = s.outgoing := by
  unfold State.finish; split <;> rfl
@[simp] theorem finish_transit (s : State) (t : Nat) : (s.finish t).transit = s.transit := by
  unfold State.finish; split <;> rfl
@[simp] theorem finish_launching (s : State) (t : Nat) : (s.finish t).launching = s.launching := by
  unfold State.finish; split <;> rfl
@[simp] theorem finish_victims (s : State) (t : Nat) : (s.finish t).victims = s.victims := by
  unfold State.finish; split <;> rfl
@[simp] theorem finish_targets (s : State) (t : Nat) : (s.finish t).targets = s.targets := by
  unfold State.finish; split <;> rfl
@[simp] theorem finish_grantNs (s : State) (t : Nat) : (s.finish t).grantNs = s.grantNs := by
  unfold State.finish; split <;> rfl
@[simp] theorem finish_agenda (s : State) (t : Nat) : (s.finish t).agenda = s.agenda := by
  unfold State.finish; split <;> rfl
@[simp] theorem finish_pending (s : State) (t : Nat) : (s.finish t).pending = s.pending := by
  unfold State.finish; split <;> rfl
@[simp] theorem finish_oracle (s : State) (t : Nat) : (s.finish t).oracle = s.oracle := by
  unfold State.finish; split <;> rfl
@[simp] theorem finish_store (s : State) (t : Nat) : (s.finish t).store = s.store := by
  unfold State.finish; split <;> rfl
@[simp] theorem finish_past (s : State) (t : Nat) : (s.finish t).past = s.past := by
  unfold State.finish; split <;> rfl
@[simp] theorem finish_linePast (s : State) (t : Nat) : (s.finish t).linePast = s.linePast := by
  unfold State.finish; split <;> rfl
@[simp] theorem finish_heldSteps (s : State) (t : Nat) : (s.finish t).heldSteps = s.heldSteps := by
  unfold State.finish; split <;> rfl
@[simp] theorem finish_walkedFor (s : State) (t : Nat) : (s.finish t).walkedFor = s.walkedFor := by
  unfold State.finish; split <;> rfl
@[simp] theorem finish_missedPage (s : State) (t : Nat) : (s.finish t).missedPage = s.missedPage := by
  unfold State.finish; split <;> rfl
@[simp] theorem finish_serial (s : State) (t : Nat) : (s.finish t).serial = s.serial := by
  unfold State.finish; split <;> rfl

@[simp] theorem perThread_power (s : State) (f : Crew → Nat → Thread → Thread) : (s.perThread f).power = s.power := by
  unfold State.perThread; dsimp only; split <;> rfl
@[simp] theorem perThread_fatal (s : State) (f : Crew → Nat → Thread → Thread) : (s.perThread f).fatal = s.fatal := by
  unfold State.perThread; dsimp only; split <;> rfl
@[simp] theorem perThread_ns (s : State) (f : Crew → Nat → Thread → Thread) : (s.perThread f).ns = s.ns := by
  unfold State.perThread; dsimp only; split <;> rfl
@[simp] theorem perThread_nsPart (s : State) (f : Crew → Nat → Thread → Thread) : (s.perThread f).nsPart = s.nsPart := by
  unfold State.perThread; dsimp only; split <;> rfl
@[simp] theorem perThread_attached (s : State) (f : Crew → Nat → Thread → Thread) : (s.perThread f).attached = s.attached := by
  unfold State.perThread; dsimp only; split <;> rfl
@[simp] theorem perThread_enumerated (s : State) (f : Crew → Nat → Thread → Thread) : (s.perThread f).enumerated = s.enumerated := by
  unfold State.perThread; dsimp only; split <;> rfl
@[simp] theorem perThread_heldLaunch (s : State) (f : Crew → Nat → Thread → Thread) : (s.perThread f).heldLaunch = s.heldLaunch := by
  unfold State.perThread; dsimp only; split <;> rfl
@[simp] theorem perThread_mem (s : State) (f : Crew → Nat → Thread → Thread) : (s.perThread f).mem = s.mem := by
  unfold State.perThread; dsimp only; split <;> rfl
@[simp] theorem perThread_stamps (s : State) (f : Crew → Nat → Thread → Thread) : (s.perThread f).stamps = s.stamps := by
  unfold State.perThread; dsimp only; split <;> rfl
@[simp] theorem perThread_others (s : State) (f : Crew → Nat → Thread → Thread) : (s.perThread f).others = s.others := by
  unfold State.perThread; dsimp only; split <;> rfl
@[simp] theorem perThread_hostPts (s : State) (f : Crew → Nat → Thread → Thread) : (s.perThread f).hostPts = s.hostPts := by
  unfold State.perThread; dsimp only; split <;> rfl
@[simp] theorem perThread_poison (s : State) (f : Crew → Nat → Thread → Thread) : (s.perThread f).poison = s.poison := by
  unfold State.perThread; dsimp only; split <;> rfl
@[simp] theorem perThread_damage (s : State) (f : Crew → Nat → Thread → Thread) : (s.perThread f).damage = s.damage := by
  unfold State.perThread; dsimp only; split <;> rfl
@[simp] theorem perThread_execLeaves (s : State) (f : Crew → Nat → Thread → Thread) : (s.perThread f).execLeaves = s.execLeaves := by
  unfold State.perThread; dsimp only; split <;> rfl
@[simp] theorem perThread_codePages (s : State) (f : Crew → Nat → Thread → Thread) : (s.perThread f).codePages = s.codePages := by
  unfold State.perThread; dsimp only; split <;> rfl
@[simp] theorem perThread_hostMem (s : State) (f : Crew → Nat → Thread → Thread) : (s.perThread f).hostMem = s.hostMem := by
  unfold State.perThread; dsimp only; split <;> rfl
@[simp] theorem perThread_hostOut (s : State) (f : Crew → Nat → Thread → Thread) : (s.perThread f).hostOut = s.hostOut := by
  unfold State.perThread; dsimp only; split <;> rfl
@[simp] theorem perThread_hostLost (s : State) (f : Crew → Nat → Thread → Thread) : (s.perThread f).hostLost = s.hostLost := by
  unfold State.perThread; dsimp only; split <;> rfl
@[simp] theorem perThread_host (s : State) (f : Crew → Nat → Thread → Thread) : (s.perThread f).host = s.host := by
  unfold State.perThread; dsimp only; split <;> rfl
@[simp] theorem perThread_mailbox (s : State) (f : Crew → Nat → Thread → Thread) : (s.perThread f).mailbox = s.mailbox := by
  unfold State.perThread; dsimp only; split <;> rfl
@[simp] theorem perThread_msix (s : State) (f : Crew → Nat → Thread → Thread) : (s.perThread f).msix = s.msix := by
  unfold State.perThread; dsimp only; split <;> rfl
@[simp] theorem perThread_msiSent (s : State) (f : Crew → Nat → Thread → Thread) : (s.perThread f).msiSent = s.msiSent := by
  unfold State.perThread; dsimp only; split <;> rfl
@[simp] theorem perThread_replies (s : State) (f : Crew → Nat → Thread → Thread) : (s.perThread f).replies = s.replies := by
  unfold State.perThread; dsimp only; split <;> rfl
@[simp] theorem perThread_die0 (s : State) (f : Crew → Nat → Thread → Thread) : (s.perThread f).die0 = s.die0 := by
  unfold State.perThread; dsimp only; split <;> rfl
@[simp] theorem perThread_die1 (s : State) (f : Crew → Nat → Thread → Thread) : (s.perThread f).die1 = s.die1 := by
  unfold State.perThread; dsimp only; split <;> rfl
@[simp] theorem perThread_cols (s : State) (f : Crew → Nat → Thread → Thread) : (s.perThread f).cols = s.cols := by
  unfold State.perThread; dsimp only; split <;> rfl
@[simp] theorem perThread_regions (s : State) (f : Crew → Nat → Thread → Thread) : (s.perThread f).regions = s.regions := by
  unfold State.perThread; dsimp only; split <;> rfl
@[simp] theorem perThread_kills (s : State) (f : Crew → Nat → Thread → Thread) : (s.perThread f).kills = s.kills := by
  unfold State.perThread; dsimp only; split <;> rfl
@[simp] theorem perThread_tickets (s : State) (f : Crew → Nat → Thread → Thread) : (s.perThread f).tickets = s.tickets := by
  unfold State.perThread; dsimp only; split <;> rfl
@[simp] theorem perThread_outgoing (s : State) (f : Crew → Nat → Thread → Thread) : (s.perThread f).outgoing = s.outgoing := by
  unfold State.perThread; dsimp only; split <;> rfl
@[simp] theorem perThread_transit (s : State) (f : Crew → Nat → Thread → Thread) : (s.perThread f).transit = s.transit := by
  unfold State.perThread; dsimp only; split <;> rfl
@[simp] theorem perThread_launching (s : State) (f : Crew → Nat → Thread → Thread) : (s.perThread f).launching = s.launching := by
  unfold State.perThread; dsimp only; split <;> rfl
@[simp] theorem perThread_victims (s : State) (f : Crew → Nat → Thread → Thread) : (s.perThread f).victims = s.victims := by
  unfold State.perThread; dsimp only; split <;> rfl
@[simp] theorem perThread_targets (s : State) (f : Crew → Nat → Thread → Thread) : (s.perThread f).targets = s.targets := by
  unfold State.perThread; dsimp only; split <;> rfl
@[simp] theorem perThread_grantNs (s : State) (f : Crew → Nat → Thread → Thread) : (s.perThread f).grantNs = s.grantNs := by
  unfold State.perThread; dsimp only; split <;> rfl
@[simp] theorem perThread_agenda (s : State) (f : Crew → Nat → Thread → Thread) : (s.perThread f).agenda = s.agenda := by
  unfold State.perThread; dsimp only; split <;> rfl
@[simp] theorem perThread_pending (s : State) (f : Crew → Nat → Thread → Thread) : (s.perThread f).pending = s.pending := by
  unfold State.perThread; dsimp only; split <;> rfl
@[simp] theorem perThread_oracle (s : State) (f : Crew → Nat → Thread → Thread) : (s.perThread f).oracle = s.oracle := by
  unfold State.perThread; dsimp only; split <;> rfl
@[simp] theorem perThread_store (s : State) (f : Crew → Nat → Thread → Thread) : (s.perThread f).store = s.store := by
  unfold State.perThread; dsimp only; split <;> rfl
@[simp] theorem perThread_past (s : State) (f : Crew → Nat → Thread → Thread) : (s.perThread f).past = s.past := by
  unfold State.perThread; dsimp only; split <;> rfl
@[simp] theorem perThread_linePast (s : State) (f : Crew → Nat → Thread → Thread) : (s.perThread f).linePast = s.linePast := by
  unfold State.perThread; dsimp only; split <;> rfl
@[simp] theorem perThread_heldSteps (s : State) (f : Crew → Nat → Thread → Thread) : (s.perThread f).heldSteps = s.heldSteps := by
  unfold State.perThread; dsimp only; split <;> rfl
@[simp] theorem perThread_walkedFor (s : State) (f : Crew → Nat → Thread → Thread) : (s.perThread f).walkedFor = s.walkedFor := by
  unfold State.perThread; dsimp only; split <;> rfl
@[simp] theorem perThread_missedPage (s : State) (f : Crew → Nat → Thread → Thread) : (s.perThread f).missedPage = s.missedPage := by
  unfold State.perThread; dsimp only; split <;> rfl
@[simp] theorem perThread_serial (s : State) (f : Crew → Nat → Thread → Thread) : (s.perThread f).serial = s.serial := by
  unfold State.perThread; dsimp only; split <;> rfl

/-! ## Fields of a thread -/

@[simp] theorem setV_pc (s : Thread) (n : Nat) (x : W32) : (s.setV n x).pc = s.pc := rfl
@[simp] theorem setV_cond (s : Thread) (n : Nat) (x : W32) : (s.setV n x).cond = s.cond := rfl
@[simp] theorem setV_fb (s : Thread) (n : Nat) (x : W32) : (s.setV n x).fb = s.fb := rfl
@[simp] theorem setV_sm (s : Thread) (n : Nat) (x : W32) : (s.setV n x).sm = s.sm := rfl
@[simp] theorem setV_lk (s : Thread) (n : Nat) (x : W32) : (s.setV n x).lk = s.lk := rfl
@[simp] theorem setV_rstack (s : Thread) (n : Nat) (x : W32) : (s.setV n x).rstack = s.rstack := rfl
@[simp] theorem setV_rsd (s : Thread) (n : Nat) (x : W32) : (s.setV n x).rsd = s.rsd := rfl
@[simp] theorem setV_emu (s : Thread) (n : Nat) (x : W32) : (s.setV n x).emu = s.emu := rfl
@[simp] theorem setV_fpf (s : Thread) (n : Nat) (x : W32) : (s.setV n x).fpf = s.fpf := rfl
@[simp] theorem setV_cause (s : Thread) (n : Nat) (x : W32) : (s.setV n x).cause = s.cause := rfl
@[simp] theorem setV_epc (s : Thread) (n : Nat) (x : W32) : (s.setV n x).epc = s.epc := rfl
@[simp] theorem setV_ebad (s : Thread) (n : Nat) (x : W32) : (s.setV n x).ebad = s.ebad := rfl
@[simp] theorem setV_eword (s : Thread) (n : Nat) (x : W32) : (s.setV n x).eword = s.eword := rfl
@[simp] theorem setV_clkHi (s : Thread) (n : Nat) (x : W32) : (s.setV n x).clkHi = s.clkHi := rfl
@[simp] theorem setV_nsHi (s : Thread) (n : Nat) (x : W32) : (s.setV n x).nsHi = s.nsHi := rfl
@[simp] theorem setV_recAddr (s : Thread) (n : Nat) (x : W32) : (s.setV n x).recAddr = s.recAddr := rfl
@[simp] theorem setV_age (s : Thread) (n : Nat) (x : W32) : (s.setV n x).age = s.age := rfl
@[simp] theorem setV_aged (s : Thread) (n : Nat) (x : W32) : (s.setV n x).aged = s.aged := rfl
@[simp] theorem setV_tag (s : Thread) (n : Nat) (x : W32) : (s.setV n x).tag = s.tag := rfl
@[simp] theorem setV_wait (s : Thread) (n : Nat) (x : W32) : (s.setV n x).wait = s.wait := rfl
@[simp] theorem setV_pts (s : Thread) (n : Nat) (x : W32) : (s.setV n x).pts = s.pts := rfl
@[simp] theorem setV_fence (s : Thread) (n : Nat) (x : W32) : (s.setV n x).fence = s.fence := rfl
@[simp] theorem setV_peal (s : Thread) (n : Nat) (x : W32) : (s.setV n x).peal = s.peal := rfl
@[simp] theorem setV_missed (s : Thread) (n : Nat) (x : W32) : (s.setV n x).missed = s.missed := rfl
@[simp] theorem setV_entry (s : Thread) (n : Nat) (x : W32) : (s.setV n x).entry = s.entry := rfl
@[simp] theorem setV_next (s : Thread) (n : Nat) (x : W32) : (s.setV n x).next = s.next := rfl
@[simp] theorem setV_fbuf (s : Thread) (n : Nat) (x : W32) : (s.setV n x).fbuf = s.fbuf := rfl

@[simp] theorem setPair_pc (s : Thread) (n : Nat) (x : W64) : (s.setPair n x).pc = s.pc := rfl
@[simp] theorem setPair_cond (s : Thread) (n : Nat) (x : W64) : (s.setPair n x).cond = s.cond := rfl
@[simp] theorem setPair_fb (s : Thread) (n : Nat) (x : W64) : (s.setPair n x).fb = s.fb := rfl
@[simp] theorem setPair_sm (s : Thread) (n : Nat) (x : W64) : (s.setPair n x).sm = s.sm := rfl
@[simp] theorem setPair_lk (s : Thread) (n : Nat) (x : W64) : (s.setPair n x).lk = s.lk := rfl
@[simp] theorem setPair_rstack (s : Thread) (n : Nat) (x : W64) : (s.setPair n x).rstack = s.rstack := rfl
@[simp] theorem setPair_rsd (s : Thread) (n : Nat) (x : W64) : (s.setPair n x).rsd = s.rsd := rfl
@[simp] theorem setPair_emu (s : Thread) (n : Nat) (x : W64) : (s.setPair n x).emu = s.emu := rfl
@[simp] theorem setPair_fpf (s : Thread) (n : Nat) (x : W64) : (s.setPair n x).fpf = s.fpf := rfl
@[simp] theorem setPair_cause (s : Thread) (n : Nat) (x : W64) : (s.setPair n x).cause = s.cause := rfl
@[simp] theorem setPair_epc (s : Thread) (n : Nat) (x : W64) : (s.setPair n x).epc = s.epc := rfl
@[simp] theorem setPair_ebad (s : Thread) (n : Nat) (x : W64) : (s.setPair n x).ebad = s.ebad := rfl
@[simp] theorem setPair_eword (s : Thread) (n : Nat) (x : W64) : (s.setPair n x).eword = s.eword := rfl
@[simp] theorem setPair_clkHi (s : Thread) (n : Nat) (x : W64) : (s.setPair n x).clkHi = s.clkHi := rfl
@[simp] theorem setPair_nsHi (s : Thread) (n : Nat) (x : W64) : (s.setPair n x).nsHi = s.nsHi := rfl
@[simp] theorem setPair_recAddr (s : Thread) (n : Nat) (x : W64) : (s.setPair n x).recAddr = s.recAddr := rfl
@[simp] theorem setPair_age (s : Thread) (n : Nat) (x : W64) : (s.setPair n x).age = s.age := rfl
@[simp] theorem setPair_aged (s : Thread) (n : Nat) (x : W64) : (s.setPair n x).aged = s.aged := rfl
@[simp] theorem setPair_tag (s : Thread) (n : Nat) (x : W64) : (s.setPair n x).tag = s.tag := rfl
@[simp] theorem setPair_wait (s : Thread) (n : Nat) (x : W64) : (s.setPair n x).wait = s.wait := rfl
@[simp] theorem setPair_pts (s : Thread) (n : Nat) (x : W64) : (s.setPair n x).pts = s.pts := rfl
@[simp] theorem setPair_fence (s : Thread) (n : Nat) (x : W64) : (s.setPair n x).fence = s.fence := rfl
@[simp] theorem setPair_peal (s : Thread) (n : Nat) (x : W64) : (s.setPair n x).peal = s.peal := rfl
@[simp] theorem setPair_missed (s : Thread) (n : Nat) (x : W64) : (s.setPair n x).missed = s.missed := rfl
@[simp] theorem setPair_entry (s : Thread) (n : Nat) (x : W64) : (s.setPair n x).entry = s.entry := rfl
@[simp] theorem setPair_next (s : Thread) (n : Nat) (x : W64) : (s.setPair n x).next = s.next := rfl
@[simp] theorem setPair_fbuf (s : Thread) (n : Nat) (x : W64) : (s.setPair n x).fbuf = s.fbuf := rfl

@[simp] theorem setC_pc (s : Thread) (k : Nat) (b : Bool) : (s.setC k b).pc = s.pc := rfl
@[simp] theorem setC_stripe (s : Thread) (k : Nat) (b : Bool) : (s.setC k b).stripe = s.stripe := rfl
@[simp] theorem setC_fb (s : Thread) (k : Nat) (b : Bool) : (s.setC k b).fb = s.fb := rfl
@[simp] theorem setC_sm (s : Thread) (k : Nat) (b : Bool) : (s.setC k b).sm = s.sm := rfl
@[simp] theorem setC_lk (s : Thread) (k : Nat) (b : Bool) : (s.setC k b).lk = s.lk := rfl
@[simp] theorem setC_rstack (s : Thread) (k : Nat) (b : Bool) : (s.setC k b).rstack = s.rstack := rfl
@[simp] theorem setC_rsd (s : Thread) (k : Nat) (b : Bool) : (s.setC k b).rsd = s.rsd := rfl
@[simp] theorem setC_emu (s : Thread) (k : Nat) (b : Bool) : (s.setC k b).emu = s.emu := rfl
@[simp] theorem setC_fpf (s : Thread) (k : Nat) (b : Bool) : (s.setC k b).fpf = s.fpf := rfl
@[simp] theorem setC_cause (s : Thread) (k : Nat) (b : Bool) : (s.setC k b).cause = s.cause := rfl
@[simp] theorem setC_epc (s : Thread) (k : Nat) (b : Bool) : (s.setC k b).epc = s.epc := rfl
@[simp] theorem setC_ebad (s : Thread) (k : Nat) (b : Bool) : (s.setC k b).ebad = s.ebad := rfl
@[simp] theorem setC_eword (s : Thread) (k : Nat) (b : Bool) : (s.setC k b).eword = s.eword := rfl
@[simp] theorem setC_clkHi (s : Thread) (k : Nat) (b : Bool) : (s.setC k b).clkHi = s.clkHi := rfl
@[simp] theorem setC_nsHi (s : Thread) (k : Nat) (b : Bool) : (s.setC k b).nsHi = s.nsHi := rfl
@[simp] theorem setC_recAddr (s : Thread) (k : Nat) (b : Bool) : (s.setC k b).recAddr = s.recAddr := rfl
@[simp] theorem setC_age (s : Thread) (k : Nat) (b : Bool) : (s.setC k b).age = s.age := rfl
@[simp] theorem setC_aged (s : Thread) (k : Nat) (b : Bool) : (s.setC k b).aged = s.aged := rfl
@[simp] theorem setC_tag (s : Thread) (k : Nat) (b : Bool) : (s.setC k b).tag = s.tag := rfl
@[simp] theorem setC_wait (s : Thread) (k : Nat) (b : Bool) : (s.setC k b).wait = s.wait := rfl
@[simp] theorem setC_pts (s : Thread) (k : Nat) (b : Bool) : (s.setC k b).pts = s.pts := rfl
@[simp] theorem setC_fence (s : Thread) (k : Nat) (b : Bool) : (s.setC k b).fence = s.fence := rfl
@[simp] theorem setC_awaiting (s : Thread) (k : Nat) (b : Bool) : (s.setC k b).awaiting = s.awaiting := rfl
@[simp] theorem setC_bad (s : Thread) (k : Nat) (b : Bool) : (s.setC k b).bad = s.bad := rfl
@[simp] theorem setC_peal (s : Thread) (k : Nat) (b : Bool) : (s.setC k b).peal = s.peal := rfl
@[simp] theorem setC_missed (s : Thread) (k : Nat) (b : Bool) : (s.setC k b).missed = s.missed := rfl
@[simp] theorem setC_entry (s : Thread) (k : Nat) (b : Bool) : (s.setC k b).entry = s.entry := rfl
@[simp] theorem setC_next (s : Thread) (k : Nat) (b : Bool) : (s.setC k b).next = s.next := rfl
@[simp] theorem setC_fbuf (s : Thread) (k : Nat) (b : Bool) : (s.setC k b).fbuf = s.fbuf := rfl

@[simp] theorem raise_pc (s : Thread) (f : BitVec 5) : (s.raise f).pc = s.pc := rfl
@[simp] theorem raise_cond (s : Thread) (f : BitVec 5) : (s.raise f).cond = s.cond := rfl
@[simp] theorem raise_stripe (s : Thread) (f : BitVec 5) : (s.raise f).stripe = s.stripe := rfl
@[simp] theorem raise_fb (s : Thread) (f : BitVec 5) : (s.raise f).fb = s.fb := rfl
@[simp] theorem raise_sm (s : Thread) (f : BitVec 5) : (s.raise f).sm = s.sm := rfl
@[simp] theorem raise_lk (s : Thread) (f : BitVec 5) : (s.raise f).lk = s.lk := rfl
@[simp] theorem raise_rstack (s : Thread) (f : BitVec 5) : (s.raise f).rstack = s.rstack := rfl
@[simp] theorem raise_rsd (s : Thread) (f : BitVec 5) : (s.raise f).rsd = s.rsd := rfl
@[simp] theorem raise_emu (s : Thread) (f : BitVec 5) : (s.raise f).emu = s.emu := rfl
@[simp] theorem raise_cause (s : Thread) (f : BitVec 5) : (s.raise f).cause = s.cause := rfl
@[simp] theorem raise_epc (s : Thread) (f : BitVec 5) : (s.raise f).epc = s.epc := rfl
@[simp] theorem raise_ebad (s : Thread) (f : BitVec 5) : (s.raise f).ebad = s.ebad := rfl
@[simp] theorem raise_eword (s : Thread) (f : BitVec 5) : (s.raise f).eword = s.eword := rfl
@[simp] theorem raise_clkHi (s : Thread) (f : BitVec 5) : (s.raise f).clkHi = s.clkHi := rfl
@[simp] theorem raise_nsHi (s : Thread) (f : BitVec 5) : (s.raise f).nsHi = s.nsHi := rfl
@[simp] theorem raise_recAddr (s : Thread) (f : BitVec 5) : (s.raise f).recAddr = s.recAddr := rfl
@[simp] theorem raise_age (s : Thread) (f : BitVec 5) : (s.raise f).age = s.age := rfl
@[simp] theorem raise_aged (s : Thread) (f : BitVec 5) : (s.raise f).aged = s.aged := rfl
@[simp] theorem raise_tag (s : Thread) (f : BitVec 5) : (s.raise f).tag = s.tag := rfl
@[simp] theorem raise_wait (s : Thread) (f : BitVec 5) : (s.raise f).wait = s.wait := rfl
@[simp] theorem raise_pts (s : Thread) (f : BitVec 5) : (s.raise f).pts = s.pts := rfl
@[simp] theorem raise_fence (s : Thread) (f : BitVec 5) : (s.raise f).fence = s.fence := rfl
@[simp] theorem raise_awaiting (s : Thread) (f : BitVec 5) : (s.raise f).awaiting = s.awaiting := rfl
@[simp] theorem raise_bad (s : Thread) (f : BitVec 5) : (s.raise f).bad = s.bad := rfl
@[simp] theorem raise_peal (s : Thread) (f : BitVec 5) : (s.raise f).peal = s.peal := rfl
@[simp] theorem raise_missed (s : Thread) (f : BitVec 5) : (s.raise f).missed = s.missed := rfl
@[simp] theorem raise_entry (s : Thread) (f : BitVec 5) : (s.raise f).entry = s.entry := rfl
@[simp] theorem raise_next (s : Thread) (f : BitVec 5) : (s.raise f).next = s.next := rfl
@[simp] theorem raise_fbuf (s : Thread) (f : BitVec 5) : (s.raise f).fbuf = s.fbuf := rfl

@[simp] theorem next4_cond (s : Thread) : (s.next4).cond = s.cond := rfl
@[simp] theorem next4_stripe (s : Thread) : (s.next4).stripe = s.stripe := rfl
@[simp] theorem next4_fb (s : Thread) : (s.next4).fb = s.fb := rfl
@[simp] theorem next4_sm (s : Thread) : (s.next4).sm = s.sm := rfl
@[simp] theorem next4_lk (s : Thread) : (s.next4).lk = s.lk := rfl
@[simp] theorem next4_rstack (s : Thread) : (s.next4).rstack = s.rstack := rfl
@[simp] theorem next4_rsd (s : Thread) : (s.next4).rsd = s.rsd := rfl
@[simp] theorem next4_emu (s : Thread) : (s.next4).emu = s.emu := rfl
@[simp] theorem next4_fpf (s : Thread) : (s.next4).fpf = s.fpf := rfl
@[simp] theorem next4_cause (s : Thread) : (s.next4).cause = s.cause := rfl
@[simp] theorem next4_epc (s : Thread) : (s.next4).epc = s.epc := rfl
@[simp] theorem next4_ebad (s : Thread) : (s.next4).ebad = s.ebad := rfl
@[simp] theorem next4_eword (s : Thread) : (s.next4).eword = s.eword := rfl
@[simp] theorem next4_clkHi (s : Thread) : (s.next4).clkHi = s.clkHi := rfl
@[simp] theorem next4_nsHi (s : Thread) : (s.next4).nsHi = s.nsHi := rfl
@[simp] theorem next4_recAddr (s : Thread) : (s.next4).recAddr = s.recAddr := rfl
@[simp] theorem next4_age (s : Thread) : (s.next4).age = s.age := rfl
@[simp] theorem next4_aged (s : Thread) : (s.next4).aged = s.aged := rfl
@[simp] theorem next4_tag (s : Thread) : (s.next4).tag = s.tag := rfl
@[simp] theorem next4_wait (s : Thread) : (s.next4).wait = s.wait := rfl
@[simp] theorem next4_pts (s : Thread) : (s.next4).pts = s.pts := rfl
@[simp] theorem next4_fence (s : Thread) : (s.next4).fence = s.fence := rfl
@[simp] theorem next4_awaiting (s : Thread) : (s.next4).awaiting = s.awaiting := rfl
@[simp] theorem next4_bad (s : Thread) : (s.next4).bad = s.bad := rfl
@[simp] theorem next4_peal (s : Thread) : (s.next4).peal = s.peal := rfl
@[simp] theorem next4_missed (s : Thread) : (s.next4).missed = s.missed := rfl
@[simp] theorem next4_entry (s : Thread) : (s.next4).entry = s.entry := rfl
@[simp] theorem next4_next (s : Thread) : (s.next4).next = s.next := rfl
@[simp] theorem next4_fbuf (s : Thread) : (s.next4).fbuf = s.fbuf := rfl

@[simp] theorem setVs_pc (l : List W32) : ∀ (s : Thread) (n : Nat), (s.setVs n l).pc = s.pc := by
  induction l with
  | nil => intro _ _; rfl
  | cons x l ih => intro s n; exact (ih _ _).trans rfl
@[simp] theorem setVs_cond (l : List W32) : ∀ (s : Thread) (n : Nat), (s.setVs n l).cond = s.cond := by
  induction l with
  | nil => intro _ _; rfl
  | cons x l ih => intro s n; exact (ih _ _).trans rfl
@[simp] theorem setVs_fb (l : List W32) : ∀ (s : Thread) (n : Nat), (s.setVs n l).fb = s.fb := by
  induction l with
  | nil => intro _ _; rfl
  | cons x l ih => intro s n; exact (ih _ _).trans rfl
@[simp] theorem setVs_sm (l : List W32) : ∀ (s : Thread) (n : Nat), (s.setVs n l).sm = s.sm := by
  induction l with
  | nil => intro _ _; rfl
  | cons x l ih => intro s n; exact (ih _ _).trans rfl
@[simp] theorem setVs_lk (l : List W32) : ∀ (s : Thread) (n : Nat), (s.setVs n l).lk = s.lk := by
  induction l with
  | nil => intro _ _; rfl
  | cons x l ih => intro s n; exact (ih _ _).trans rfl
@[simp] theorem setVs_rstack (l : List W32) : ∀ (s : Thread) (n : Nat), (s.setVs n l).rstack = s.rstack := by
  induction l with
  | nil => intro _ _; rfl
  | cons x l ih => intro s n; exact (ih _ _).trans rfl
@[simp] theorem setVs_rsd (l : List W32) : ∀ (s : Thread) (n : Nat), (s.setVs n l).rsd = s.rsd := by
  induction l with
  | nil => intro _ _; rfl
  | cons x l ih => intro s n; exact (ih _ _).trans rfl
@[simp] theorem setVs_emu (l : List W32) : ∀ (s : Thread) (n : Nat), (s.setVs n l).emu = s.emu := by
  induction l with
  | nil => intro _ _; rfl
  | cons x l ih => intro s n; exact (ih _ _).trans rfl
@[simp] theorem setVs_fpf (l : List W32) : ∀ (s : Thread) (n : Nat), (s.setVs n l).fpf = s.fpf := by
  induction l with
  | nil => intro _ _; rfl
  | cons x l ih => intro s n; exact (ih _ _).trans rfl
@[simp] theorem setVs_cause (l : List W32) : ∀ (s : Thread) (n : Nat), (s.setVs n l).cause = s.cause := by
  induction l with
  | nil => intro _ _; rfl
  | cons x l ih => intro s n; exact (ih _ _).trans rfl
@[simp] theorem setVs_epc (l : List W32) : ∀ (s : Thread) (n : Nat), (s.setVs n l).epc = s.epc := by
  induction l with
  | nil => intro _ _; rfl
  | cons x l ih => intro s n; exact (ih _ _).trans rfl
@[simp] theorem setVs_ebad (l : List W32) : ∀ (s : Thread) (n : Nat), (s.setVs n l).ebad = s.ebad := by
  induction l with
  | nil => intro _ _; rfl
  | cons x l ih => intro s n; exact (ih _ _).trans rfl
@[simp] theorem setVs_eword (l : List W32) : ∀ (s : Thread) (n : Nat), (s.setVs n l).eword = s.eword := by
  induction l with
  | nil => intro _ _; rfl
  | cons x l ih => intro s n; exact (ih _ _).trans rfl
@[simp] theorem setVs_clkHi (l : List W32) : ∀ (s : Thread) (n : Nat), (s.setVs n l).clkHi = s.clkHi := by
  induction l with
  | nil => intro _ _; rfl
  | cons x l ih => intro s n; exact (ih _ _).trans rfl
@[simp] theorem setVs_nsHi (l : List W32) : ∀ (s : Thread) (n : Nat), (s.setVs n l).nsHi = s.nsHi := by
  induction l with
  | nil => intro _ _; rfl
  | cons x l ih => intro s n; exact (ih _ _).trans rfl
@[simp] theorem setVs_recAddr (l : List W32) : ∀ (s : Thread) (n : Nat), (s.setVs n l).recAddr = s.recAddr := by
  induction l with
  | nil => intro _ _; rfl
  | cons x l ih => intro s n; exact (ih _ _).trans rfl
@[simp] theorem setVs_age (l : List W32) : ∀ (s : Thread) (n : Nat), (s.setVs n l).age = s.age := by
  induction l with
  | nil => intro _ _; rfl
  | cons x l ih => intro s n; exact (ih _ _).trans rfl
@[simp] theorem setVs_aged (l : List W32) : ∀ (s : Thread) (n : Nat), (s.setVs n l).aged = s.aged := by
  induction l with
  | nil => intro _ _; rfl
  | cons x l ih => intro s n; exact (ih _ _).trans rfl
@[simp] theorem setVs_tag (l : List W32) : ∀ (s : Thread) (n : Nat), (s.setVs n l).tag = s.tag := by
  induction l with
  | nil => intro _ _; rfl
  | cons x l ih => intro s n; exact (ih _ _).trans rfl
@[simp] theorem setVs_wait (l : List W32) : ∀ (s : Thread) (n : Nat), (s.setVs n l).wait = s.wait := by
  induction l with
  | nil => intro _ _; rfl
  | cons x l ih => intro s n; exact (ih _ _).trans rfl
@[simp] theorem setVs_pts (l : List W32) : ∀ (s : Thread) (n : Nat), (s.setVs n l).pts = s.pts := by
  induction l with
  | nil => intro _ _; rfl
  | cons x l ih => intro s n; exact (ih _ _).trans rfl
@[simp] theorem setVs_fence (l : List W32) : ∀ (s : Thread) (n : Nat), (s.setVs n l).fence = s.fence := by
  induction l with
  | nil => intro _ _; rfl
  | cons x l ih => intro s n; exact (ih _ _).trans rfl
@[simp] theorem setVs_peal (l : List W32) : ∀ (s : Thread) (n : Nat), (s.setVs n l).peal = s.peal := by
  induction l with
  | nil => intro _ _; rfl
  | cons x l ih => intro s n; exact (ih _ _).trans rfl
@[simp] theorem setVs_missed (l : List W32) : ∀ (s : Thread) (n : Nat), (s.setVs n l).missed = s.missed := by
  induction l with
  | nil => intro _ _; rfl
  | cons x l ih => intro s n; exact (ih _ _).trans rfl
@[simp] theorem setVs_entry (l : List W32) : ∀ (s : Thread) (n : Nat), (s.setVs n l).entry = s.entry := by
  induction l with
  | nil => intro _ _; rfl
  | cons x l ih => intro s n; exact (ih _ _).trans rfl
@[simp] theorem setVs_next (l : List W32) : ∀ (s : Thread) (n : Nat), (s.setVs n l).next = s.next := by
  induction l with
  | nil => intro _ _; rfl
  | cons x l ih => intro s n; exact (ih _ _).trans rfl
@[simp] theorem setVs_fbuf (l : List W32) : ∀ (s : Thread) (n : Nat), (s.setVs n l).fbuf = s.fbuf := by
  induction l with
  | nil => intro _ _; rfl
  | cons x l ih => intro s n; exact (ih _ _).trans rfl

/-! ## What a changed part reads as -/

theorem die_modDie (s : State) (d e : Nat) (f : Die → Die) (hd : d < 2) (he : e < 2) :
    (s.modDie d f).die e = if e = d then f (s.die e) else s.die e := by
  have h1 : d = 0 ∨ d = 1 := by omega
  have h2 : e = 0 ∨ e = 1 := by omega
  rcases h1 with rfl | rfl <;> rcases h2 with rfl | rfl <;> rfl

theorem col_modCol (s : State) (d c e k : Nat) (f : Column → Column) (h : 104 * e + k < s.cols.length) :
    (s.modCol d c f).col e k = if 104 * d + c = 104 * e + k then f (s.col e k) else s.col e k := by
  simp only [State.col, State.modCol, List.getD_eq_getElem?_getD, List.getElem?_modify]
  split <;> simp [h]

/-- An update of crews that keeps their places finds the crew it changed. -/
theorem crew?_modCrew (s : State) (p q : CrewAt) (f : Crew → Crew) (hf : ∀ c, (f c).place = c.place) :
    (s.modCrew p f).crew? q = if q = p then (s.crew? q).map f else s.crew? q := by
  simp only [State.crew?, State.modCrew]
  induction s.crews with
  | nil => simp
  | cons c l ih =>
    rw [List.map_cons, List.find?_cons, List.find?_cons]
    by_cases hc : c.place = p
    · rw [if_pos hc, hf c]
      by_cases hq : c.place = q
      · simp [hq, show q = p from hq ▸ hc]
      · simp only [hq, decide_false, ih]
    · rw [if_neg hc]
      by_cases hq : c.place = q
      · have : ¬ q = p := fun e => hc (hq.trans e)
        simp [hq, this]
      · simp only [hq, decide_false, ih]

theorem crew?_modThread (s : State) (p q : CrewAt) (t : Nat) (f : Thread → Thread) :
    (s.modThread p t f).crew? q = if q = p then (s.crew? q).map (fun c => c.modThread t f) else s.crew? q :=
  crew?_modCrew s p q _ fun _ => rfl

/-- A thread after one of its crew, or another, was changed. -/
theorem thread?_modThread (s : State) (p q : CrewAt) (t u : Nat) (f : Thread → Thread) :
    (s.modThread p t f).thread? q u = if q = p ∧ u = t then (s.thread? q u).map f else s.thread? q u := by
  simp only [State.thread?, crew?_modThread]
  by_cases hq : q = p
  · rw [if_pos hq]
    cases s.crew? q with
    | none => simp
    | some c =>
      simp only [Option.map_some, Option.bind_some, Crew.modThread, List.getElem?_modify, hq, true_and]
      by_cases hu : t = u
      · simp [hu]
      · simp [hu, Ne.symm hu]
  · simp [hq]

/-! ## Registers of a thread -/

theorem v_setV_self (t : Thread) (n : Nat) (x : W32) (h : 0 < t.stripe.length) : (t.setV n x).v n = x := by
  have hs : t.slot n < t.stripe.length := Nat.mod_lt _ h
  have e : (t.setV n x).slot n = t.slot n := by simp [Thread.slot, Thread.setV]
  rw [Thread.v, e]; simp [Thread.setV, List.getD_eq_getElem?_getD, hs]

theorem v_setV_other (t : Thread) (n k : Nat) (x : W32) (h : t.slot k ≠ t.slot n) : (t.setV n x).v k = t.v k := by
  have e : (t.setV n x).slot k = t.slot k := by simp [Thread.slot, Thread.setV]
  rw [Thread.v, e]
  simp [Thread.setV, Thread.v, List.getD_eq_getElem?_getD, List.getElem?_set_ne (Ne.symm h)]

/-- Registers of one window lie in different slots: the stripe holds at least 64 (03 Table 3.3). -/
theorem slot_inj (t : Thread) (n k : Nat) (h : 64 ≤ t.stripe.length) (hn : n < 64) (hk : k < 64)
    (e : t.slot n = t.slot k) : n = k := by
  simp only [Thread.slot] at e
  have h1 := Nat.sub_mod_eq_zero_of_mod_eq e
  have h2 := Nat.sub_mod_eq_zero_of_mod_eq e.symm
  have a1 := fun hp => Nat.le_of_dvd hp (Nat.dvd_of_mod_eq_zero h1)
  have a2 := fun hp => Nat.le_of_dvd hp (Nat.dvd_of_mod_eq_zero h2)
  rcases Nat.lt_trichotomy n k with hl | hl | hl
  · exact absurd (a2 (by omega)) (by omega)
  · exact hl
  · exact absurd (a1 (by omega)) (by omega)

theorem c_setC (t : Thread) (j k : Nat) (b : Bool) (hj : j < 8) (hk : k < 8) :
    (t.setC j b).c k = if k = j then b else t.c k := by
  have hp : ∀ i < 8, (BitVec.ofNat 8 (2 ^ j)).getLsbD i = decide (i = j) := by
    revert j; decide
  simp only [Thread.c, Thread.setC, setBit8]
  cases b with
  | true =>
    rw [if_pos rfl, BitVec.getLsbD_or, hp k hk]
    by_cases h : k = j <;> simp [h]
  | false =>
    rw [if_neg (by simp), BitVec.getLsbD_and, BitVec.getLsbD_not, hp k hk]
    by_cases h : k = j <;> simp [h, hk]

/-! ## Shared operations: what each can do, said once -/

/-- A register instruction changes only threads of the group: those take the function and, outside a PEAL, the next PC. -/
theorem perThread_thread (s : State) (f : Crew → Nat → Thread → Thread) (c : Crew) (hc : s.crew? s.cur.place = some c)
    (hp : s.cur.peal = false) (i : Nat) :
    (s.perThread f).thread? s.cur.place i =
      (c.threads[i]?).map fun t => if s.cur.tids.contains i then (f c i t).next4 else t := by
  have hm : ∀ (g : Nat → Thread → Thread) (l : List Thread) (k i : Nat),
      (mapIdxFrom g k l)[i]? = (l[i]?).map (g (k + i)) := by
    intro g l
    induction l with
    | nil => intro _ _; rfl
    | cons x l ih =>
      intro k i
      cases i with
      | zero => simp [mapIdxFrom]
      | succ i => rw [mapIdxFrom, List.getElem?_cons_succ, List.getElem?_cons_succ, ih]; congr 2; omega
  simp only [State.perThread, hp, State.thread?]
  rw [if_neg (by simp), crew?_modCrew]
  · simp [hc, hm]
  · exact fun _ => rfl

/-- Parking changes the wait of one thread. -/
theorem park_thread (s : State) (p q : CrewAt) (t u : Nat) (w : Wait) :
    (s.park p t w).thread? q u =
      if q = p ∧ u = t then (s.thread? q u).map (fun x => { x with wait := w }) else s.thread? q u :=
  thread?_modThread s p q t u _

/-- The step of one thread to its next instruction. -/
theorem finish_thread (s : State) (q : CrewAt) (t u : Nat) (hp : s.cur.peal = false) :
    (s.finish t).thread? q u = if q = s.cur.place ∧ u = t then (s.thread? q u).map Thread.next4 else s.thread? q u := by
  simp only [State.finish, hp]
  exact thread?_modThread s _ q t u _

/-- A draw of a free outcome answers one of the outcomes. -/
theorem pick_lt (s : State) (n : Nat) (h : 0 < n) : (s.pick n).1 < n := by
  unfold State.pick
  split
  · exact h
  · exact Nat.mod_lt _ h

/-- Every word written is good again (11 R236). -/
theorem bad_setV (t : Thread) (n : Nat) (x : W32) (i : Nat) : i ∈ (t.setV n x).bad ↔ i ∈ t.bad ∧ i ≠ t.slot n := by
  simp [Thread.setV]

/-- A ticket is the first free serial of its die (11 Table 11.2). -/
theorem newTicket_val (s : State) (d : Nat) :
    (s.newTicket d).1 =
      ticketWord d (freeSerial d (s.tickets.map Ticket.ticket) s.tickets.length (s.die d).ticket) := rfl

end Sys2Proof.Laws
end

