-- ==== Sys2Proof/Tests/Slice0.lean ====
section
/-! SUPPORT. The model's own tests: words of the spec's encodings decode, ill-formed terms are refused, small examples of the
spec's tables, and for every statement with hypotheses a state and operands that meet them. -/

namespace Sys2Proof.Tests

open Sys2Proof Sys2Proof.Machine

set_option Elab.async false

/-! ## A small module -/

/-- A thread at 0x1000 whose first registers are given. -/
def thr (l : List W32) : Thread :=
  { Thread.launched 0x1000 64 0 0 0 with stripe := l ++ List.replicate (64 - l.length) 0 }

/-- A stage descriptor: records of 16 bytes, crews of two, no bindings. -/
def desc0 : StageDesc := { StageDesc.zero with entry := 0x1000, crewsize := 2, capacity := 4, lsize := 4096, rangeunit := 3, tiles := 2 }

def stageOf (d : StageDesc) (q : List QRec) : Stage :=
  { desc := some d, capacity := some d.capacity, queue := q, formed := [], saved := [], start := none, grant := [], waiting := none }

def eff0 : Effective := { Effective.zero with lmem := 0x10000, ways := 2, tiles := 4, stackbase := 0x8000, stacksize := 0x1000 }

def region0 : Region := { rcb := 0x4000, parent := 0, eff := eff0, savearea := 0x20000, stages := [stageOf desc0 []] }

/-- A running crew of the region's stage 0 in slot 0 of column 0 of die 0. -/
def crewOf (ts : List Thread) : Crew :=
  { place := ⟨0, 0, 0⟩, uid := 7, at_ := ⟨0x4000, 0⟩, crewno := 0, present := BitVec.ofNat 32 (2 ^ ts.length - 1)
    threads := ts, g := List.replicate 32 0, fp4x := 0
    cv := List.replicate 8 ⟨BitVec.ofNat 32 (2 ^ ts.length - 1), 0, none⟩, ob := List.replicate 16 none
    tiles := List.replicate 2 ⟨[], false, false, false⟩, lsize := 4096, lmode := 0, mem := [], empty := [], tracked := []
    records := [], phase := .running, bindNext := 0, bindPage := none, bindMissed := none, bindErr := none, twin := none, first := true
    bound := false, widowed := false, held := [], launchNs := 0 }

/-- The first 2 MiB of device memory, mapped one to one, readable, writable and executable. -/
def page0 : TlbEntry := { va := 0, bits := 21, pa := 0, leaf := 0xF#64, level := 1 }

def wide0 : List (W64 × W64) := [(0, 0xFFFFFFF1FF#64), (0, 0), (0, 0), (0, 0)]

/-- The next 2 MiB name host memory. -/
def hostPage0 : TlbEntry := { va := 0x200000, bits := 21, pa := 0, leaf := 0x207#64, level := 1 }
/-- Column 0 holds the pages' entries, and the access tables admit it, and the host function. -/
def worldOf (cs : List Crew) (col : Column → Column) : State :=
  { State.reset with
    crews := cs, regions := [region0], serial := 9, store := 5, attached := true, enumerated := true
    cols := State.reset.cols.modify 0 fun k => col { k with enabled := true, l1 := [page0, hostPage0] }
    die0 := { Die.reset with access := [((0, 0), wide0), ((0, 104), wide0), ((0, 117), wide0), ((0, 119), wide0), ((0, 121), wide0), ((0, 122), wide0), ((5, 0), wide0),
      ((1, 119), wide0), ((2, 119), wide0), ((0, 118), wide0), ((1, 118), wide0), ((3, 118), wide0)] }
    host := { HostRegs.reset with bringup := 2 }
    cur := { Current.none with place := ⟨0, 0, 0⟩, tids := [0], pc := 0x1000, word := 0x01000000 } }

def world (ts : List Thread) : State := worldOf [crewOf ts] id
/-- The same with an issue group of all threads. -/
def group (ts : List Thread) : State :=
  { world ts with cur := { (world ts).cur with tids := List.range ts.length } }

def out (o : Host.Outcome State Fault Refusal) : State :=
  match o with
  | .next s => s
  | _ => State.reset

/-- A register of a thread of the crew after an instruction. -/
def regAfter (i : Instr) (s : State) (tid n : Nat) : Option W32 := ((out (exec i s)).thread? ⟨0, 0, 0⟩ tid).map fun t => t.v n
def condAfter (i : Instr) (s : State) (tid k : Nat) : Option Bool := ((out (exec i s)).thread? ⟨0, 0, 0⟩ tid).map fun t => t.c k

theorem alone (t : Thread) (ts : List Thread) : Alone (world (t :: ts)) (crewOf (t :: ts)) 0 t := ⟨rfl, rfl, rfl, rfl⟩

theorem ingroup (t : Thread) (ts : List Thread) : InGroup (world (t :: ts)) (crewOf (t :: ts)) 0 t := ⟨rfl, List.mem_singleton.2 rfl, rfl⟩

/-- No thread of these crews waits at a BARW. -/
theorem noWaiter {s : State} (h : s.crews.all (fun c => c.threads.all fun t => match t.wait with
    | .barrier _ _ _ => false
    | _ => true) = true) : noBarrierWaiter s := by
  intro c hc t ht o p w e
  have := List.all_eq_true.1 (List.all_eq_true.1 h c hc) t ht
  rw [e] at this
  exact Bool.noConfusion this

/-! ## Words that the spec writes out decode (13 Tables 13.10 and the entries of chapters 14 to 17) -/

def reads (w : W32) (i : Instr) : Bool := (decode w).toOption == some i

theorem test_decode_system :
    (reads 0x0214A800 (.movs 5 .pose) && reads 0x030030E0 (.movt .fp4x (.v 6)) && reads 0x030300D0 (.movt .fpf (.int 0))
      && reads 0x05280000 (.scway 10) && reads 0x05100001 (.scfl 4) && reads 0x04000001 .syscBudget
      && reads 0x06000007 (.trap 7)) = true := by decide

theorem test_decode_integer :
    (reads 0x10081030 (.add 2 (.v 2) (.v 3)) && reads 0x10102061 (.addc 4 (.v 4) (.v 6)) && reads 0x10102063 (.subb 4 (.v 4) (.v 6))
      && reads 0x100C189A (.sar 3 (.v 3) (.v 9)) && reads 0x10041036 (.xor 1 (.v 2) (.v 3))
      && reads 0x1004103F (.maxu 1 (.v 2) (.v 3)) && reads 0x11041033 (.divs 1 (.v 2) (.v 3))
      && reads 0x11041035 (.rems 1 (.v 2) (.v 3)) && reads 0x11082689 (.shlw 2 (.v 4) (.int 8))
      && reads 0x110C205E (.lea 3 (.v 4) (.v 5) 2) && reads 0x12041006 (.brev 1 (.v 2)) && reads 0x12078807 (.mov 1 .one)) = true := by
  decide

theorem test_decode_integer_fields :
    (reads 0x1404103D (.sel 1 (.v 2) (.v 3) 5 true) && reads 0x15184207 (.bfx 6 4 8 7 false)
      && reads 0x161C6283 (.bfi 7 6 10 3) && reads 0x170420C4 (.mad 1 2 3 4) && reads 0x18442FFD (.icmpi .lt 1 (.v 5) 0x7FD)
      && reads 0x201E1FFB (.addi 7 (.g 3) 0x7FB) && reads 0x22040C00 (.ori 1 (.v 1) 0x400)
      && reads 0x23040FFF (.xori 1 (.v 1) 0x7FF) && reads 0x24041004 (.shli 1 (.v 2) 4)
      && reads 0x280C999A (.moviLo 3 0x999A) && reads 0x280E3E99 (.moviHi 3 0x3E99)) = true := by decide

theorem test_decode_floating :
    (reads 0x30143721 (.fadd .rz 5 (.v 6) .half) && reads 0x3004103E (.fdiv .rup 1 (.v 2) (.v 3))
      && reads 0x310C2007 (.frnd .rdn 3 (.v 4)) && reads 0x32280822 (.fcmp .lt .and 2 (.v 1) (.v 2))
      && reads 0x33081803 (.fexp 2 (.v 3)) && reads 0x340420C4 (.ffma 1 2 3 4)
      && reads 0x38041038 (.hadd2 .bf16 1 (.v 2) (.v 3)) && reads 0x3B08082A (.hcmp2 .lt .bf16 .set 1 (.v 1) (.v 2))) = true := by
  decide

theorem test_decode_complex_and_cross :
    (reads 0x406CD9F6 (.crot .fp16 27 (.v 27) (.v 31)) && reads 0x400C1E16 (.crot .fp16 3 (.v 3) (.int 1))
      && reads 0x46081804 (.twid .fp16 false 2 (.v 3) 4) && reads 0x48208240 (.bfly .fp16 8 8 9 0)
      && reads 0x494C48F0 (.shufIdx 19 (.v 9) (.v 15)) && reads 0x49183611 (.shufXor 6 (.v 6) (.int 1))
      && reads 0x4A680016 (.voteAny 26 6) && reads 0x4A1C0023 (.voteBallot 7 3)) = true := by decide

theorem test_decode_copy_and_matrix :
    (reads 0x4C10502B (.xcopy true .die true true 4 5) && reads 0x4D102140 (.xlut 4 2 5) && reads 0x4E004000 (.obres 0 4 0)
      && reads 0x4E04A30A (.obld 1 10 12 1) && reads 0x4F084148 (.mma 2 4 5 1) && reads 0x4F0420D1 (.mmac 1 2 3 2)
      && reads 0x4F081002 (.mdft false .n16 2 1 0) && reads 0x4F003182 (.mdft true .n64 0 3 0)
      && reads 0x4F010003 (.mdrn 0 16 0) && reads 0x4F0C0044 (.mzro true 3 0) && reads 0x57000004 (.mtwn 0)
      && reads 0x57040000 (.tkget 1 0) && reads 0x57040001 (.tkput 1 0)) = true := by decide

theorem test_decode_quantise_bits_queues :
    (reads 0x541461C4 (.rng 5 6 7 4) && reads 0x58146104 (.cbop 5 6 4 4) && reads 0x581C0000 (.cbop 7 0 0 0)
      && reads 0x5D103000 (.range 4 3) && reads 0x5F202100 (.tex 8 2 4) && reads 0x5F303001 (.trav 12 3)
      && reads 0x5F008002 (.rast 8)) = true := by decide

theorem test_decode_control :
    (reads 0x616FFFF0 (.bc 3 false true 0x7FFF0) && reads 0x62A00400 (.call 40 0x400) && reads 0x67300000 (.retc 1 true)
      && reads 0x67200000 (.retc 1 false) && reads 0x6A002001 (.nap (.v 4) 1) && reads 0x6B004800 (.peal 9)) = true := by decide

theorem test_decode_memory_and_cache :
    (reads 0x7010AA42 (.ldg .w 4 10 (some 2) 2) && reads 0x7110AA42 (.stg .w 4 10 (some 2) 2)
      && reads 0x72252D00 (.ldl .b 9 18 (some 5) 0) && reads 0x73040041 (.stl .w 1 0 none 1)
      && reads 0x7418C0A1 (.ldt .col .d 6 12 none 1) && reads 0x74A220C1 (.ldt .col .q 40 34 none 1)
      && reads 0x7518C080 (.stt .col .w 6 12 none 0) && reads 0x7608A0C2 (.atom .add .c1 2 10 3)
      && reads 0x7900A022 (.pref .l2 10 none 2) && reads 0x7D20A002 (.iinv 8 10)) = true := by decide

theorem test_decode_uniform :
    (reads 0x90083080 (.uadd 1 (.g 1) (.int 1)) && reads 0x90084192 (.ucmp .lt 1 (.g 2) (.g 3))
      && reads 0x92208010 (.uld 4 2 16) && reads 0x912A1234 (.umoviHi 5 0x1234)) = true := by decide

/-- What is no instruction: code 7 of LDG's size, a reserved major, a bit set in an unused field, an odd pair, a U-set word of a
reserved function (13 R262, R264, R268). -/
theorem test_decode_refuses :
    ((decode 0x7010AAE2).toOption.isNone && (decode 0x0F000000).toOption.isNone && (decode 0x01000001).toOption.isNone
      && (decode 0x11042689).toOption.isNone && (decode 0x90083BFB).toOption.isNone) = true := by decide
/-! ## Ill-formed terms are refused, one for each check of `Instr.wf` -/

theorem test_wf_refuses_sources :
    ([.addw 2 .one (.v 4), .addw 3 (.v 4) (.v 4), .subw 2 (.v 5) (.v 4), .subw 2 (.g 1) (.v 4), .shlw 3 (.v 4) (.v 1),
      .shrw 2 (.v 3) (.v 1), .bri .minusOne, .bri (.int 0), .bri (.v 3), .bri (.g 3), .calli 0 3] : List Instr).all (fun i => !i.wf) = true := by decide

theorem test_wf_refuses_sources_2 :
    ([.cadd .fp32 3 (.v 2) (.v 2), .csub .fp32 2 (.v 3) (.v 2), .cmul .fp32 2 (.g 3) (.v 2),
      .crot .fp32 2 (.v 2) (.v 3), .cmag .fp32 1 (.v 2), .carg .fp32 2 (.v 1), .cexi .fp32 1 (.v 2), .cfmaFp32 1 2 2 2,
      .cfmaFp32 2 1 2 2, .cfmaFp32 2 2 1 2, .cfmaFp32 2 2 2 1] : List Instr).all (fun i => !i.wf) = true := by decide

theorem test_wf_refuses_fields :
    ([.twid .fp16 false 1 (.v 1) 0, .twid .fp16 false 1 (.v 1) 25, .twid .fp32 true 1 (.v 1) 4, .bfly .fp16 1 1 1 5,
      .bfly .fp32 1 2 2 0, .bfly .fp32 2 1 2 0, .bfly .fp32 2 2 1 0, .obld 0 1 2 0, .mdft false .n64 1 0 0,
      .cvt .h4 .h4 .rz false 1 1, .cvt .h8 .h8 .rup false 1 1, .qpack .e2m1 .fp32 0 4 1] : List Instr).all (fun i => !i.wf) = true := by decide

theorem test_wf_refuses_fields_2 :
    ([.qpack .q4n .fp32 0 0 1, .qunpk .e4m3 .fp16 1 0 0, .qunpk .q4n .bf16 0 0 3, .qscl .e4m3 .fp16 0 0 1,
      .rng 0 0 0 3, .rng 0 0 0 30, .range 1 0, .qstat 1 0, .tex 2 0 0, .tex 4 0 1, .trav 2 0, .convQuery 1 0] : List Instr).all (fun i => !i.wf) = true := by decide

theorem test_wf_refuses_memory_forms :
    ([.ldg .w 0 1 none 0, .ldg .d 1 0 none 0, .ldg .q 2 0 none 0, .stg .w 0 1 none 0, .stg .d 1 0 none 0,
      .stg .q 2 0 none 0, .ldl .d 1 0 none 0, .ldl .q 2 0 none 0, .stl .d 1 0 none 0, .stl .q 2 0 none 0,
      .ldt .row .d 1 0 none 0, .ldt .col .q 2 0 none 0, .stt .row .d 1 0 none 0] : List Instr).all (fun i => !i.wf) = true := by decide

theorem test_wf_refuses_memory_forms_2 :
    ([.stt .col .q 2 0 none 0, .atom .add .none 0 1 0, .atomn .add .none 1 0, .cas 0 1 0 0, .pref .l2 1 none 0,
      .cwb 1 0, .cinv 1 0, .iinv 1 0, .ipre 1 0, .ipin 1 0, .iunp 1 0, .uld 0 1 0, .uld 0 0 2] : List Instr).all (fun i => !i.wf) = true := by decide

theorem test_wf_refuses_events :
    ([.scwayComplete 2 0, .scflComplete 0 104, .fenceHostTransmitted ⟨⟨0, 0, 64⟩, 0⟩, .rsizeWrite 3 0,
      .framePointerWrite 2 0, .scanoutLutWrite 2 0 0 4 0, .scanoutLutWrite 0 3 0 4 0, .scanoutLutWrite 0 0 4096 4 0,
      .scanoutLutWrite 0 0 2 8 0, .scanoutLutWrite 0 0 0 2 0, .accessTableWrite 2 0 0 [],
      .accessTableWrite 0 7 0 wide0, .accessTableWrite 0 0 256 wide0, .accessTableWrite 0 0 0 []] : List Instr).all (fun i => !i.wf) = true := by decide

theorem test_wf_refuses_events_2 :
    ([.registerWrite 256 0 4 0, .hostRingEntryWrite 3, .scanoutFieldStart 2, .columnGrant 2,
      .crewSave ⟨2, 0, 0⟩ .preemption, .saveTimeout ⟨0, 104, 0⟩, .crewStart ⟨0, 0, 64⟩, .crewEnd ⟨2, 0, 0⟩,
      .obresSpaceFreed ⟨2, 0, 0⟩, .crewResume ⟨0, 0⟩ 104, .crewLaunch ⟨0, 0⟩ 104, .remoteEnqAccept 2,
      .enqQueueRoom ⟨⟨0, 0, 0⟩, 32⟩] : List Instr).all (fun i => !i.wf) = true := by decide

theorem test_wf_refuses_more_events :
    ([.ageingPromotion 0 104, .pageWalk 2, .walkComplete 2 0, .pagingServiceReply 2 0 .refuse, .taggedReply 0 104 0,
      .copySectorRead 2 0 0, .copySectorLand 2 0 0, .amaxFold 0 104 0, .texReply 2 0 0, .travReply 2 0 0,
      .rastRun 2 0 0, .matrixEngineHang 2 0, .matrixOperationFinished 0 104, .matrixEngineResetComplete 2 0,
      .ffRequestTakeup 2 0 .tex] : List Instr).all (fun i => !i.wf) = true := by decide

theorem test_wf_refuses_last_events :
    ([.thermalMigration ⟨0, 0, 0⟩ 104, .thermalMigration ⟨2, 0, 0⟩ 0, .thermalShutdown 2,
      .remapScrub 0 104 .good .good, .faultRecordAppend 2, .fatalError .watchdog 2, .dieFreeze 2,
      .halyardMessage 0 13 .toLeaf, .napTimeout ⟨⟨2, 0, 0⟩, 0⟩, .yieldExpiry ⟨⟨2, 0, 0⟩, 0⟩,
      .cwbComplete ⟨⟨2, 0, 0⟩, 0⟩, .cinvComplete ⟨⟨2, 0, 0⟩, 0⟩, .iinvComplete ⟨⟨2, 0, 0⟩, 0⟩,
      .ipinComplete ⟨⟨2, 0, 0⟩, 0⟩, .instructionFetchReturn ⟨⟨2, 0, 0⟩, 0⟩,
      .columnFence 2 0 ⟨.remap, false, []⟩] : List Instr).all (fun i => !i.wf) = true := by decide

/-! ## Values of the spec's examples -/

/-- Forty-eight registers, with the ones listed set. -/
def regs (l : List (Nat × W32)) : List W32 := (List.range 48).map fun n => ((l.find? fun e => e.1 = n).map Prod.snd).getD 0
def one (l : List (Nat × W32)) : State := world [thr (regs l)]
/-- With c7 set. -/
def carried (l : List (Nat × W32)) : State := world [{ thr (regs l) with cond := 0x80 }]

theorem test_addc_wraps : regAfter (.addc 4 (.v 4) (.v 6)) (carried [(4, 0xFFFFFFFF), (6, 1)]) 0 4 = some 1
    ∧ condAfter (.addc 4 (.v 4) (.v 6)) (carried [(4, 0xFFFFFFFF), (6, 1)]) 0 7 = some true := by decide
theorem test_subb_borrows : regAfter (.subb 4 (.v 4) (.v 6)) (carried []) 0 4 = some 0xFFFFFFFF
    ∧ condAfter (.subb 4 (.v 4) (.v 6)) (carried []) 0 7 = some true := by decide
theorem test_bfi : regAfter (.bfi 20 21 22 5) (one [(20, 0x10000000), (21, 2), (22, 18)]) 0 20 = some 0x10080000 := by decide
theorem test_bfx_cut_short : regAfter (.bfx 1 2 3 7 true) (one [(2, 0x8FFFFFFF), (3, 28)]) 0 1 = some 0xFFFFFFF8 := by decide
theorem test_brev : regAfter (.brev 1 (.v 2)) (one [(2, 0x12345678)]) 0 1 = some 0x1E6A2C48 := by decide +kernel
theorem test_bprm_reverses : regAfter (.bprm 1 (.v 2) (.v 3)) (one [(2, 0x11223344), (3, 0x0123)]) 0 1 = some 0x44332211 := by decide
theorem test_bprm_sign : regAfter (.bprm 1 (.v 2) (.v 3)) (one [(2, 0x11228344), (3, 0x9910)]) 0 1 = some 0xFFFF8344 := by decide
theorem test_divs : regAfter (.divs 1 (.v 2) (.v 3)) (one [(2, 0xFFFFFFF9), (3, 2)]) 0 1 = some 0xFFFFFFFD := by decide
theorem test_divu : regAfter (.divu 1 (.v 2) (.v 3)) (one [(2, 0xFFFFFFF9), (3, 2)]) 0 1 = some 0x7FFFFFFC := by decide
theorem test_rems : regAfter (.rems 1 (.v 2) (.v 3)) (one [(2, 0xFFFFFFF9), (3, 2)]) 0 1 = some 0xFFFFFFFF := by decide
theorem test_remu : regAfter (.remu 1 (.v 2) (.v 3)) (one [(2, 0xFFFFFFF9), (3, 2)]) 0 1 = some 1 := by decide
theorem test_maxu_max : regAfter (.maxu 1 (.v 2) (.v 3)) (one [(2, 0xFFFFFFFF), (3, 5)]) 0 1 = some 0xFFFFFFFF
    ∧ regAfter (.max 1 (.v 2) (.v 3)) (one [(2, 0xFFFFFFFF), (3, 5)]) 0 1 = some 5 := by decide
theorem test_lea : regAfter (.lea 3 (.v 4) (.v 5) 2) (one [(4, 0x1000), (5, 7)]) 0 3 = some 0x101C := by decide
theorem test_mul_forms : regAfter (.mul 1 (.v 2) (.v 3)) (one [(2, 0xFFFFFFFF), (3, 2)]) 0 1 = some 0xFFFFFFFE
    ∧ regAfter (.mulh 1 (.v 2) (.v 3)) (one [(2, 0xFFFFFFFF), (3, 2)]) 0 1 = some 0xFFFFFFFF
    ∧ regAfter (.mulhu 1 (.v 2) (.v 3)) (one [(2, 0xFFFFFFFF), (3, 2)]) 0 1 = some 1 := by decide
theorem test_shifts_by_40 : regAfter (.shl 1 (.v 2) (.v 3)) (one [(2, 0x800000F0), (3, 40)]) 0 1 = some 0
    ∧ regAfter (.shr 1 (.v 2) (.v 3)) (one [(2, 0x800000F0), (3, 40)]) 0 1 = some 0
    ∧ regAfter (.sar 1 (.v 2) (.v 3)) (one [(2, 0x800000F0), (3, 40)]) 0 1 = some 0xFFFFFFFF
    ∧ regAfter (.rotl 1 (.v 2) (.v 3)) (one [(2, 0x800000F0), (3, 40)]) 0 1 = some 0x0000F080 := by decide
theorem test_shifts_by_4 : regAfter (.shl 1 (.v 2) (.v 3)) (one [(2, 0x800000F0), (3, 4)]) 0 1 = some 0xF00
    ∧ regAfter (.shr 1 (.v 2) (.v 3)) (one [(2, 0x800000F0), (3, 4)]) 0 1 = some 0x0800000F
    ∧ regAfter (.sar 1 (.v 2) (.v 3)) (one [(2, 0x800000F0), (3, 4)]) 0 1 = some 0xF800000F
    ∧ regAfter (.rotl 1 (.v 2) (.v 3)) (one [(2, 0x800000F0), (3, 4)]) 0 1 = some 0x00000F08 := by decide
theorem test_neg_abs_edge : regAfter (.neg 1 (.v 2)) (one [(2, 0x80000000)]) 0 1 = some 0x80000000
    ∧ regAfter (.abs 1 (.v 2)) (one [(2, 0x80000000)]) 0 1 = some 0x80000000 := by decide
theorem test_mov_one : regAfter (.mov 1 .one) (one []) 0 1 = some 0x3F800000 := by decide
theorem test_movi_pair : regAfter (.moviHi 3 0x3E99) (one [(3, 0x999A)]) 0 3 = some 0x3E99999A := by decide
theorem test_cbop_clears : condAfter (.cbop 7 0 0 0) (carried []) 0 7 = some false := by decide
theorem test_icmpi_minus_one : condAfter (.icmpi .geu 0 (.v 5) 0x7FF) (one [(5, 0xFFFFFFFF)]) 0 0 = some true
    ∧ condAfter (.icmpi .geu 0 (.v 5) 0x7FF) (one [(5, 0xFFFFFFFE)]) 0 0 = some false := by decide
theorem test_fcmp_zeros : condAfter (.fcmp .le .set 2 (.v 1) (.v 2)) (one [(1, 0x80000000)]) 0 2 = some true
    ∧ condAfter (.fcmp .lt .set 2 (.v 1) (.v 2)) (one [(1, 0x80000000)]) 0 2 = some false := by decide
theorem test_fexp : regAfter (.fexp 2 (.v 3)) (one [(3, 0xC1000000)]) 0 2 = some 0x3B800000 := by decide
theorem test_fcls_subnormal : regAfter (.fcls 1 (.v 2)) (one [(2, 0x80000001)]) 0 1 = some 0x10 := by decide
/-- The narrowings of 05 R96. -/
theorem test_cvt_nan : regAfter (.cvt .fp16 .fp32 .rne false 1 2) (one [(2, 0x7F801234)]) 0 1 = some 0x7E00
    ∧ regAfter (.cvt .bf16 .fp32 .rne false 1 2) (one [(2, 0xFFA00001)]) 0 1 = some 0xFFE0 := by decide
theorem test_crot_by_one : regAfter (.crot .fp16 3 (.v 3) (.int 1)) (one [(3, 0x3C00)]) 0 3 = some 0x3C008000 := by decide
theorem test_twid_forward : regAfter (.twid .fp16 false 2 (.v 3) 4) (one [(3, 2)]) 0 2 = some 0xB9A839A8 := by decide +kernel
theorem test_twid_inverse : regAfter (.twid .fp16 true 2 (.v 3) 4) (one [(3, 2)]) 0 2 = some 0x39A839A8 := by decide +kernel

/-- 14 Table 14.8. -/
def wing : State := group [thr (regs [(8, 0x00003C00), (9, 0xBC000000)]), thr (regs [(8, 0x40003800)])]
theorem test_butterfly : regAfter (.bfly .fp16 8 8 9 0) wing 0 8 = some 0xB8004200
    ∧ regAfter (.bfly .fp16 8 8 9 0) wing 1 8 = some 0x3800BC00 ∧ condAfter (.bfly .fp16 8 8 9 0) wing 0 6 = some false := by decide

/-- 17 Table 17.4. -/
def four : State := group ([10, 11, 12, 13].map fun x => thr (regs [(6, x)]))
theorem test_shuffle : regAfter (.shufXor 6 (.v 6) (.int 1)) four 0 6 = some 11
    ∧ regAfter (.shufXor 6 (.v 6) (.int 1)) four 1 6 = some 10 ∧ condAfter (.shufXor 6 (.v 6) (.int 1)) four 0 6 = some false := by decide
theorem test_shuffle_alone : regAfter (.shufXor 6 (.v 6) (.int 1)) (one [(6, 10)]) 0 6 = some 10
    ∧ condAfter (.shufXor 6 (.v 6) (.int 1)) (one [(6, 10)]) 0 6 = some true := by decide

/-- The votes of 17 R385: c3 = 1, 0, 1, 1. -/
def voters : State := group ([8, 0, 8, 8].map fun x => { thr [] with cond := x })
theorem test_votes : regAfter (.voteAll 7 3) voters 2 7 = some 0 ∧ regAfter (.voteAny 7 3) voters 2 7 = some 1
    ∧ regAfter (.voteBallot 7 3) voters 2 7 = some 0xD := by decide

theorem test_umovi_high : ((out (exec (.umoviHi 5 0x1234) (one []))).crew? ⟨0, 0, 0⟩).map (fun c => c.g.getD 5 0) = some 0x12340000 := by
  decide
/-! ## Witnesses: a state and operands that meet the hypotheses of a statement -/

abbrev t0 : Thread := thr []
abbrev c0 : Crew := crewOf [t0]
abbrev s0 : State := world [t0]

/-- StepRunsDecodedInstruction. -/
theorem witness_step : ∃ s' : State,
    let s := State.reset.withFetchWord 32 0x10081030
    s.power = true ∧ s.pending = [⟨loadPlace, [0], 0x1000, 0⟩]
      ∧ ({ s with pending := [] } : State).bringUp ⟨loadPlace, [0], 0x1000, 0⟩ = (some (.add 2 (.v 2) (.v 3)), s') :=
  ⟨_, rfl, rfl, Prod.ext (by decide +kernel) rfl⟩
/-- Two threads at one PC after a step. -/
def siblings : State := { world [t0, { t0 with tag := true }] with agenda := [.ptsTick] }
theorem witness_siblings_meet : siblings.power = true ∧ ∃ u c a b, step siblings = .next u ∧ c ∈ u.crews ∧ c.threads[0]? = some a
    ∧ c.threads[1]? = some b ∧ (c.has 0 && c.has 1 && decide (a.pc = b.pc)) = true := by
  have h : (match step siblings with
    | .next u => u.crews.any fun c => match c.threads[0]?, c.threads[1]? with
      | some a, some b => c.has 0 && c.has 1 && decide (a.pc = b.pc)
      | _, _ => false
    | _ => false) = true := by decide +kernel
  refine ⟨rfl, ?_⟩
  generalize step siblings = x at h
  cases x with
  | next u =>
    obtain ⟨c, hc, h⟩ := List.any_eq_true.1 h
    cases ha : c.threads[0]? with
    | none => rw [ha] at h; exact Bool.noConfusion h
    | some a => cases hb : c.threads[1]? with
      | none => rw [ha, hb] at h; exact Bool.noConfusion h
      | some b => rw [ha, hb] at h; exact ⟨u, c, a, b, rfl, hc, ha, hb, h⟩
  | fault _ => exact Bool.noConfusion h
  | refused _ => exact Bool.noConfusion h
theorem witness_powered_off : let s : State := { State.reset with power := false }
    s.power = false ∧ s.agenda = [] := ⟨rfl, rfl⟩

/-- WindowRegisters. -/
theorem witness_window : 64 ≤ t0.stripe.length := by decide

/-- IntegerResults, CarryPairAndCondition, ComplexResults, FloatResults, UniformResults: a thread in its group, and each
rule names forms. -/
theorem witness_in_group : InGroup s0 c0 0 t0 := ingroup t0 []
theorem witness_integer_rules (d : VReg) (a b : Src7) :
    (∃ f, arithmeticRule (.add d a b) = some (d, f)) ∧ (∃ f, logicRule (.brev d a) = some (d, f))
      ∧ (∃ f, fieldRule (.popc d a) = some (d, f)) ∧ (∃ f, pairRule (.addw d a b) = some (d, f))
      ∧ ∃ f, conditionRule (.icmp .eq .set 0 a b) = some f :=
  ⟨⟨_, rfl⟩, ⟨_, rfl⟩, ⟨_, rfl⟩, ⟨_, rfl⟩, ⟨_, rfl⟩⟩
theorem witness_float_rules (d : VReg) (a b : Src7) :
    (∃ f, floatRule (.fadd .rne d a b) = some (d, f)) ∧ (∃ f, packedRule (.hadd2 .fp16 d a b) = some (d, f))
      ∧ (∃ f, complexRule (.cadd .fp32 d a b) = some (.fp32, d, f)) ∧ ∃ f, uniformRule (.uadd 1 (.g 2) (.g 3)) = some (1, f) :=
  ⟨⟨_, rfl⟩, ⟨_, rfl⟩, ⟨_, rfl⟩, ⟨_, rfl⟩⟩
theorem witness_uniform : s0.crew? s0.cur.place = some c0 ∧ s0.cur.tids.Nodup := by decide +kernel

/-- ExactResultsAreDelivered: 1 + 2 = 3, 3 − 2 = 1, 2 × 3 = 6, 2 × 3 + 1 = 7, 6 / 2 = 3. -/
theorem witness_exact_sums : ∃ x y z w v : Int,
    unitsOf .fp32 0x3F800000 = some x ∧ unitsOf .fp32 0x40000000 = some y ∧ unitsOf .fp32 0x40400000 = some z
      ∧ unitsOf .fp32 0x40C00000 = some w ∧ unitsOf .fp32 0x40E00000 = some v
      ∧ z ≠ 0 ∧ x + y = z ∧ z - y = x ∧ y * z = w * unitsPerOne .fp32
      ∧ y * z + x * unitsPerOne .fp32 = v * unitsPerOne .fp32 ∧ w * unitsPerOne .fp32 = z * y ∧ y ≠ 0 :=
  ⟨_, _, _, _, _, rfl, rfl, rfl, rfl, rfl, by decide +kernel⟩

/-- FirstNanDecides. -/
theorem witness_nans : (isNanCode 0x7FC00000 || isNanCode 0 || isNanCode 0) = true
    ∧ (isNanCode 0 || isNanCode 0xFF800001) = true ∧ isSignallingCode 0xFF800001 = true := by decide

/-- FloatOrderAndClass. -/
theorem witness_no_nans : isNanCode 0x80000000 = false ∧ isNanCode 0x7F800000 = false := by decide

/-- CrossThreadResults: a partner in the group, and one that is not. -/
theorem witness_partners :
    (∃ p, shufPartner (.shufIdx 1 (.v 2) (.int 1)) = some (1, .v 2, .int 1, p) ∧ p 0 1 = some 1 ∧ p 0 40 = none)
      ∧ InGroup (group [t0, t0]) (crewOf [t0, t0]) 0 t0 ∧ InGroup (group [t0, t0]) (crewOf [t0, t0]) 1 t0
      ∧ ∀ u, ¬ InGroup s0 c0 1 u :=
  ⟨⟨_, rfl, by decide, by decide⟩, ⟨by decide +kernel, by decide, by decide +kernel⟩, ⟨by decide +kernel, by decide, by decide +kernel⟩,
    fun u h => absurd h.member (by decide)⟩

/-- BranchResults: a group that resolves to both directions. -/
theorem witness_apart : let s := group [{ t0 with cond := 8 }, t0]
    s.cur.tids.Nodup ∧ (∃ u, InGroup s (crewOf [{ t0 with cond := 8 }, t0]) 0 u ∧ (u.cond.getLsbD 3 != false) = true)
      ∧ ∃ u, InGroup s (crewOf [{ t0 with cond := 8 }, t0]) 1 u ∧ (u.cond.getLsbD 3 != false) = false :=
  ⟨by decide, ⟨_, ⟨by decide +kernel, by decide, rfl⟩, by decide⟩, ⟨_, ⟨by decide +kernel, by decide, rfl⟩, by decide⟩⟩

/-- CallsAndReturns, CallThenReturn: room for a window 8 higher, a call's entry on top, none left. -/
theorem witness_call : let t : Thread := { t0 with stripe := List.replicate 96 0 }
    Alone (world [t]) (crewOf [t]) 0 t ∧ t.rstack.length < 16 ∧ t.sm.toNat ≤ t.fb.toNat ∧ fits t (t.fb.toNat + (8 : BitVec 6).toNat) :=
  ⟨alone _ [], by decide, by decide, by unfold fits; decide⟩
theorem witness_return : let t : Thread := { t0 with rstack := [⟨0x2000, 0, .call⟩] }
    Alone (world [t]) (crewOf [t]) 0 t ∧ t.rstack = ⟨0x2000, 0, .call⟩ :: [] ∧ fits t (0 : W32).toNat :=
  ⟨alone _ [], rfl, by unfold fits; decide⟩
theorem witness_returns : returns t0 .ret ∧ returns t0 (.retc 3 true) := ⟨.inl rfl, .inr ⟨3, true, rfl, by decide⟩⟩
theorem witness_underflow : Alone s0 c0 0 t0 ∧ topEntryIs s0 c0 0 t0 none s0 := ⟨alone t0 [], .inl ⟨rfl, rfl, fun _ => by decide⟩⟩
/-- CallsAndReturns, EretRestoresFrame: an entry on top of the hardware return stack. -/
def topped (k : EntryKind) : Thread := { t0 with rstack := [⟨0x2000, 0, k⟩] }
theorem witness_top_entry (k : EntryKind) : Alone (world [topped k]) (crewOf [topped k]) 0 (topped k)
    ∧ topEntryIs (world [topped k]) (crewOf [topped k]) 0 (topped k) (some ⟨0x2000, 0, k⟩) (world [topped k]) :=
  ⟨alone _ [], .inl ⟨rfl, rfl, fun h => by cases h⟩⟩

/-- An answer is its value and the state it leaves. -/
theorem isAnswer {α : Type} {p : α × State} {x : α} (h : p.1 = x) : p = (x, p.2) := by rw [← h]

theorem reachesIn {s : State} {tid : Nat} {va : W64} {n : Nat} {k : AccKind} {pa h : Nat} {e : TlbEntry}
    (hc : (s.check s.cur.place tid va n k).1 = .device pa h e) (hp : (s.check s.cur.place tid va n k).2.poisoned pa n = false)
    (ha : pa % n = 0) : reaches s (s.check s.cur.place tid va n k).2 tid va n k pa h e := ⟨isAnswer hc, hp, ha⟩

/-- CallsAndReturns: a full return stack; an empty one with a call's entry in the link area, and with a trap frame's. -/
def full16 : Thread := { t0 with stripe := List.replicate 96 0, rstack := List.replicate 16 ⟨0x2000, 0, .call⟩ }
theorem witness_spills_entry : ∃ s1, Alone (world [full16]) (crewOf [full16]) 0 full16 ∧ (world [full16]).globalWf = true
    ∧ full16.rstack.length = 16 ∧ full16.rstack.getLast? = some ⟨0x2000, 0, .call⟩ ∧ fits full16 (full16.fb.toNat + (8 : BitVec 6).toNat)
    ∧ full16.lk.toNat + 16 ≤ ((world [full16]).backing (crewOf [full16]) 0).size / 2
    ∧ reaches (world [full16]) s1 0 (BitVec.ofNat 64 (((world [full16]).backing (crewOf [full16]) 0).base + full16.lk.toNat)) 16 .write
        0x8000 0 page0 :=
  ⟨_, alone _ [], by decide, rfl, rfl, by unfold fits; decide, by decide +kernel,
    reachesIn (by decide +kernel) (by decide +kernel) (by decide)⟩
def linked : Thread := { t0 with lk := 16 }
theorem witness_refills_entry : ∃ s1, Alone (world [linked]) (crewOf [linked]) 0 linked ∧ returns linked .ret ∧ linked.rstack = []
    ∧ 16 ≤ linked.lk.toNat ∧ linked.lk.toNat ≤ ((world [linked]).backing (crewOf [linked]) 0).size / 2 ∧ uncopied (world [linked]) 0x8000 0
    ∧ reaches (world [linked]) s1 0 (BitVec.ofNat 64 (((world [linked]).backing (crewOf [linked]) 0).base + linked.lk.toNat - 16)) 16 .read
        0x8000 0 page0
    ∧ fieldAt ((world [linked]).bytes .dev 0x8000 16) 12 4 = 0 ∧ fits linked (fieldAt ((world [linked]).bytes .dev 0x8000 16) 8 4) :=
  ⟨_, alone _ [], .inl rfl, rfl, by decide, by decide +kernel, ⟨by decide +kernel, .inl rfl, by decide +kernel⟩,
    reachesIn (by decide +kernel) (by decide +kernel) (by decide), by decide +kernel, by unfold fits; decide +kernel⟩
def linkedTrap : State := { world [linked] with mem := Memory.writeL [] 0x800C [1] }
theorem witness_refills_trap : ∃ s1, Alone linkedTrap (crewOf [linked]) 0 linked ∧ uncopied linkedTrap 0x8000 0
    ∧ reaches linkedTrap s1 0 (BitVec.ofNat 64 ((linkedTrap.backing (crewOf [linked]) 0).base + linked.lk.toNat - 16)) 16 .read
        0x8000 0 page0 ∧ fieldAt (linkedTrap.bytes .dev 0x8000 16) 12 4 = 1 :=
  ⟨_, ⟨rfl, rfl, rfl, rfl⟩, ⟨by decide +kernel, .inl rfl, by decide +kernel⟩,
    reachesIn (by decide +kernel) (by decide +kernel) (by decide), by decide +kernel⟩
/-- The entries of the link area as they are refilled: a call's, and a trap frame's. -/
theorem witness_top_refilled : (∃ s1, topEntryIs (world [linked]) (crewOf [linked]) 0 linked (some ⟨0, 0, .call⟩) s1)
    ∧ ∃ s1, topEntryIs linkedTrap (crewOf [linked]) 0 linked (some ⟨0, 0, .trap⟩) s1 := by
  have ok {s : State} {l : List W8} (h : (s.stackLoad ⟨0, 0, 0⟩ 0 0x8000 16).1.toOption = some l) :
      s.stackLoad ⟨0, 0, 0⟩ 0 0x8000 16 = (.ok l, (s.stackLoad ⟨0, 0, 0⟩ 0 0x8000 16).2) := by
    generalize s.stackLoad ⟨0, 0, 0⟩ 0 0x8000 16 = x at h
    obtain ⟨x, s1⟩ := x
    cases x with
    | ok y => exact congrArg (fun z => (Except.ok z, s1)) (Option.some.inj h)
    | error e => exact absurd h (by simp [Except.toOption])
  exact ⟨⟨_, .inr ⟨rfl, by decide, by decide +kernel, zeros 16, _, ⟨by decide, by decide, by decide, by decide⟩, rfl, ok (by decide +kernel)⟩⟩,
    ⟨_, .inr ⟨rfl, by decide, by decide +kernel, zeros 12 ++ [1, 0, 0, 0], _, ⟨by decide, by decide, by decide, by decide⟩, rfl, ok (by decide +kernel)⟩⟩⟩
/-- The same, and CallThenReturn: a window that moves by one past the top of the stripe, and back; a spill of two. -/
theorem witness_spills_register : ∃ s1 s2, s0.globalWf = true ∧ t0.sm = t0.fb ∧ (1 : BitVec 6).toNat + 63 = t0.stripe.length
    ∧ t0.sm.toNat + t0.stripe.length < t0.fb.toNat + (1 : BitVec 6).toNat + 64
    ∧ (s0.spillRegs s0.cur.place 0 (s0.backing c0 0) (t0.fb.toNat + (1 : BitVec 6).toNat + 64 - t0.stripe.length - t0.sm.toNat)) = (none, s2)
    ∧ (s2.thread? s0.cur.place 0).isSome = true ∧ 4 * t0.sm.toNat + 4 ≤ (s0.backing c0 0).size - (s0.backing c0 0).size / 2
    ∧ (∀ a ∈ t0.awaiting, a.slot ≠ 0) ∧ 0 ∉ t0.bad
    ∧ reaches s0 s1 0 (registerAt (s0.backing c0 0) t0.sm.toNat) 4 .write 0x8800 0 page0 :=
  ⟨_, _, by decide, rfl, by decide, by decide, isAnswer (by decide +kernel), by decide +kernel, by decide +kernel, by decide,
    by decide, reachesIn (by decide +kernel) (by decide +kernel) (by decide)⟩
theorem storeEq {a b : Store} (h : a.base = b.base) (k : a.size = b.size) : a = b := by
  cases a; cases b; cases h; cases k; rfl
theorem witness_call_came_back : ∃ a1, let s1 := out (exec (.call 1 5) s0)
    uncopied s1 0x8800 0 ∧ s1.backing c0 0 = s0.backing c0 0
      ∧ reaches s1 a1 0 (registerAt (s0.backing c0 0) 0) 4 .read 0x8800 0 page0 :=
  ⟨_, ⟨by decide +kernel, .inl (by decide +kernel), by decide +kernel⟩, storeEq (by decide +kernel) (by decide +kernel),
    reachesIn (by decide +kernel) (by decide +kernel) (by decide)⟩
def risen : Thread := { t0 with rstack := [⟨0x2000, 0, .call⟩], sm := 1, fb := 1 }
theorem witness_refills_register : ∃ s1, Alone (world [risen]) (crewOf [risen]) 0 risen ∧ returns risen .ret
    ∧ risen.rstack = ⟨0x2000, 0, .call⟩ :: [] ∧ (0 : W32).toNat + 1 = risen.sm.toNat ∧ 64 ≤ risen.stripe.length
    ∧ 4 * (0 : W32).toNat + 4 ≤ ((world [risen]).backing (crewOf [risen]) 0).size - ((world [risen]).backing (crewOf [risen]) 0).size / 2
    ∧ uncopied (world [risen]) 0x8800 0
    ∧ reaches (world [risen]) s1 0 (registerAt ((world [risen]).backing (crewOf [risen]) 0) 0) 4 .read 0x8800 0 page0 :=
  ⟨_, alone _ [], .inl rfl, rfl, by decide, by decide, by decide +kernel, ⟨by decide +kernel, .inl rfl, by decide +kernel⟩,
    reachesIn (by decide +kernel) (by decide +kernel) (by decide)⟩

/-- A return to a window two registers below the mark. -/
def risen2 : Thread := { t0 with rstack := [⟨0x2000, 0, .call⟩], sm := 2, fb := 2 }
theorem witness_refills_registers : ∃ vs s2, Alone (world [risen2]) (crewOf [risen2]) 0 risen2 ∧ returns risen2 .ret
    ∧ risen2.rstack = ⟨0x2000, 0, .call⟩ :: [] ∧ (0 : W32).toNat < risen2.sm.toNat ∧ 64 ≤ risen2.stripe.length
    ∧ (world [risen2]).readRegs ⟨0, 0, 0⟩ 0 ((world [risen2]).backing (crewOf [risen2]) 0) (risen2.sm.toNat - (0 : W32).toNat) (0 : W32).toNat []
      = (.ok vs, s2) := by
  have h : ((world [risen2]).readRegs ⟨0, 0, 0⟩ 0 ((world [risen2]).backing (crewOf [risen2]) 0) 2 0 []).1.toOption.isSome = true := by
    decide +kernel
  cases hx : (world [risen2]).readRegs ⟨0, 0, 0⟩ 0 ((world [risen2]).backing (crewOf [risen2]) 0) 2 0 [] with
  | mk x s2 => cases x with
    | ok vs => exact ⟨vs, s2, alone _ [], .inl rfl, rfl, by decide, by decide, hx⟩
    | error e => rw [hx] at h; exact Bool.noConfusion h

/-- SpecialRegisters. -/
theorem witness_special : Alone s0 c0 0 t0 ∧ InGroup s0 c0 0 t0 := ⟨alone t0 [], ingroup t0 []⟩

/-- Slot 0's thread 0 of a state, where a test of it holds. -/
theorem threadWith {s : State} {p : CrewAt} {tid : Nat} {f : Thread → Bool} (h : (s.thread? p tid).any f = true) :
    ∃ t, s.thread? p tid = some t ∧ f t = true := Option.any_eq_true _ _ |>.1 h

/-- TrapEntersHandler: a region with a handler, and one without. -/
def handled (t : Thread) : State := { world [t] with regions := [{ region0 with eff := { eff0 with traphandler := 0x3000 } }] }
def tall : Thread := { t0 with stripe := List.replicate 80 0 }
theorem witness_no_handler : Alone s0 c0 0 t0 ∧ (s0.eff c0.at_.rcb).traphandler = 0 := ⟨alone t0 [], by decide +kernel⟩
/-- With an entry on its return stack, which the entry spills. -/
def tallCalled : Thread := { tall with rstack := [⟨0x2000, 0, .call⟩] }
def spilled0 : State := ((handled tallCalled).spillEntries ⟨0, 0, 0⟩ 0 ((handled tallCalled).backing (crewOf [tallCalled]) 0) 1).2
def spilledT : Thread := (spilled0.thread? ⟨0, 0, 0⟩ 0).getD t0
theorem witness_trap : ∃ s1 s2 t2, let s := handled tallCalled
    let bs := s.backing (crewOf [tallCalled]) 0
    Alone s (crewOf [tallCalled]) 0 tallCalled ∧ (s.eff (crewOf [tallCalled]).at_.rcb).traphandler ≠ 0
      ∧ s.spillEntries s.cur.place 0 bs tallCalled.rstack.length = (none, spilled0)
      ∧ spilled0.thread? s.cur.place 0 = some spilledT ∧ spilledT.frameUnready = none
      ∧ spilled0.storeFrame s.cur.place 0 bs (bs.base + spilledT.lk.toNat) (trapFrame spilledT false) 8 = (none, s1)
      ∧ s1.slide s.cur.place 0 bs (spilledT.fb.toNat + 16) = (none, s2)
      ∧ s2.thread? s.cur.place 0 = some t2 ∧ (decide (t2.wait = .ready) && decide (64 ≤ t2.stripe.length)) = true := by
  have h : (((spilled0.storeFrame ⟨0, 0, 0⟩ 0 ((handled tallCalled).backing (crewOf [tallCalled]) 0)
      (((handled tallCalled).backing (crewOf [tallCalled]) 0).base + spilledT.lk.toNat) (trapFrame spilledT false) 8).2.slide ⟨0, 0, 0⟩ 0
      ((handled tallCalled).backing (crewOf [tallCalled]) 0) (spilledT.fb.toNat + 16)).2.thread? ⟨0, 0, 0⟩ 0).any
      (fun t => decide (t.wait = .ready) && decide (64 ≤ t.stripe.length)) = true := by decide +kernel
  obtain ⟨t2, h1, h2⟩ := threadWith h
  exact ⟨_, _, t2, ⟨rfl, rfl, rfl, rfl⟩, by decide +kernel, isAnswer (by decide +kernel), by decide +kernel, by decide +kernel,
    isAnswer (by decide +kernel), isAnswer (by decide +kernel), h1, h2⟩
theorem witness_trap_waits : let t : Thread := { tall with awaiting := [⟨3, 1⟩] }
    let s := handled t
    Alone s (crewOf [t]) 0 t ∧ (s.eff (crewOf [t]).at_.rcb).traphandler ≠ 0
      ∧ s.spillEntries ⟨0, 0, 0⟩ 0 (s.backing (crewOf [t]) 0) t.rstack.length = (none, s) ∧ s.thread? ⟨0, 0, 0⟩ 0 = some t
      ∧ t.frameUnready = some .reply ∧ t.wait = .ready := ⟨⟨rfl, rfl, rfl, rfl⟩, by decide +kernel, rfl, rfl, by decide +kernel, rfl⟩
/-- Its accesses: of a spill, and of a frame. -/
theorem witness_trap_accesses : ∃ s1, let s := handled tallCalled
    let bs := s.backing (crewOf [tallCalled]) 0
    s.globalWf = true ∧ tallCalled.rstack.getLast? = some ⟨0x2000, 0, .call⟩ ∧ tallCalled.lk.toNat + 16 ≤ bs.size / 2
      ∧ reaches s s1 0 (BitVec.ofNat 64 (bs.base + tallCalled.lk.toNat)) 16 .write 0x8000 0 page0
      ∧ bs.base ≤ 0x8000 ∧ 0x8000 + 16 ≤ bs.base + bs.size / 2 ∧ reaches s s1 0 (BitVec.ofNat 64 0x8000) 16 .write 0x8000 0 page0
      ∧ 16 ≤ (trapFrame tallCalled false).length :=
  ⟨_, by decide, rfl, by decide +kernel, reachesIn (by decide +kernel) (by decide +kernel) (by decide), by decide +kernel,
    by decide +kernel, reachesIn (by decide +kernel) (by decide +kernel) (by decide), by decide +kernel⟩

/-- EretRestoresFrame: a frame at the thread's stack, and a call's entry. -/
def inFrame : Thread := { tall with rstack := [⟨0x8000, 0, .trap⟩], lk := 128 }
theorem witness_eret : ∃ l s1 s2 t2, let s := world [inFrame]
    Alone s (crewOf [inFrame]) 0 inFrame ∧ topEntryIs s (crewOf [inFrame]) 0 inFrame (some ⟨0x8000, 0, .trap⟩) s
      ∧ s.loadFrame s.cur.place 0 (s.backing (crewOf [inFrame]) 0) (0x8000 : W64).toNat [] 8 = (.ok l, s1)
      ∧ s1.slide s.cur.place 0 (s.backing (crewOf [inFrame]) 0) (fieldAt l 0x20 4) = (none, s2)
      ∧ s2.thread? s.cur.place 0 = some t2 ∧ decide (64 ≤ t2.stripe.length) = true := by
  have h0 : ((world [inFrame]).loadFrame ⟨0, 0, 0⟩ 0 ((world [inFrame]).backing (crewOf [inFrame]) 0) 0x8000 [] 8).1.toOption = some (List.replicate 128 0) := by decide +kernel
  have h1 : ((world [inFrame]).loadFrame ⟨0, 0, 0⟩ 0 ((world [inFrame]).backing (crewOf [inFrame]) 0) 0x8000 [] 8).1 = .ok (List.replicate 128 0) := by
    generalize ((world [inFrame]).loadFrame ⟨0, 0, 0⟩ 0 ((world [inFrame]).backing (crewOf [inFrame]) 0) 0x8000 [] 8).1 = x at h0
    cases x with
    | ok l => exact congrArg Except.ok (Option.some.inj h0)
    | error e => exact absurd h0 (by simp [Except.toOption])
  have h : ((((world [inFrame]).loadFrame ⟨0, 0, 0⟩ 0 ((world [inFrame]).backing (crewOf [inFrame]) 0) 0x8000 [] 8).2.slide ⟨0, 0, 0⟩ 0
      ((world [inFrame]).backing (crewOf [inFrame]) 0) 0).2.thread? ⟨0, 0, 0⟩ 0).any (fun t => decide (64 ≤ t.stripe.length)) = true := by
    decide +kernel
  obtain ⟨t2, h2, h3⟩ := threadWith h
  exact ⟨List.replicate 128 0, _, _, t2, alone _ [], .inl ⟨rfl, rfl, fun h => by cases h⟩, isAnswer h1, isAnswer (by decide +kernel), h2, h3⟩

/-- BreakpointParks, YieldAndNap. -/
theorem witness_ready : Alone s0 c0 0 t0 ∧ t0.wait = .ready ∧ s0.tickets = [] := ⟨alone t0 [], rfl, rfl⟩
theorem witness_yield_expires : let t : Thread := { t0 with wait := .yield 0 }
    (world [t]).thread? ⟨0, 0, 0⟩ 0 = some t ∧ t.wait = .yield 0 ∧ 0 ≤ ((world [t]).die 0).clk := ⟨rfl, rfl, by decide⟩
theorem witness_nap_ends : let t : Thread := { t0 with wait := .nap 0 0 }
    (world [t]).thread? ⟨0, 0, 0⟩ 0 = some t ∧ t.wait = .nap 0 0 ∧ 0 ≤ (world [t]).ns := ⟨rfl, rfl, by decide⟩

/-- GlobalLoads, GlobalStores, AtomicAccesses, UniformResults: V(4) and G(4) lead to a line of device memory, V(6) to host
memory. -/
def tA : Thread := thr (regs [(4, 0x1000), (6, 0x200000)])
def cA : Crew := { crewOf [tA] with g := [0, 0, 0, 0, 0x1000] ++ List.replicate 27 0 }
def sA : State := worldOf [cA] id
theorem aloneA : Alone sA cA 0 tA := ⟨rfl, rfl, rfl, rfl⟩
theorem witness_masked : masksOff tA (some 0) := ⟨0, rfl, by decide⟩
theorem witness_not_masked : ¬ masksOff tA none := by rintro ⟨_, h, _⟩; cases h
theorem witness_load : ∃ s1, 104 * sA.cur.place.die + sA.cur.place.col < sA.cols.length
    ∧ reaches sA s1 0 (globalAddress tA 4 0 4) 4 .read 0x1000 0 page0 ∧ uncopied sA 0x1000 0 :=
  ⟨_, by decide +kernel, reachesIn (by decide +kernel) (by decide +kernel) (by decide), by decide +kernel, .inl rfl, by decide +kernel⟩
theorem witness_store : ∃ s1, sA.globalWf = true ∧ reaches sA s1 0 (globalAddress tA 4 0 4) 4 .write 0x1000 0 page0 :=
  ⟨_, by decide, reachesIn (by decide +kernel) (by decide +kernel) (by decide)⟩
theorem witness_host_store : ∃ s1, sA.attached = true ∧ sA.check sA.cur.place 0 (globalAddress tA 6 0 4) 4 .write = (.host 0 hostPage0, s1) :=
  ⟨_, rfl, isAnswer (by decide +kernel)⟩
theorem witness_atomic : ∃ s1, reaches sA s1 0 (tA.pair 4) 4 .atomic 0x1000 0 page0 :=
  ⟨_, reachesIn (by decide +kernel) (by decide +kernel) (by decide)⟩
/-- The host's pages: read, written, and by an atomic, with the link up and down. -/
def sAway : State := { sA with attached := false }
theorem witness_host_access : ∃ s1 s2 s3 s4, sAway.attached = false
    ∧ sA.check sA.cur.place 0 (globalAddress tA 6 0 4) 4 .read = (.host 0 hostPage0, s1)
    ∧ sAway.check sAway.cur.place 0 (globalAddress tA 6 0 4) 4 .read = (.host 0 hostPage0, s2)
    ∧ sA.check sA.cur.place 0 (tA.pair 6) 4 .atomic = (.host 0 hostPage0, s3)
    ∧ sAway.check sAway.cur.place 0 (tA.pair 6) 4 .atomic = (.host 0 hostPage0, s4)
    ∧ sAway.check sAway.cur.place 0 (globalAddress tA 6 0 4) 4 .write = (.host 0 hostPage0, (sAway.check sAway.cur.place 0 (globalAddress tA 6 0 4) 4 .write).2) :=
  ⟨_, _, _, _, rfl, isAnswer (by decide +kernel), isAnswer (by decide +kernel), isAnswer (by decide +kernel), isAnswer (by decide +kernel),
    isAnswer (by decide +kernel)⟩
theorem witness_atomic_masks : atomOff tA .c0 ∧ ¬ atomOff tA .none := ⟨rfl, id⟩
theorem witness_uld_group : let s := group [tA, tA]
    s.crew? s.cur.place = some (crewOf [tA, tA]) ∧ s.cur.tids = 0 :: [1] ∧ s.cur.tids.Nodup ∧ s.cur.peal = false := by decide +kernel
/-- An address that no TLB holds. -/
def cFar : Crew := { crewOf [tA] with g := [0, 0, 0, 0, 0x40000000] ++ List.replicate 27 0 }
theorem witness_uld_miss : ∃ s1, (worldOf [cFar] id).check ⟨0, 0, 0⟩ 0 0x40000000 4 .read = (.walk, s1)
    ∧ BitVec.ofInt 64 ((W32.pair (cFar.g.getD 4 0) (cFar.g.getD 5 0)).toNat + (0 : BitVec 14).toInt) = 0x40000000 :=
  ⟨_, isAnswer (by decide +kernel), by decide⟩
theorem witness_uld : ∃ s1,
    reaches sA s1 0 (BitVec.ofInt 64 ((W32.pair (cA.g.getD 4 0) (cA.g.getD 5 0)).toNat + (0 : BitVec 14).toInt)) 4 .read 0x1000 0 page0 :=
  ⟨_, reachesIn (by decide +kernel) (by decide +kernel) (by decide)⟩

/-- A reply on its way. -/
def reply0 : LoadReply := ⟨3, 7, 0, [(8, 5)]⟩
def waiting0 : Thread := { t0 with awaiting := [⟨8, 3⟩] }
def replying : State := worldOf [crewOf [waiting0]] fun k => { k with loads := [reply0] }
theorem witness_reply : (replying.col 0 0).loads.find? (fun x => x.tag = 3) = some reply0 ∧ 104 * 0 + 0 < replying.cols.length
    ∧ replying.crew? ⟨0, 0, 0⟩ = some (crewOf [waiting0]) ∧ (crewOf [waiting0]).uid = reply0.uid
    ∧ (crewOf [waiting0]).threads[reply0.tid]? = some waiting0 ∧ (reply0.writes.map Prod.fst).Nodup := by decide +kernel

/-- LocalAccesses, PrefetchAndLineStates, BarrierObjects: addresses in the crew's local memory. -/
theorem witness_local : sA.localReady cA (localAddress tA 8 0 4) 4 4 true = .go ∧ sA.viewReady cA .col .q 0 true = .go
    ∧ sA.memoriesWf = true ∧ cA.place.col < 104 ∧ 104 * cA.place.die + cA.place.col < sA.cols.length
    ∧ sA.crewByUid? cA.uid = some cA ∧ sA.localReady cA (localAddress tA 8 0 4) 4 4 false = .go
    ∧ sA.viewReady cA .col .q 0 false = .go := by decide +kernel
theorem witness_lines : let t := thr (regs [(1, 128), (2, 256)])
    let s := world [t]
    (t.v 1).toNat % 128 = 0 ∧ (t.v 2).toNat % 128 = 0 ∧ (t.v 2).toNat ≠ 0 ∧ (t.v 1).toNat + (t.v 2).toNat ≤ 0x1000000
      ∧ s.checkLocal (crewOf [t]) (t.v 1).toNat (t.v 2).toNat 128 = none := by decide +kernel

/-- Fences. -/
theorem witness_fence : Alone s0 c0 0 t0 ∧ s0.hostLost = false
    ∧ ({ s0 with hostLost := true } : State).hostLost = true := ⟨alone t0 [], rfl, rfl⟩
def fenced0 : Thread := { t0 with wait := .hostTx 5 }
theorem witness_transmitted : let s : State := { world [fenced0] with hostOut := [.store 64 [1] 9 2] }
    s.thread? ⟨0, 0, 0⟩ 0 = some fenced0 ∧ fenced0.wait = .hostTx 5 ∧ s.globalWf = true ∧ s.hostOut = [.store 64 [1] 9 2] ∧ 2 < 5 :=
  ⟨rfl, rfl, by decide, rfl, by decide⟩

/-- A crew with local memory, and the state in which it runs alone in column 0. -/
def withMem (ts : List Thread) (l : List (Nat × List W8)) : Crew :=
  { crewOf ts with mem := l.foldl (fun m x => Memory.writeL m x.1 x.2) [] }

/-- BarrierObjects: an object at 0, with the phase equal and different, and one that the next arrival completes. -/
def bart (p : W32) : Thread := thr (regs [(2, p)])
theorem witness_object : sA.memoriesWf = true ∧ sA.crewByUid? cA.uid = some cA ∧ sA.checkLocal cA ((tA.v 1).toNat) 16 16 = none
    ∧ sA.barrierBad cA ((tA.v 1).toNat) = none
    ∧ decide ((sA.barrier cA 0).phase ≠ (tA.v 2).getLsbD 0) = false := by decide +kernel
/-- An object with an uncorrectable error, and one beyond the crew's local memory. -/
theorem witness_bad_object : let c := { cA with mem := [] }
    (∃ e, ({ worldOf [c] id with damage := [.loc 7 0] } : State).barrierBad c 0 = some e) ∧ ∃ e, (worldOf [c] id).barrierBad c 4096 = some e :=
  ⟨Option.isSome_iff_exists.1 (by decide +kernel), Option.isSome_iff_exists.1 (by decide +kernel)⟩
theorem witness_no_waiter : noBarrierWaiter sA := noWaiter (by decide +kernel)
theorem witness_phase_differs : let s := world [bart 1]
    s.checkLocal (crewOf [bart 1]) 0 16 16 = none ∧ s.barrierBad (crewOf [bart 1]) 0 = none ∧ decide ((s.barrier (crewOf [bart 1]) 0).phase ≠ ((bart 1).v 2).getLsbD 0) = true := by
  decide +kernel
theorem witness_object_bounds : (0 : Nat) < 2 ^ 56 := by decide
def waiter : Thread := { t0 with wait := .barrier 0 false 0x6C000000 }
def cB : Crew := withMem [t0, waiter] [(0, Barrier.toBytes ⟨0, false, false, 1, 0⟩)]
def sB : State := worldOf [cB] id
theorem witness_arrival : Alone sB cB 0 t0 ∧ sB.memoriesWf = true ∧ sB.crewByUid? cB.uid = some cB
    ∧ 104 * cB.place.die + cB.place.col < sB.cols.length ∧ (1 : Nat) ≠ 0 ∧ cB.threads[1]? = some waiter
    ∧ sB.crews.Pairwise (fun a b => a.place ≠ b.place ∧ a.uid ≠ b.uid) ∧ waiter.wait = .barrier (BitVec.ofNat 32 (t0.v 1).toNat) false 0x6C000000
    ∧ sB.barrierBad cB (t0.v 1).toNat = none ∧ t0.wait = .ready
    ∧ (arrived (sB.barrier cB 0) (t0.v 2).toNat).phase ≠ false :=
  ⟨⟨rfl, rfl, rfl, rfl⟩, by decide +kernel, by decide +kernel, by decide +kernel, by decide, rfl, List.pairwise_singleton _ _,
    by decide +kernel, by decide +kernel, rfl, by decide +kernel⟩
theorem witness_only_waiter : ∀ d ∈ sB.crews, ∀ i v, d.threads[i]? = some v → ∀ o p w, v.wait = .barrier o p w → d = cB ∧ i = 1 := by
  intro d hd i v hi o p w hw
  obtain rfl : d = cB := List.mem_singleton.1 hd
  refine ⟨rfl, ?_⟩
  match i, hi with
  | 0, hi => exact absurd ((Option.some.inj hi) ▸ hw) (by intro h; cases h)
  | 1, _ => rfl
  | n + 2, hi => exact absurd hi (by simp [cB, withMem, crewOf])

/-- CopyAcceptance: eight words from device memory to local memory; and a descriptor of zeros. -/
def copyBytes : List W8 := leBytes 8 0x1000 ++ leBytes 8 0x200 ++ [0, 1, 2, 1] ++ zeros 28 ++ leBytes 4 8 ++ leBytes 6 4 ++ leBytes 6 4 ++ zeros 128
def tC : Thread := thr (regs [(1, 0x100), (2, 0), (3, 16), (5, 0x300)])
def cC : Crew := withMem [tC] [(0x100, copyBytes)]
def sC : State := worldOf [cC] id
theorem aloneC : Alone sC cC 0 tC := ⟨rfl, rfl, rfl, rfl⟩
theorem witness_copy_room : sC.memoriesWf = true ∧ sC.crewByUid? cC.uid = some cC ∧ 104 * cC.place.die + cC.place.col < sC.cols.length
    ∧ sC.xcopyChecks cC 0x100 0 = none ∧ (sC.col 0 0).inFlight < 64 ∧ sC.copyWaiters 0 0 = false
    ∧ sC.localReady cC 0x100 192 64 true = .go ∧ sC.xcopyChecks cC 0x300 0 = none ∧ sC.localReady cC 0x300 192 64 true = .go := by
  decide +kernel
theorem witness_copy_object : noBarrierWaiter sC := noWaiter (by decide +kernel)
theorem witness_copy_formed :
    let malformed (a : Nat) : Bool :=
      let d := CopyDesc.ofBytes (sC.localBytes cC a 192)
      d.malformed (sC.sourceSpan cC d) false (cC.lmode.getLsbD 0) cC.lsize
    malformed 0x100 = false ∧ malformed 0x300 = true := by decide +kernel

/-- TransferSectors. -/
def moving : Transfer :=
  { tag := 5, uid := 7, region := 0x4000, kind := .copy 0 0 0x40 0x80 8 0, gsrc := false, gdst := false, sub := 0
    acquire := false, release := false, scope := .crew, track := false, barrier := none, phase := false, pts := 0, place := 0
    reads := [(0x40, 8)], buf := [], writes := [⟨0x80, [(0x80, .mem 0x40)]⟩], written := 0, surplus := 0, late := [], lines := []
    guard := 0, gexp := 0, gread := 0, phase3 := 0, lut := [], lutOk := false, abortAtEnd := false, waiting := none, bind := none
    fold := none, behindFill := false, idle := 0, wrote := none, signers := [] }
def landing : Transfer := { moving with reads := [], buf := [(0x40, 9)] }
def folding : Transfer := { moving with reads := [], writes := [], fold := some 0x1000 }
def movingWorld (t : Transfer) : State := worldOf [c0] fun k => { k with transfers := [t] }
theorem witness_sector_read : let s := movingWorld moving
    (s.col 0 0).transfers.find? (fun k => k.tag = moving.tag) = some moving ∧ 104 * 0 + 0 < s.cols.length ∧ s.crewByUid? moving.uid = some c0
      ∧ c0.place.die = 0 ∧ c0.place.col = 0 ∧ moving.reads = (0x40, 8) :: [] ∧ moving.waiting = none ∧ moving.gsrc = false
      ∧ moving.isFill = false ∧ s.past = [] ∧ s.localSector c0 0x40 8 true = .local_ (.loc 7) 0x40 := by decide +kernel
theorem witness_plain_copy : ∀ f arg q r l e, moving.kind = .copy f arg q r l e → f ≠ 3 ∧ f ≠ 4 := by
  intro f arg q r l e h; cases h; decide
theorem witness_sector_land : let s := movingWorld landing
    (s.col 0 0).transfers.find? (fun k => k.tag = landing.tag) = some landing ∧ s.memoriesWf = true ∧ s.crewByUid? landing.uid = some c0
      ∧ landing.writes = [⟨0x80, [(0x80, .mem 0x40)]⟩] ∧ landing.late = [] ∧ landing.waiting = none ∧ landing.isFill = false
      ∧ landing.guard = 0 ∧ landing.barrier = none ∧ landing.fold = none ∧ landing.abortAtEnd = false ∧ landing.lines = []
      ∧ landing.gdst = false ∧ landing.release = false
      ∧ landing.ready ⟨0x80, [(0x80, .mem 0x40)]⟩ = .bytes (([9] : List W8).mapIdx fun i b => (0x80 + i, b)) false
      ∧ s.localSector c0 0x80 1 false = .local_ (.loc 7) 0x80 := by decide +kernel
/-- The last sector of a copy with an object at 0x300. -/
def objected : Transfer := { landing with barrier := some 0x300 }
theorem witness_last_sector : let s := movingWorld objected
    (s.col 0 0).transfers.find? (fun k => k.tag = objected.tag) = some objected ∧ s.memoriesWf = true
      ∧ objected.writes = [⟨0x80, [(0x80, .mem 0x40)]⟩] ∧ objected.barrier = some 0x300
      ∧ objected.ready ⟨0x80, [(0x80, .mem 0x40)]⟩ = .bytes (([9] : List W8).mapIdx fun i b => (0x80 + i, b)) false
      ∧ s.localSector c0 0x80 1 false = .local_ (.loc 7) 0x80 ∧ s.barrierBad c0 0x300 = none
      ∧ localSpace c0 0x300 = (.loc 7, 0x300) ∧ 0x80 + 1 ≤ 0x300 := by decide +kernel
theorem witness_last_object : noBarrierWaiter (movingWorld objected) := noWaiter (by decide +kernel)
theorem witness_fold : ∃ s1, let s := movingWorld folding
    (s.col 0 0).transfers.find? (fun k => k.tag = folding.tag) = some folding ∧ s.crewByUid? folding.uid = some c0 ∧ s.globalWf = true
      ∧ noBarrierWaiter s ∧ folding.fold = some 0x1000 ∧ folding.waiting = none ∧ folding.writes = [] ∧ folding.late = []
      ∧ folding.lines = [] ∧ s.globalSector c0 folding 0x1000 2 .atomic = (.device 0x1000 page0, s1) ∧ s1.poisoned 0x1000 2 = false :=
  ⟨_, by decide +kernel, by decide +kernel, by decide, noWaiter (by decide +kernel), rfl, rfl, rfl, rfl, rfl, isAnswer (by decide +kernel),
    by decide +kernel⟩

/-- LutLoads. -/
theorem witness_xlut : (tC.v 1).toNat % 16 = 0 ∧ (tC.v 3).toNat % 16 = 0 ∧ 16 ≤ (tC.v 3).toNat ∧ (tC.v 3).toNat ≤ 4096
    ∧ (sC.col 0 0).luts.length = 4 ∧ sC.lutWaiters 0 0 = false ∧ (sC.col 0 0).transfers.any (Transfer.namesSlot 1) = false
    ∧ sC.localReady cC (tC.v 1).toNat (tC.v 3).toNat 16 true = .go := by decide +kernel

/-- Signing: a signer of a set of two, and one outside the declared set. -/
theorem witness_signing : let v : Cv := ⟨3, 0, none⟩
    Alone (world [t0, t0]) (crewOf [t0, t0]) 0 t0 ∧ (crewOf [t0, t0]).cv[2]? = some v ∧ crewWide (.conv 2) = some (2, false)
      ∧ (v.declared.getLsbD 0 && (!false || v.declared == (crewOf [t0, t0]).present) && (v.signed == 0 || v.pc == some t0.pc)) = true
      ∧ v.signed ||| BitVec.ofNat 32 (2 ^ 0) ≠ v.declared :=
  ⟨alone _ _, by decide, rfl, by decide, by decide⟩
theorem witness_bad_signing : let c := { c0 with cv := List.replicate 8 ⟨2, 0, none⟩ }
    Alone (worldOf [c] id) c 0 t0 ∧ c.cv[2]? = some ⟨2, 0, none⟩
      ∧ ((2 : W32).getLsbD 0 && (!false || (2 : W32) == c.present) && ((0 : W32) == 0 || (none : Option W64) == some t0.pc)) = false :=
  ⟨⟨rfl, rfl, rfl, rfl⟩, rfl, by decide⟩

/-- Convergence, OperandRanges, MatrixOperations, TileTokensAndElements: a crew of one thread comes to its set alone. -/
theorem signs {c : Crew} {f : Column → Column} (h : c.place = ⟨0, 0, 0⟩ ∧ c.threads = [t] ∧ c.present = 1 ∧ t.wait = .ready
    ∧ c.cv[k]? = some ⟨1, 0, none⟩ ∧ c.twin = none ∧ c.widowed = false) (hr : ((worldOf [c] f).col 0 0).resetting = false) :
    SignsAlone (worldOf [c] f) c 0 t k := by
  obtain ⟨h0, h1, h2, h3, h4, h5, h6⟩ := h
  refine ⟨⟨?_, rfl, by rw [h1]; rfl, rfl⟩, h3, by decide, h2, ⟨none, h4⟩, ⟨h5, h6⟩, by rw [h0]; exact hr, by rw [h0]; show 0 < (State.reset.cols.modify 0 fun k => { f k with enabled := true, l1 := [page0, hostPage0] }).length; rw [List.length_modify, show State.reset.cols.length = 208 by decide +kernel]; decide, ?_⟩
  · simp [State.crew?, worldOf, h0]
  · simp [State.crewByUid?, worldOf]
theorem witness_signs : SignsAlone s0 c0 0 t0 3 := signs ⟨rfl, rfl, rfl, rfl, rfl, rfl, rfl⟩ (by decide +kernel)
theorem witness_registers : Alone s0 c0 0 t0 ∧ c0.cv[3]? = some ⟨1, 0, none⟩ ∧ (0 : W32) = 0 := ⟨alone _ _, rfl, rfl⟩
theorem witness_signed_register : let c := { c0 with cv := List.replicate 8 ⟨3, 2, some 0⟩ }
    Alone (worldOf [c] id) c 0 t0 ∧ c.cv[3]? = some ⟨3, 2, some 0⟩ ∧ (2 : W32) ≠ 0 := ⟨⟨rfl, rfl, rfl, rfl⟩, rfl, by decide⟩

/-- Two twins, one of which waits. -/
def twinHeld : Held := ⟨3, .mtwn 3, 0x1000, 0, .twin, 0, false⟩
def twinThread : Thread := { t0 with wait := .convergence 3 0 }
def twinA : Crew := { c0 with twin := some ⟨0, 0, 1⟩ }
def twinB : Crew := { crewOf [twinThread] with place := ⟨0, 0, 1⟩, uid := 8, twin := some ⟨0, 0, 0⟩, held := [twinHeld] }
def twins : State := worldOf [twinA, twinB] id
theorem witness_twins : Alone twins twinA 0 t0 ∧ twinA.present = BitVec.ofNat 32 (2 ^ 0) ∧ (∃ pc, twinA.cv[3]? = some ⟨BitVec.ofNat 32 (2 ^ 0), 0, pc⟩)
    ∧ twinA.widowed = false ∧ twinA.twin = some twinB.place ∧ twins.crew? twinB.place = some twinB ∧ twinB.place ≠ twinA.place
    ∧ twinB.held = [twinHeld] ∧ twinHeld.why = .twin ∧ twinHeld.instr = .mtwn 3 ∧ twinHeld.cv = (3 : CBit).toNat
    ∧ twinB.threads = [twinThread] ∧ twinThread.wait = .convergence (3 : CBit).toNat 0 :=
  ⟨⟨rfl, rfl, rfl, rfl⟩, rfl, ⟨_, rfl⟩, rfl, rfl, by decide +kernel, by decide, rfl, rfl, rfl, rfl, rfl, rfl⟩

/-- OperandRanges, MatrixOperations: an fp16 record of 64 × 32 at 0, an index vector at 0x100, a drain descriptor at 0x200. -/
def recordBytes (rows cols : Nat) (fmt : W8) : List W8 :=
  [fmt, 0, 0, 0] ++ leBytes 2 16 ++ leBytes 2 rows ++ leBytes 2 cols ++ zeros 22
def tM : Thread := thr (regs [(1, 0), (2, 0x100), (3, 0x400), (4, 0x1000), (6, 0x200)])
def rangeOf (rows cols : Nat) (fmt : W8) : Reservation := Reservation.ofBytes (recordBytes rows cols fmt)
def obs0 : List (Option Reservation) :=
  [none, some (rangeOf 64 32 0), some (rangeOf 32 64 0), some (rangeOf 32 32 2), some (rangeOf 32 64 2), some (rangeOf 64 16 2)]
    ++ List.replicate 10 none
def drainBytes : List W8 := leBytes 4 0x800 ++ leBytes 2 128 ++ [7, 0] ++ zeros 8 ++ leBytes 4 0x380 ++ zeros 44
def cM : Crew := { withMem [tM] [(0, recordBytes 64 32 0), (0x200, drainBytes)] with ob := obs0, lsize := 0x10000 }
def handleBytes : List W8 := leBytes 8 0x2000 ++ zeros 16 ++ leBytes 2 1 ++ leBytes 2 16 ++ leBytes 2 4 ++ [0, 0]
def sM : State := { worldOf [cM] id with mem := Memory.writeL [] 0x1000 handleBytes }
theorem signsM : SignsAlone sM cM 0 tM 3 := by
  have h : SignsAlone (worldOf [cM] id) cM 0 tM 3 := signs ⟨rfl, rfl, rfl, rfl, rfl, rfl, rfl⟩ (by decide +kernel)
  exact ⟨⟨h.alone.crew, h.alone.only, h.alone.thread, h.alone.outside⟩, h.ready, h.small, h.present, h.register, h.single, h.engine,
    h.column, h.resident⟩
theorem witness_reserve : cM.ob.length = 16 ∧ sM.localReady cM (tM.v 1).toNat 32 32 true = .go ∧ cM.range? 0 = none
    ∧ (Reservation.ofBytes (sM.localBytes cM 0 32)).malformed = false
    ∧ sM.operandUsed cM + (Reservation.ofBytes (sM.localBytes cM 0 32)).oblen * 256 ≤ 0x40000 := by decide +kernel
theorem witness_release : sM.rangeRead cM 1 = false ∧ cM.range? 1 ≠ none := by decide +kernel
def spaceHeld : Held := ⟨3, .obres 0 1 3, 0x1000, 0, .space, 0, false⟩
def cS : Crew := { cM with threads := [{ tM with wait := .convergence 3 0 }], held := [spaceHeld] }
def sS : State := worldOf [cS] id
theorem witness_space : sS.crew? cS.place = some cS ∧ cS.twin = none ∧ cS.widowed = false ∧ (sS.col 0 0).resetting = false
    ∧ cS.ob.length = 16 ∧ cS.held = [⟨(3 : CBit).toNat, .obres 0 1 3, 0x1000, 0, .space, 0, false⟩]
    ∧ sS.localReady cS 0 32 32 true = .go ∧ cS.range? 0 = none ∧ (Reservation.ofBytes (sS.localBytes cS 0 32)).malformed = false
    ∧ sS.operandUsed cS + (Reservation.ofBytes (sS.localBytes cS 0 32)).oblen * 256 ≤ 0x40000 := by decide +kernel

/-- An answer that a test says is a value. -/
theorem okWith {ε α : Type} {p : Except ε α × State} {f : α → Bool} (h : p.1.toOption.any f = true) :
    ∃ x s, p = (.ok x, s) ∧ f x = true := by
  obtain ⟨x, hx, hf⟩ := (Option.any_eq_true _ _).1 h
  refine ⟨x, p.2, ?_, hf⟩
  obtain ⟨q, s⟩ := p
  cases q with
  | ok y => exact congrArg (fun z => (Except.ok z, s)) (Option.some.inj hx)
  | error e => exact absurd hx (by simp [Except.toOption])

def signedM : State := signedState sM 0 tM 3
def cN : Crew := { cM with cv := cM.cv.modify 3 fun v => { v with signed := 1, pc := some 0x1000 }
                           threads := [{ tM with wait := .convergence 3 sM.cur.word }] }
theorem witness_signed : signedM.crew? sM.cur.place = some cN := by decide +kernel
theorem witness_fill : ∃ p s1, signedM.planObld cN 0 1 4 7 none = (.ok p, s1) ∧ decide (readSectors (sourcesOf p.cells) ≠ []) = true :=
  okWith (by decide +kernel)
theorem witness_no_fills : ∀ k ∈ (sM.col cM.place.die cM.place.col).transfers, k.isFill = true → k.reads ≠ [] := by
  intro k hk; exact absurd hk (by rw [show (sM.col cM.place.die cM.place.col).transfers = [] by decide +kernel]; simp)
theorem witness_gather : let r := rangeOf 64 32 0
    cM.range? 1 = some r ∧ sM.rangeRead cM 1 = false ∧ sM.fillsInto cM 1 = [] ∧ r.mode.toNat % 4 = 0 ∧ r.q4n = false ∧ Memory.wf r.data = true ∧ (tM.v 2).toNat % 4 = 0
      ∧ sM.localReady cM (tM.v 2).toNat (4 + 2 * r.rows) 1 true = .go
      ∧ fieldAt (sM.localBytes cM (tM.v 2).toNat (4 + 2 * r.rows)) 0 4 % 4 = 0
      ∧ (List.range r.rows).all (fun i => decide (sM.localReady cM (((tM.v 3).toNat + fieldAt (sM.localBytes cM (tM.v 2).toNat (4 + 2 * r.rows)) (4 + 2 * i) 2
        * fieldAt (sM.localBytes cM (tM.v 2).toNat (4 + 2 * r.rows)) 0 4) % 2 ^ 32) r.rowBytes 1 true = .go)) = true := by decide +kernel
theorem witness_multiply : signedM.multiplyPerf cN false 0 1 2 = .done ∧ signedM.multiplyPerf cN true 0 3 4 = .done := by decide +kernel
theorem witness_mdft : ∃ s1, signedM.performMdft cN 0 (.mdft false .n16 0 5 3) .n16 0 5 3 = (.done, s1) := ⟨_, isAnswer (by decide +kernel)⟩
theorem witness_mzro : cM.matrixSide [(0 : BitVec 3).toNat] = true := by decide +kernel
theorem witness_drain : ∃ d s1, signedM.planMdrn cN 0 0 6 = (.ok d, s1) ∧ (!d.guided) = true := okWith (by decide +kernel)
theorem witness_drain_state : sM.memoriesWf = true ∧ noBarrierWaiter sM := ⟨by decide +kernel, noWaiter (by decide +kernel)⟩

def opOf (i : Instr) : MatOp := ⟨4, 7, i, 0, 0x1000, 3, [], none, none, 0, 0⟩
/-- A range failed its check since. -/
def hurt : Crew := { cM with ob := cM.ob.modify 1 fun r => r.map fun r => { r with bad := true } }
def running (i : Instr) : State := worldOf [cM] fun k => { k with ops := [opOf i] }
theorem witness_operations : ((running (.mzro false 0 3)).col 0 0).ops.filter ((running (.mzro false 0 3)).col 0 0).canRun = [opOf (.mzro false 0 3)]
    ∧ ((running (.mma 0 1 2 3)).col 0 0).ops.filter ((running (.mma 0 1 2 3)).col 0 0).canRun = [opOf (.mma 0 1 2 3)]
    ∧ (running (.mma 0 1 2 3)).crewByUid? 7 = some cM ∧ cM.range? 1 = some (rangeOf 64 32 0) ∧ cM.range? 2 = some (rangeOf 32 64 0)
    ∧ (rangeOf 64 32 0).rows = 64 ∧ (rangeOf 32 64 0).cols = 64 ∧ (0 : BitVec 3).toNat < cM.tiles.length
    ∧ 104 * 0 + 0 < (running (.mzro false 0 3)).cols.length := by decide +kernel
theorem witness_undamaged : (opOf (.mzro false 0 3)).damaged cM = false ∧ (opOf (.mma 0 1 2 3)).damaged cM = false ∧ (opOf (.mma 0 1 2 3)).damaged hurt = true := by decide +kernel
/-- Of 32 complex rows and columns, of MDFT's rows, and a drain of tile 0. -/
def cX : Crew := { cM with ob := [none, some (rangeOf 32 32 2), some (rangeOf 32 64 2), some (rangeOf 64 16 2)] ++ List.replicate 12 none }
theorem witness_complex : let s := worldOf [cX] fun k => { k with ops := [opOf (.mmac 0 1 2 3)] }
    (s.col 0 0).ops.filter (s.col 0 0).canRun = [opOf (.mmac 0 1 2 3)] ∧ s.crewByUid? 7 = some cX
      ∧ (opOf (.mmac 0 1 2 3)).damaged cX = false ∧ cX.range? 1 = some (rangeOf 32 32 2) ∧ cX.range? 2 = some (rangeOf 32 64 2)
      ∧ (rangeOf 32 32 2).rows = 32 ∧ (rangeOf 32 64 2).cols = 64 ∧ (0 : BitVec 3).toNat < cX.tiles.length := by decide +kernel
theorem witness_dft : let o := opOf (.mdft false .n16 0 3 3)
    let s := worldOf [cX] fun k => { k with ops := [o] }
    (s.col 0 0).ops.filter (s.col 0 0).canRun = [o] ∧ s.crewByUid? 7 = some cX ∧ o.damaged cX = false
      ∧ cX.range? 3 = some (rangeOf 64 16 2) ∧ (rangeOf 64 16 2).rows = 64 ∧ (0 : BitVec 3).toNat + 0 < cX.tiles.length := by
  decide +kernel
def drain0 : DrainDesc := DrainDesc.ofBytes drainBytes
def draining0 : MatOp := { opOf (.mdrn 0 6 3) with drain := some (drain0, false) }
theorem witness_drain_finish : let s := worldOf [cX] fun k => { k with ops := [draining0] }
    (s.col 0 0).ops.filter (s.col 0 0).canRun = [draining0] ∧ s.crewByUid? draining0.uid = some cX ∧ draining0.damaged cX = false
      ∧ draining0.twin.bind s.crewByUid? = none ∧ 0 < drain0.rowBytes := by decide +kernel
/-- The same in a pair whose twin's tile has no error. -/
theorem witness_pair_drain_finish : let q : Crew := { cX with place := ⟨0, 0, 1⟩, uid := 8 }
    let o : MatOp := { draining0 with twin := some 8 }
    let s := worldOf [cX, q] fun k => { k with ops := [o] }
    (s.col 0 0).ops.filter (s.col 0 0).canRun = [o] ∧ s.crewByUid? 7 = some cX ∧ o.damaged cX = false
      ∧ o.twin.bind s.crewByUid? = some q ∧ (q.tile 0).bad = false := by decide +kernel
theorem witness_damaged : let s := worldOf [hurt] fun k => { k with ops := [opOf (.mma 0 1 2 3)] }
    (s.col 0 0).ops.filter (s.col 0 0).canRun = [opOf (.mma 0 1 2 3)] ∧ s.crewByUid? 7 = some hurt
      ∧ (opOf (.mma 0 1 2 3)).drain = none := by decide +kernel

/-- TileTokensAndElements. -/
theorem witness_tokens : (0 : BitVec 3).toNat < c0.tiles.length ∧ s0.tileBusy c0 0 = false := by decide +kernel
def tileOf (q : Bool) : Tile := ⟨[(0, 5)], q, true, false⟩
def cT (q : Bool) : Crew := { c0 with tiles := [tileOf q, tileOf q] }
theorem witness_elements (q : Bool) : Alone (worldOf [cT q] id) (cT q) 0 t0 ∧ (cT q).tiles[(0 : BitVec 3).toNat]? = some (tileOf q)
    ∧ (tileOf q).vector = true ∧ ((tileOf q).i48q2 = true → (2 : VReg).toNat % 2 = 0) ∧ (worldOf [cT q] id).tilesDamaged (cT q) [0] = false
    ∧ tableFrom (0 : W48) none (tileOf q).elems = true :=
  ⟨⟨rfl, rfl, rfl, rfl⟩, rfl, rfl, fun _ => by decide, rfl, by cases q <;> decide⟩

/-- ServicesAndExit, Reefing. -/
theorem witness_exit : Alone s0 c0 0 t0 ∧ c0.twin = none ∧ ∀ v ∈ c0.cv, v.signed = 0 := ⟨alone _ _, rfl, by decide⟩
theorem witness_scfl : ((thr (regs [(1, 2)])).v 1).toNat ≤ 2 ∧ 2 < ((thr (regs [(1, 3)])).v 1).toNat := by decide +kernel
def reefing (ways : Bool) (n : W32) : State := worldOf [{ c0 with threads := [{ t0 with wait := .reef ways }] }] fun k =>
  { k with reefs := [⟨⟨⟨0, 0, 0⟩, 0⟩, ways, n, 0, 0⟩] }
theorem witness_scway : let s := reefing true 2
    s.crew? ⟨0, 0, 0⟩ = some { c0 with threads := [{ t0 with wait := .reef true }] }
      ∧ (s.col 0 0).reefs = ⟨⟨⟨0, 0, 0⟩, 0⟩, true, 2, 0, 0⟩ :: []
      ∧ ¬ ((s.eff 0x4000).ways < (2 : W32).toNat ∨ 16 < (2 : W32).toNat ∨ 0 < (s.col 0 0).count ∧ (s.col 0 0).owner ≠ some 0x4000) := by
  decide +kernel
theorem witness_scway_beyond : let s := reefing true 3
    (s.col 0 0).reefs = ⟨⟨⟨0, 0, 0⟩, 0⟩, true, 3, 0, 0⟩ :: [] ∧ (s.eff 0x4000).ways < (3 : W32).toNat := by decide +kernel
theorem witness_scfl_complete : ((reefing false 2).col 0 0).reefs = ⟨⟨⟨0, 0, 0⟩, 0⟩, false, 2, 0, 0⟩ :: [] ∧ (2 : W32).toNat ≤ 2 := by
  decide +kernel

/-- CacheInstructions. -/
def tR (n : W32) : Thread := thr (regs [(4, 0x1000), (6, n), (8, 0x400000)])
theorem witness_empty_range : ((tR 0).v 6).toNat = 0 := by decide +kernel
/-- No access table admits the column. -/
def closed : State := { world [tR 8] with die0 := Die.reset }
theorem witness_bad_range : ∃ b s1, ((tR 8).v 6).toNat ≠ 0 ∧ ((tR 8).pair 4).toNat % 4096 + ((tR 8).v 6).toNat ≤ 4096
      ∧ closed.checkPage closed.cur.place 0 false ((tR 8).pair 4) .read = (.bad b, s1) := by
  have h : (match (closed.checkPage ⟨0, 0, 0⟩ 0 false ((tR 8).pair 4) .read).1 with
    | .bad _ => true
    | _ => false) = true := by decide +kernel
  generalize hx : closed.checkPage ⟨0, 0, 0⟩ 0 false ((tR 8).pair 4) .read = x at h
  obtain ⟨k, s1⟩ := x
  cases k with
  | bad b => exact ⟨b, s1, by decide +kernel, by decide +kernel, hx⟩
  | device _ _ _ => exact Bool.noConfusion h
  | host _ _ => exact Bool.noConfusion h
  | register _ _ => exact Bool.noConfusion h
  | walk => exact Bool.noConfusion h
theorem witness_range (pass : Bool) (k : AccKind)
    (h : ((world [tR 8]).checkPage ⟨0, 0, 0⟩ 0 pass ((tR 8).pair 4) k).1 = .device 0x1000 0 page0) :
    ∃ s1, onePage (world [tR 8]) 0 (tR 8) 4 6 pass k (.device 0x1000 0 page0, s1) :=
  ⟨_, by decide +kernel, by decide +kernel, isAnswer h⟩
theorem witness_read_range (pass : Bool) : ∃ s1, onePage (world [tR 8]) 0 (tR 8) 4 6 pass .read (.device 0x1000 0 page0, s1) :=
  witness_range pass .read (by cases pass <;> decide +kernel)
theorem witness_fetch_range : ∃ s1, onePage (world [tR 8]) 0 (tR 8) 4 6 false .fetch (.device 0x1000 0 page0, s1) :=
  witness_range false .fetch (by decide +kernel)
theorem witness_range_miss (pass : Bool) : ∃ s1, let s := { world [tR 8] with cols := State.reset.cols }
    onePage s 0 (tR 8) 4 6 pass .read (.walk, s1) :=
  ⟨_, by decide +kernel, by decide +kernel, isAnswer (by cases pass <;> decide +kernel)⟩
theorem witness_pin : let s := world [tR 8]
    ((tR 8).pair 4).toNat % 128 + ((tR 8).v 6).toNat ≤ 128 ∧ 0x1000 % 128 = ((tR 8).pair 4).toNat % 128
      ∧ homeOf (0x1000 / 128 * 128) = some 0 ∧ (s.col 0 0).iline? (((tR 8).pair 4).toNat / 128) = none ∧ s.poisoned (0x1000 / 128 * 128) 1 = false
      ∧ ((s.col 0 0).icache.filter ILine.pinned).length < 256 := by decide +kernel
theorem witness_cache_wait (op : CacheOp) : let t : Thread := { t0 with wait := .cacheOp op [] }
    (world [t]).thread? ⟨0, 0, 0⟩ 0 = some t ∧ t.wait = .cacheOp op [] := ⟨rfl, rfl⟩
/-- Line 32 pinned, and gone. -/
def pinning (l : List ILine) : State := worldOf [crewOf [{ t0 with wait := .cacheOp .ipin [32] }]] fun k => { k with icache := l }
theorem witness_pinned : (∀ l ∈ [32], (((pinning [⟨32, [], true⟩]).col 0 0).iline? l).any ILine.pinned = true)
    ∧ ¬ ∀ l ∈ [32], (((pinning []).col 0 0).iline? l).any ILine.pinned = true := by decide +kernel

/-- PealRunsComputedWords: one word, two different words, the second of them alone, and a word that is none. -/
def sP : State := one [(1, 0x10081030)]
def tW (w : W32) : Thread := { thr (regs [(1, w)]) with next := some ⟨0x1000, 0x6B000800⟩ }
def sPP : State := group [tW 0x10081030, tW 0x10081031]
theorem witness_peal : sP.cur.tids.Nodup ∧ sP.pealOf ⟨sP.cur.place, sP.cur.tids, sP.cur.pc, sP.cur.pipe⟩ = none
    ∧ 104 * sP.cur.place.die + sP.cur.place.col < sP.cols.length
    ∧ sPP.cur.tids.Nodup ∧ sPP.pealOf ⟨sPP.cur.place, sPP.cur.tids, sPP.cur.pc, sPP.cur.pipe⟩ = none
    ∧ 104 * sPP.cur.place.die + sPP.cur.place.col < sPP.cols.length := by decide +kernel
theorem witness_peal_words : ∀ tid ∈ sP.cur.tids, ∃ c t, atIntegerWord sP 1 c tid t := by
  intro tid h
  obtain rfl : tid = 0 := List.mem_singleton.1 h
  have hd : decode 0x10081030 = .ok (.add 2 (.v 2) (.v 3)) := by rfl
  exact ⟨_, _, ingroup _ [], by decide +kernel, rfl, by decide +kernel, rfl, .add 2 (.v 2) (.v 3), 2, _,
    by rw [show (thr (regs [(1, 0x10081030)])).v (1 : VReg).toNat = 0x10081030 by decide +kernel]; exact hd, rfl⟩
theorem witness_peal_least : (∃ j ∈ sPP.cur.tids, ((sPP.thread? ⟨0, 0, 0⟩ j).map fun t => t.v 1).getD 0 = 0x10081030)
    ∧ ∀ j ∈ sPP.cur.tids, 0x10081030 ≤ ((sPP.thread? ⟨0, 0, 0⟩ j).map fun t => t.v 1).getD 0 := by decide +kernel
def pealRun0 : PealRun := ⟨⟨0, 0, 0⟩, [0, 1], 0x1000, 0x6B000800, 0, [⟨0x10081031, [1], false, false⟩], [], [0], 5⟩
def sPR : State :=
  let s := group [{ tW 0x10081030 with peal := true }, { tW 0x10081031 with peal := true }]
  { s with cols := s.cols.modify 0 fun k => { k with peals := [pealRun0] } }
theorem witness_peal_last : sPR.pealOf ⟨sPR.cur.place, sPR.cur.tids, sPR.cur.pc, sPR.cur.pipe⟩ = some pealRun0
    ∧ 104 * sPR.cur.place.die + sPR.cur.place.col < sPR.cols.length ∧ pealRun0.tids.Nodup
    ∧ (∀ j ∈ pealRun0.tids, j ∈ pealRun0.done ∨ j ∈ [1]) ∧ (∀ j ∈ [1], j ∈ pealRun0.tids ∧ j ∉ pealRun0.done) := by decide +kernel
theorem refusedWord {w : W32} (h : (decode w).toOption = none) : ∃ e, decode w = .error e := by
  cases hd : decode w with
  | ok i => rw [hd] at h; exact absurd h (by simp [Except.toOption])
  | error e => exact ⟨e, rfl⟩
theorem witness_bad_peal : ∃ e, decode ((thr (regs [(1, 0x0F000000)])).v (1 : VReg).toNat) = .error e := refusedWord (by decide +kernel)
theorem witness_no_emulation : (s0.eff c0.at_.rcb).emuhandler = 0 ∧ t0.emu = false := by decide +kernel

/-- Enqueues, QueueReadsAndTimers: a region whose stages 0, 1, 2 have room, are full, and lie on the other die. -/
def record0 : QRec := ⟨zeros 16, 0, 0⟩
def queues : Region := { region0 with stages := [stageOf desc0 [record0], stageOf desc0 [record0, record0, record0, record0],
  stageOf { desc0 with die := 1 } [], stageOf { desc0 with timed := true } [record0], stageOf { desc0 with persistent := true } [],
  { stageOf { desc0 with persistent := true } [] with start := some [] }] }
def tQ : Thread := thr (regs [(1, 0), (2, 1), (3, 2), (4, 9)])
def unit0 : RangeUnit := ⟨⟨0x4000, 0⟩, 5, 100, 1, 2⟩
def sQ : State :=
  let s := worldOf [crewOf [tQ]] id
  { s with regions := [queues], die0 := { s.die0 with ranges := [(1, unit0)] } }
theorem witness_bad_stage : sQ.enqTarget ⟨0x4000, (tQ.v 4).toNat⟩ = none ∧ sQ.stage? ⟨0x4000, (tQ.v 4).toNat⟩ = none := by decide +kernel
theorem witness_enqueue_room : sQ.enqTarget ⟨0x4000, (tQ.v 1).toNat⟩ = some desc0
    ∧ sQ.stage? ⟨0x4000, (tQ.v 1).toNat⟩ = some (stageOf desc0 [record0]) ∧ (tQ.v 5).toNat % 16 = 0
    ∧ sQ.localReady (crewOf [tQ]) (tQ.v 5).toNat desc0.recsize 16 true = .go ∧ desc0.die = (crewOf [tQ]).place.die
    ∧ (stageOf desc0 [record0]).queue.length < desc0.capacity
    ∧ (stageOf desc0 [record0]).queue.length < (if desc0.paired then 2 * desc0.crewsize else desc0.crewsize) := by decide +kernel
theorem witness_enqueue_full : let st := stageOf desc0 [record0, record0, record0, record0]
    sQ.enqTarget ⟨0x4000, (tQ.v 2).toNat⟩ = some desc0 ∧ sQ.stage? ⟨0x4000, (tQ.v 2).toNat⟩ = some st ∧ desc0.capacity ≤ st.queue.length := by
  decide +kernel
theorem witness_enqueue_far : let d := { desc0 with die := 1 }
    sQ.enqTarget ⟨0x4000, (tQ.v 3).toNat⟩ = some d ∧ sQ.stage? ⟨0x4000, (tQ.v 3).toNat⟩ = some (stageOf d [])
      ∧ d.die ≠ (crewOf [tQ]).place.die := by decide +kernel
def parkedQ (w : Wait) : State := { worldOf [{ c0 with threads := [{ t0 with wait := w }] }] id with
  regions := [queues], transit := [⟨⟨0x4000, 0⟩, zeros 16, some ⟨⟨0, 0, 0⟩, 0⟩, false⟩, ⟨⟨0x4000, 1⟩, zeros 16, some ⟨⟨0, 0, 0⟩, 0⟩, true⟩] }
theorem witness_queue_room : let s := parkedQ (.queue 0 (zeros 16))
    s.crew? ⟨0, 0, 0⟩ = some { c0 with threads := [{ t0 with wait := .queue 0 (zeros 16) }] } ∧ c0.phase = .running
      ∧ s.stage? ⟨0x4000, 0⟩ = some (stageOf desc0 [record0]) ∧ (stageOf desc0 [record0]).queue.length < desc0.capacity := by decide +kernel
theorem witness_remote : let s := parkedQ .remoteEnq
    s.transit.find? (s.arrived 0) = some ⟨⟨0x4000, 0⟩, zeros 16, some ⟨⟨0, 0, 0⟩, 0⟩, false⟩
      ∧ s.thread? ⟨0, 0, 0⟩ 0 = some { t0 with wait := .remoteEnq } ∧ s.stage? ⟨0x4000, 0⟩ = some (stageOf desc0 [record0]) := by
  decide +kernel
theorem witness_remote_full : let s := { parkedQ .remoteEnq with transit := [⟨⟨0x4000, 1⟩, zeros 16, some ⟨⟨0, 0, 0⟩, 0⟩, true⟩] }
    s.transit.find? (s.arrived 0) = some ⟨⟨0x4000, 1⟩, zeros 16, some ⟨⟨0, 0, 0⟩, 0⟩, true⟩
      ∧ s.stage? ⟨0x4000, 1⟩ = some (stageOf desc0 [record0, record0, record0, record0]) ∧ desc0.capacity ≤ 4 := by decide +kernel
theorem witness_range_unbound : ∀ u r, (sQ.die 0).ranges.find? (fun q => q.1 = (2 : BitVec 2).toNat) = some (u, r) → r.stage.rcb ≠ 0x4000 := by
  intro u r h; exact absurd h (by rw [show (sQ.die 0).ranges.find? (fun q => q.1 = (2 : BitVec 2).toNat) = none by decide +kernel]; simp)
/-- A stage on the crew's die, one on the other die, a malformed one, and a thread that waits for an answer. -/
theorem witness_qstat : Alone sQ (crewOf [tQ]) 0 tQ ∧ tQ.wait = .ready
    ∧ sQ.stage? ⟨0x4000, (tQ.v 1).toNat⟩ = some (stageOf desc0 [record0]) ∧ (stageOf desc0 [record0]).desc = some desc0
    ∧ desc0.die = (crewOf [tQ]).place.die ∧ (stageOf desc0 [record0]).capacity = some 4
    ∧ sQ.stage? ⟨0x4000, (tQ.v 3).toNat⟩ = some (stageOf { desc0 with die := 1 } []) ∧ (1 : Nat) ≠ (crewOf [tQ]).place.die :=
  ⟨⟨rfl, rfl, rfl, rfl⟩, rfl, by decide +kernel, rfl, rfl, rfl, by decide +kernel, by decide⟩
theorem witness_qstat_malformed : let bad : Stage := { stageOf desc0 [] with desc := none, capacity := none }
    let s : State := { sQ with regions := [{ queues with stages := [bad] }] }
    s.stage? ⟨0x4000, (tQ.v 1).toNat⟩ = some bad ∧ ∀ d, bad.desc = some d → d.die = 0 :=
  ⟨by decide +kernel, fun _ h => nomatch h⟩
theorem witness_qstat_answer : let t : Thread := { tQ with wait := .remoteQstat 2 8 }
    let s : State := { worldOf [crewOf [t]] id with regions := [queues] }
    s.crew? ⟨0, 0, 0⟩ = some (crewOf [t]) ∧ (crewOf [t]).threads[0]? = some t
      ∧ s.stage? ⟨0x4000, 2⟩ = some (stageOf { desc0 with die := 1 } []) := by decide +kernel
theorem witness_range_unit : (sQ.die 0).ranges.find? (fun q => q.1 = (1 : BitVec 4).toNat) = some ((1 : BitVec 4).toNat, unit0)
    ∧ unit0.stage.rcb = 0x4000 ∧ unit0.divisor ≠ 0 := by decide +kernel
theorem witness_timer : let d := { desc0 with timed := true }
    sQ.stage? ⟨0x4000, 3⟩ = some (stageOf d [record0]) ∧ d.timed = true ∧ d.persistent = false ∧ d.paired = false
      ∧ record0 ∈ (stageOf d [record0]).queue ∧ record0.ns + d.timer ≤ sQ.ns ∧ 0 < d.crewsize := by decide +kernel
theorem witness_timer_paired : let d := { desc0 with timed := true, paired := true }
    let st := stageOf d [record0, record0, record0]
    let s : State := { sQ with regions := [{ queues with stages := [st] }] }
    s.stage? ⟨0x4000, 0⟩ = some st ∧ d.paired = true ∧ record0 ∈ st.queue ∧ record0.ns + d.timer ≤ s.ns
      ∧ 2 ≤ st.queue.length := by decide +kernel

/-- FixedFunctionRequests: a texture of one texel, a ray, and a bin record, at 0, 0x40 and 0x80 of local memory. -/
def texBytes (tfmt : W8) : List W8 := leBytes 8 0x1000 ++ leBytes 2 1 ++ leBytes 2 1 ++ leBytes 4 16 ++ [tfmt] ++ zeros 15
def rayBytes (org root : Nat) : List W8 := leBytes 4 org ++ zeros 28 ++ leBytes 8 root ++ leBytes 8 0x1000 ++ leBytes 8 0x1000 ++ zeros 8
def binBytes : List W8 := zeros 24 ++ [2, 2, 2, 0] ++ leBytes 4 0x200 ++ leBytes 4 16 ++ leBytes 4 0x300 ++ zeros 24
def tF : Thread := thr (regs [(1, 0), (2, 0x40), (3, 0x80)])
def cF : Crew := withMem [tF] [(0, texBytes 2), (0x40, rayBytes 0 0x1000), (0x80, binBytes)]
def sF : State := worldOf [cF] id
theorem witness_tex : ∃ s1, (tF.v 1).toNat % 16 = 0 ∧ sF.localReady cF (tF.v 1).toNat 32 16 true = .go
    ∧ (TexDesc.ofBytes (sF.localBytes cF 0 32)).malformed = false
    ∧ (sF.seeLocal cF 0 0 32).extentReadable ⟨0, 0, 0⟩ 0 (piecesFrom ((sF.seeLocal cF 0 0 32).goesOnAt ⟨0, 0, 0⟩ 0 0x1000) (pagePieces 0x1000 16)) = (.done, s1)
    ∧ (TexDesc.ofBytes (sF.localBytes cF 0 32)).base = 0x1000 ∧ (TexDesc.ofBytes (sF.localBytes cF 0 32)).extent = 16 :=
  ⟨_, by decide +kernel, by decide +kernel, by decide +kernel, isAnswer (by decide +kernel), by decide +kernel, by decide +kernel⟩
theorem witness_trav : ∃ s1, (tF.v 2).toNat % 16 = 0 ∧ sF.localReady cF (tF.v 2).toNat 64 16 true = .go
    ∧ (Ray.ofBytes (sF.localBytes cF 0x40 64)).malformed = false
    ∧ (sF.seeLocal cF 0 0x40 64).extentReadable ⟨0, 0, 0⟩ 0
      (piecesFrom ((sF.seeLocal cF 0 0x40 64).goesOnAt ⟨0, 0, 0⟩ 0 0x1000) (pagePieces 0x1000 0x1000)) = (.done, s1) :=
  ⟨_, by decide +kernel, by decide +kernel, by decide +kernel, isAnswer (by decide +kernel)⟩
theorem witness_rast : (tF.v 3).toNat % 16 = 0 ∧ sF.localReady cF (tF.v 3).toNat 64 16 true = .go
    ∧ (BinRec.ofBytes (sF.localBytes cF 0x80 64)).malformed = false ∧ sF.barrierBad cF 0x300 = none ∧ sF.memoriesWf = true
    ∧ sF.crewByUid? cF.uid = some cF ∧ queueRoom sF ⟨0, 0, 0⟩ .rast = true := by decide +kernel
theorem witness_rast_object : noBarrierWaiter sF := noWaiter (by decide +kernel)
def ffAsked (unit : FfUnit) (step : FfStep) (record : List W8) : FfRequest := ⟨5, unit, 7, 0, 8, 0x4000, record, 0, 0, false, 0, 0, step, 0x1000, 0x5F202100, none, none⟩
def asking (r : FfRequest) : State := worldOf [cF] fun k => { k with ff := [r] }
theorem witness_no_room (unit : FfUnit) : queueRoom (asking (ffAsked unit .waiting [])) ⟨0, 0, 0⟩ unit = false := by
  cases unit <;> decide +kernel
theorem witness_takeup (unit : FfUnit) : let s := asking (ffAsked unit .queued [])
    (s.col 0 0).ff.find? (fun q => q.unit == unit && q.step == .queued) = some (ffAsked unit .queued [])
      ∧ (s.col 0 0).ff.any (fun q => q.unit == unit && q.step == .waiting) = false ∧ s.crewByUid? 7 = some cF := by
  cases unit <;> decide +kernel

/-- FixedFunctionReplies. -/
theorem witness_tex_reply (k : Nat) (h : k = 0 ∨ k = 2 ∨ k = 3) : let r := ffAsked .tex .taken (texBytes (BitVec.ofNat 8 k))
    let d := TexDesc.ofBytes r.record
    (∃ x s1, (asking r).ffRead ⟨0, 0, r⟩ ⟨r.place, r.pts⟩ (d.texelAt ⟨0, 0, 65536⟩) d.texel = (.ok x, s1)
        ∧ decide (x.1.length = d.texel) = true)
      ∧ ((asking r).col 0 0).serving r.tag .tex = some r ∧ d.taps r.u r.v = [⟨0, 0, 65536⟩] ∧ d.bilinear = false ∧ d.tfmt = k := by
  refine ⟨okWith ?_, ?_⟩ <;> rcases h with rfl | rfl | rfl <;> decide +kernel
/-- An answer that a test says is a cause other than an absent page. -/
theorem badWith {α : Type} {p : Except FfStop α × State} (h : (match p.1 with
    | .error (.bad b) => decide (b.cause ≠ .pageNotPresent)
    | _ => false) = true) : ∃ b s1, p = (.error (.bad b), s1) ∧ b.cause ≠ .pageNotPresent := by
  obtain ⟨x, s⟩ := p
  match x, h with
  | .error (.bad b), h => exact ⟨b, s, rfl, of_decide_eq_true h⟩
/-- No access table admits the column. -/
def texClosed : State := { asking (ffAsked .tex .taken (texBytes 2)) with die0 := Die.reset }
theorem witness_tex_denied : let r := ffAsked .tex .taken (texBytes 2)
    let d := TexDesc.ofBytes r.record
    (∃ b s1, texClosed.ffRead ⟨0, 0, r⟩ ⟨r.place, r.pts⟩ (d.texelAt ⟨0, 0, 65536⟩) d.texel = (.error (.bad b), s1)
        ∧ b.cause ≠ .pageNotPresent)
      ∧ (texClosed.col 0 0).serving r.tag .tex = some r ∧ texClosed.crewByUid? r.uid = some cF ∧ texClosed.crew? cF.place = some cF
      ∧ cF.has r.tid = true ∧ cF.threads[r.tid]? = some tF :=
  ⟨badWith (by decide +kernel), by decide +kernel⟩
theorem witness_trav_no_node : let r := ffAsked .trav .taken (rayBytes 0 0x1008)
    ((asking r).col 0 0).serving r.tag .trav = some r ∧ (Ray.ofBytes r.record).root % 128 ≠ 0 := by decide +kernel
def nanRay : FfRequest := ffAsked .trav .taken (rayBytes 0x7FC00000 0x1000)
/-- The node at 0x1000: a kind of neither, or two boxes whose children lie at 0x1080. -/
def nodeBytes (kind : W8) : List W8 := [kind] ++ zeros 7 ++ leBytes 8 0x1080 ++ leBytes 8 0x1080 ++ zeros 104
def tree (kind : W8) : State := { asking nanRay with mem := Memory.writeL [] 0x1000 (nodeBytes kind) }
theorem witness_trav_node (kind : W8) (h : kind = 0 ∨ kind = 2) :
    (∃ x s1, (tree kind).ffReads ⟨0, 0, nanRay⟩ ⟨nanRay.place, nanRay.pts⟩
        (sectorsOf 0x1000 128) = (.ok x, s1) ∧ decide (x.1 = nodeBytes kind) = true)
      ∧ (Ray.ofBytes nanRay.record).root = 0x1000 ∧ (Ray.ofBytes nanRay.record).inExtent 0x1000 128 = true := by
  refine ⟨okWith ?_, ?_⟩ <;> rcases h with rfl | rfl <;> decide +kernel
/-- A traversal that a walk has held up at the node at 0x1000. -/
def traveller : Travel := ⟨3, [0x1000], ⟨false, false, none⟩⟩
def resumed : FfRequest := { nanRay with travel := some traveller }
theorem witness_trav_resumes : let s : State := { asking resumed with mem := Memory.writeL [] 0x1000 (nodeBytes 2) }
    (s.col 0 0).serving resumed.tag .trav = some resumed ∧ 0 < traveller.left ∧ traveller.found.broken = false
      ∧ ∃ x s1, s.ffReads ⟨0, 0, resumed⟩ ⟨resumed.place, resumed.pts⟩ (sectorsOf 0x1000 128) = (.ok x, s1)
        ∧ decide (x.1 = nodeBytes 2) = true :=
  ⟨by decide +kernel, by decide, by decide, okWith (by decide +kernel)⟩
theorem witness_trav_kinds : 1 < fieldAt (nodeBytes 2) 0 1 ∧ fieldAt (nodeBytes 0) 0 8 = 0 ∧ fieldAt (nodeBytes 0) 0x48 0x38 = 0
    ∧ (Ray.ofBytes nanRay.record).anyNan = true ∧ (Ray.ofBytes nanRay.record).inExtent (fieldAt (nodeBytes 0) 8 8) 128 = true
    ∧ (Ray.ofBytes nanRay.record).inExtent (fieldAt (nodeBytes 0) 0x10 8) 128 = true := by decide +kernel
def raster0 : Transfer := { moving with kind := .raster binBytes, reads := [], writes := [] }
theorem witness_raster : let s := movingWorld raster0
    (s.col 0 0).transfers.find? (fun k => k.tag = raster0.tag) = some raster0 ∧ raster0.kind = .raster binBytes ∧ s.crewByUid? raster0.uid = some c0
      ∧ (BinRec.ofBytes binBytes).malformed = false ∧ (BinRec.ofBytes binBytes).clear = true ∧ (BinRec.ofBytes binBytes).count = 0 := by
  decide +kernel
/-- The pixel (0, 0) lies in the triangle (0, 0), (0, 2), (2, 0). -/
theorem witness_covered : (coverDepth ⟨0, 0, 0⟩ ⟨0, 2 ^ 150, 0⟩ ⟨2 ^ 150, 0, 0⟩ ((2 * (0 + 0) + 1 : Nat) * 2 ^ 148)
    ((2 * (0 + 0) + 1 : Nat) * 2 ^ 148)).isSome = true := by decide +kernel

/-- GrantsAreDisjoint. -/
theorem witness_grant : s0.fatal = none ∧ (s0.die 0).frozen = false ∧ s0.victims = []
    ∧ ({ s0 with victims := [⟨0, 0, 0⟩] } : State).victims.any (fun p => p.die == 0) = true := by decide +kernel
def grant0 : Halyard := .grant [(⟨0x4000, 0⟩, [1, 2])]
theorem witness_halyard : let s : State := { s0 with die0 := { s0.die0 with
      down := s0.die0.down.set 3 ⟨7, [grant0], []⟩, up := s0.die0.up.set 3 ⟨7, [.launched ⟨0x4000, 0⟩], []⟩ } }
    (s.die 0).down[3]? = some ⟨7, [grant0], []⟩ ∧ (s.die 0).up[3]? = some ⟨7, [.launched ⟨0x4000, 0⟩], []⟩
      ∧ (s.regions.flatMap fun r => r.stages.map fun x => x.desc.map StageDesc.die) = [some 0] := by decide +kernel
theorem witness_no_grant : let s := { s0 with fatal := some (.watchdog, 0) }
    s.fatal ≠ none := by decide

/-- LaunchStartEnd: a stage with a crew formed and column 0 granted. -/
def formed0 : Formed := ⟨[record0, record0], none, 0⟩
def launching : State := { worldOf [] id with
  regions := [{ region0 with eff := { eff0 with maxcols := 4 }, stages := [{ stageOf desc0 [] with formed := [formed0], grant := [0] }] }] }
theorem witness_launch : launching.launchable ⟨0x4000, 0⟩ 0 = some (desc0, formed0) ∧ formed0.second = none ∧ desc0.paired = false
    ∧ desc0.nbind = 0 ∧ launching.freeNumber 0x4000 = some 0 ∧ formed0.records.length ≤ 32 := by decide +kernel
def inPhase (p : Phase) (e : Option BindError) : Crew := { c0 with phase := p, bindErr := e }
def bindError0 : BindError := ⟨0, 0, .permission, 0x1000, 0, 0⟩
theorem witness_crew_start : let s := worldOf [inPhase .placed none] id
    s.crew? ⟨0, 0, 0⟩ = some (inPhase .placed none) ∧ (s.col 0 0).transfers.all (fun t => t.uid != 7) = true
      ∧ (s.desc ⟨0x4000, 0⟩).nbind ≤ (inPhase .placed none).bindNext / 32 := by decide +kernel
theorem witness_crew_binding_error : let s := worldOf [inPhase .placed (some bindError0)] id
    s.crew? ⟨0, 0, 0⟩ = some (inPhase .placed (some bindError0)) ∧ (s.col 0 0).transfers.all (fun t => t.uid != 7) = true
      ∧ (inPhase .placed (some bindError0)).twin = none := by decide +kernel
theorem witness_crew_end : let s := worldOf [inPhase .ended none] id
    s.crew? ⟨0, 0, 0⟩ = some (inPhase .ended none) ∧ (s.col 0 0).transfers.all (fun t => t.uid != 7) = true
      ∧ (s.col 0 0).ops.all (fun o => o.uid != 7) = true ∧ (s.col 0 0).ff.all (fun r => r.uid != 7) = true := by decide +kernel

/-- Saves: tables that map the first 2 MiB to themselves, pinned; the crew's entry names an image at 0x30000. -/
def tables : Memory :=
  [(0x100000, leBytes 8 0x101001), (0x101000, leBytes 8 0x102001), (0x102000, leBytes 8 0x103001), (0x103000, leBytes 8 0x87),
    (0x20000, leBytes 8 0x30000)].foldl (fun m x => Memory.writeL m x.1 x.2) []
def mapped (c : Crew) : State :=
  let s := worldOf [c] id
  { s with mem := tables, die0 := { s.die0 with trbase := 0x100000 } }
def small (p : Phase) : Crew := { c0 with phase := p, tiles := [], lsize := 1024 }
theorem witness_image : c0.g.length = 32 ∧ c0.cv.length = 8 ∧ c0.ob.length = 16 ∧ Memory.wf c0.mem = true := by decide
theorem witness_save : ∃ a s1, let s := mapped (small .running)
    s.saveEntry (small .running) = (.ok a, s1) ∧ decide (a ≠ 0) = true ∧ s.crew? ⟨0, 0, 0⟩ = some (small .running)
      ∧ s.sealable (small .running) = true := by
  obtain ⟨a, s1, h, h1⟩ : ∃ a s1, (mapped (small .running)).saveEntry (small .running) = (.ok a, s1) ∧ decide (a ≠ 0) = true :=
    okWith (by decide +kernel)
  exact ⟨a, s1, h, h1, by decide +kernel, by decide +kernel⟩
def sealed0 : Crew := small (.sealed .preemption 0)
theorem witness_save_commit : ∃ l s1 s2, let s := mapped sealed0
    s.checkSaves .preemption false [sealed0] [⟨0, 0, 0⟩] = (.ok l, s1)
      ∧ decide (l = [(sealed0, 0x30000, ⟨.preemption, 0, false⟩)]) = true ∧ s.drained sealed0 = true
      ∧ (s.die 0).frozen = false ∧ s1.stateDamaged sealed0 0 = false
      ∧ s1.writeImages [(sealed0, 0x30000, ⟨.preemption, 0, false⟩)] = (.good, s2) ∧ s.stage? sealed0.at_ = some (stageOf desc0 []) := by
  have h : ∀ x, x = (mapped sealed0).checkSaves .preemption false [sealed0] [⟨0, 0, 0⟩] →
      x.1.toOption.any (fun l => decide (l = [(sealed0, 0x30000, ⟨.preemption, 0, false⟩)])) = true
        ∧ x.2.stateDamaged sealed0 0 = false ∧ (x.2.writeImages [(sealed0, 0x30000, ⟨.preemption, 0, false⟩)]).1 = .good := by
    rintro x rfl
    exact ⟨by decide +kernel, by decide +kernel, by decide +kernel⟩
  obtain ⟨h1, h2, h3⟩ := h _ rfl
  obtain ⟨l, s1, hl, hd⟩ := okWith h1
  rw [hl] at h2 h3
  exact ⟨l, s1, _, hl, hd, by decide +kernel, by decide +kernel, h2, isAnswer h3, by decide +kernel⟩
theorem witness_save_timeout : let s := { mapped sealed0 with ns := 200000 }
    s.crew? ⟨0, 0, 0⟩ = some sealed0 ∧ sealed0.phase = .sealed .preemption 0 ∧ 0 + 200000 ≤ s.ns := by decide +kernel
def saved0 : Saved := ⟨small .running, 0x30000, [], false, 0, none, false, false⟩
def resuming : State :=
  let s := mapped c0
  let st : Stage := { stageOf desc0 [] with saved := [saved0], grant := [0] }
  { s with crews := [], regions := [{ region0 with eff := { eff0 with maxcols := 4 }, stages := [st] }] }
theorem witness_resume : ∃ l s1, resuming.readImages desc0 0 [saved0] = (.ok l, s1) ∧ decide (l.map List.length = [3841]) = true :=
  okWith (by decide +kernel)
theorem witness_resumable : (resuming.stage? ⟨0x4000, 0⟩).any (fun st => resuming.mayResume ⟨0x4000, 0⟩ st desc0 0
    && decide (st.toResume = [saved0])) = true ∧ saved0.crew.threads.length ≤ 32 := by decide +kernel

/-- IssueCycles. -/
theorem witness_places : placesDistinct s0 := List.pairwise_singleton _ _
/-- A thread that has reached the threshold, and another of its path. -/
def older : Thread := { t0 with age := 4096, next := some ⟨0x1000, 0x01000000⟩ }
def younger : Thread := { older with age := 0 }
theorem witness_aged : (world [older, younger]).crew? ⟨0, 0, 0⟩ = some (crewOf [older, younger])
    ∧ (crewOf [older, younger]).issuable older = true ∧ (crewOf [older, younger]).issuable younger = true ∧ older.aged = false
    ∧ (crewOf [older, younger]).present.getLsbD 1 = true ∧ ((world [older, younger]).eff 0x4000).ageing ≤ older.age
    ∧ older.pc = younger.pc ∧ (crewOf [older, younger]).phase = .running := by decide +kernel
/-- Column 0 has a ready head run of two threads for each pipe. -/
def atWord (pc : W64) (w : W32) : Thread := { t0 with pc, next := some ⟨pc, w⟩ }
def runs : State := world [atWord 0x1000 0x01000000, atWord 0x1000 0x01000000, atWord 0x2000 0x01000000, atWord 0x3000 0x90083080]
theorem witness_head_runs : (runs.col 0 0).fenced = false ∧ runs.fatal = none ∧ (runs.col 0 0).peals = []
    ∧ (runs.pcTable 0 0).filter (runs.grouped 0 0) = []
    ∧ (runOf ((runs.pcTable 0 0).filter fun e => !e.uset)).map PcEntry.tid = [0, 1]
    ∧ (runOf (((runs.pcTable 0 0).filter fun e => !e.uset).drop 2)).map PcEntry.tid = [2]
    ∧ (runOf ((runs.pcTable 0 0).filter PcEntry.uset)).map PcEntry.tid = [3] := by decide +kernel
/-- What INSTRUCTION_FETCH_RETURN and the issue cycle find: no accesses in flight. -/
theorem witness_quiet : (s0.cols.all fun k => decide (k.transfers = []) && decide (k.ff = []) && k.ops.all fun o => o.drain.isNone) = true
    ∧ (s0.crews.all fun c => c.threads.all fun t => decide (t.wait = .ready)) = true := by decide +kernel
def fetching : Thread := { t0 with wait := .fetch }
theorem witness_fetch_pinned : let s := worldOf [crewOf [fetching]] fun k => { k with icache := [⟨32, List.replicate 32 0x01000000, true⟩] }
    s.thread? ⟨0, 0, 0⟩ 0 = some fetching ∧ fetching.fbuf = none ∧ fetching.pc.toNat % 4 = 0 ∧ fetching.pc.toNat < 2 ^ 57
      ∧ ((s.col 0 0).iline? 32).any ILine.pinned = true := by decide +kernel
theorem witness_fetch_miss : ({ world [fetching] with cols := State.reset.cols } : State).lookup 0 0 fetching.pc.toNat = .miss
    ∧ (({ world [fetching] with cols := State.reset.cols } : State).col 0 0).iline? (fetching.pc.toNat / 128) = none := by
  decide +kernel
theorem witness_fetch : ∃ s1, let s := world [fetching]
    (s.col 0 0).iline? (fetching.pc.toNat / 128) = none ∧ s.poisoned 0x1000 4 = false ∧ homeOf (0x1000 / 128 * 128) = some 0
      ∧ s.checkNow (s.threadMaster ⟨0, 0, 0⟩ 0 fetching.pc) false fetching.pc 4 .fetch = (.device 0x1000 0 page0, s1) :=
  ⟨_, by decide +kernel, by decide +kernel, by decide, isAnswer (by decide +kernel)⟩
theorem witness_fetch_hit : (match (world [fetching]).lookup 0 0 fetching.pc.toNat with
    | .hit e _ => e == page0
    | .miss => false) = true := by decide +kernel

/-- TranslationEvents. -/
theorem witness_leaf : homeOf 0x103000 = some 0 ∧ 0x103000 % 8 = 0 ∧ (mapped c0).globalWf = true
    ∧ (le64 ((mapped c0).bytes .dev 0x103000 8)).getLsbD 7 = true ∧ (mapped c0).mapsQuarantined 0x7 0 = false
    ∧ (0x7#64 : W64).getLsbD 3 = false := by decide +kernel
theorem witness_leaf_pinned : (mapped c0).pinnedAt 0x103000 = true ∧ (mapped c0).pinnedAt 0x103010 = false
    ∧ ({ mapped c0 with die0 := { (mapped c0).die0 with quarantine := [(0x200000, 4096, 3)] } } : State).mapsQuarantined 0x200007 0 = true := by
  decide +kernel
theorem witness_leaf_unpinned : (le64 ((mapped c0).bytes .dev 0x104000 8)).getLsbD 0 = false := by decide +kernel
def walk0 (queued asked_ : Bool) (page : Nat) : Walk := ⟨page, 0, 0x4000, false, 0, 1, queued, asked_, false, []⟩
def walking (w : Walk) (x : Wait) : State :=
  let s := mapped { c0 with threads := [{ t0 with wait := x }] }
  { s with die0 := { s.die0 with walks := [w] } }
theorem witness_walk : ((walking (walk0 true false 1) .ready).die 0).walks = [] ++ walk0 true false 1 :: []
    ∧ (((walking (walk0 true false 1) .ready).die 0).walks.filter fun x => !x.queued && !x.asked).length < 16 := by decide +kernel
theorem witness_walk_page : ∃ ws, let s := walking (walk0 false false 1) (.walk 0x1000 0 0x70000000 .core)
    (s.die 0).walks.find? (fun x => x.page = 1 ∧ !x.queued ∧ !x.asked) = some (walk0 false false 1)
      ∧ s.thread? ⟨0, 0, 0⟩ 0 = some { t0 with wait := .walk 0x1000 0 0x70000000 .core }
      ∧ Machine.accOf 0 ≠ .fetch ∧ Machine.accOf 3 = .fetch ∧ s.walk 0 (4096 * 1) = (.page ⟨0, 21, 0, 0x87, 1⟩, ws) ∧ (⟨0, 21, 0, 0x87, 1⟩ : TlbEntry).covers (0x1000 : W64).toNat = true :=
  ⟨_, by decide +kernel, by decide +kernel, by decide, by decide, Prod.ext (by decide +kernel) rfl, by decide +kernel⟩
theorem witness_walk_absent : ∃ ws, let s := walking (walk0 false false 0x400) (.walk 0x400000 0 0x70000000 .core)
    (s.die 0).walks.find? (fun x => x.page = 0x400 ∧ !x.queued ∧ !x.asked) = some (walk0 false false 0x400)
      ∧ s.walk 0 (4096 * 0x400) = (.stop .pageNotPresent 1 0 none, ws) ∧ (0x400000 : W64).toNat / 4096 = 0x400 ∧ s.attached = true :=
  ⟨_, by decide +kernel, Prod.ext (by decide +kernel) rfl, by decide, rfl⟩
theorem witness_walk_alone : ∀ j u va kind word who, (walking (walk0 false false 1) (.walk 0x1000 0 0x70000000 .core)).thread? ⟨0, 0, 0⟩ j = some u →
    u.wait = .walk va kind word who → u.pc = t0.pc ∧ u.peal = t0.peal ∧ Machine.accOf kind = Machine.accOf 0 := by
  intro j u va kind word who h hw
  have hc : (walking (walk0 false false 1) (.walk 0x1000 0 0x70000000 .core)).crew? ⟨0, 0, 0⟩
      = some { c0 with threads := [{ t0 with wait := .walk 0x1000 0 0x70000000 .core }] } := rfl
  unfold State.thread? at h
  rw [hc] at h
  match j, h with
  | 0, h => obtain rfl := Option.some.inj h; cases hw; exact ⟨rfl, rfl, rfl⟩
  | n + 1, h => exact absurd h (by simp)
theorem witness_paging : let s := walking (walk0 false true 0x400) (.pageFault 0 0x400000 0 0 none false)
    (s.die 0).walks.any (fun w => w.page = 0x400 ∧ w.asked ∧ !w.toHost) = true ∧ s.globalWf = true
      ∧ s.thread? ⟨0, 0, 0⟩ 0 = some { t0 with wait := .pageFault 0 0x400000 0 0 none false } ∧ homeOf 0x103010 = some 0 ∧ 0x103010 % 8 = 0
      ∧ s.mapsQuarantined 0x200007 (s.askedLevel 0 0x400) = false ∧ s.pinnedAt 0x103010 = false ∧ (0x200007#64 : W64).getLsbD 3 = false := by decide +kernel

/-- LaunchPacketsAndRecords: a caller, and a parked thread whose record went to the caller's stage. -/
def ticket0 : Ticket := ⟨9, .stage ⟨0x4000, 0⟩, 0, 0, 8, 0x4000, some .breakpoint⟩
def caller : Thread := thr [9, 1]
def parked : Crew := { crewOf [{ t0 with wait := .faultDomain 9 }] with place := ⟨0, 0, 1⟩, uid := 8 }
def disposing : State := { worldOf [crewOf [caller], parked] id with tickets := [ticket0] }
theorem witness_refused_disposition : ∀ x ∈ (world [caller]).tickets, x.ticket ≠ caller.v 0 := by decide +kernel
theorem witness_parked : ParkedUnder disposing ticket0 parked { t0 with wait := .faultDomain 9 } :=
  ⟨by decide +kernel, by decide +kernel, by decide +kernel, rfl, by decide +kernel, by decide +kernel, by decide +kernel, rfl, rfl⟩
theorem witness_disposition : Alone disposing (crewOf [caller]) 0 caller ∧ ticket0.ticket = caller.v 0
    ∧ ticket0.dest = .stage (crewOf [caller]).at_ ∧ ¬ (parked.place = disposing.cur.place ∧ ticket0.tid = 0) ∧ (caller.v 1).toNat ≤ 1 :=
  ⟨⟨rfl, rfl, rfl, rfl⟩, by decide +kernel, rfl, by decide, by decide +kernel⟩
def packetBytes (stage count : Nat) : List W8 := leBytes 8 0x4000 ++ leBytes 8 0x1000 ++ leBytes 8 0x1100 ++ leBytes 2 stage ++ leBytes 2 count ++ zeros 4
def ring (base : W64) (l : List W8) : State :=
  let s := worldOf [crewOf [tQ]] id
  { s with
    regions := [queues], mem := Memory.writeL (Memory.writeL [] 0x2000 l) 0x1008 [1, 0, 1, 0], die0 := { s.die0 with tlb := [page0] }
    host := { s.host with sqbase := base, sqctl := 1, sqtail := 1 } }
theorem witness_unread_packet : ∃ s1, (ring 0x8000000000 []).takesPackets = true ∧ (ring 0x8000000000 []).readPacket = (none, s1) :=
  ⟨_, by decide +kernel, isAnswer (by decide +kernel)⟩
/-- What a packet's checks find, and that its head is read. -/
def judged (stage count : Nat) : Verdict :=
  match (ring 0x2000 (packetBytes stage count)).readPacket with
  | (some p, s) => (s.judgePacket p).1
  | (none, _) => .status 99
theorem witness_packet_statuses : judged 9 1 = .status 2 ∧ judged 0 9 = .status 3 ∧ judged 5 1 = .status 6 := by decide +kernel
theorem witness_packet_unread : ((({ ring 0x2000 [] with die0 := State.reset.die0 } : State).fwRead (schedulerOf 0) true 0x1000 32).1.toOption).isNone = true := by
  decide +kernel
theorem witness_packet_records : (match judged 0 2 with
    | .records d rs => decide (d = desc0) && decide (rs.length = 2)
    | .status _ => false) = true := by decide +kernel
theorem witness_packet_start : (ring 0x2000 (packetBytes 0 2)).launching = none ∧ judged 4 2 = .status 3
    ∧ (match (({ ring 0x2000 [] with mem := [] } : State).judgePacket (Packet.ofBytes (packetBytes 4 1))).1 with
      | .status n => n == 7
      | _ => false) = true := by decide +kernel
def packet1 (stage : Nat) (forwarded : Bool) : Launching := ⟨⟨0x4000, stage⟩, [zeros 16], 0x1100, 0, forwarded⟩
def inProgress (stage : Nat) (forwarded : Bool) : State :=
  { ring 0x2000 [] with launching := some (packet1 stage forwarded), transit := [⟨⟨0x4000, 2⟩, [], none, false⟩] }
theorem witness_packet_waits : (inProgress 0 false).takesPackets = true ∧ (inProgress 0 false).killed 0x4000 = false
    ∧ (inProgress 0 false).stage? ⟨0x4000, 0⟩ = some (stageOf desc0 [record0]) ∧ (inProgress 0 false).globalWf = true
    ∧ (inProgress 2 true).transit.find? ((inProgress 2 true).arrived 1) = some ⟨(packet1 2 true).at_, [], none, false⟩
    ∧ (inProgress 2 true).stage? ⟨0x4000, 2⟩ = some (stageOf { desc0 with die := 1 } []) := by decide +kernel
theorem witness_packet_far : (match judged 2 1 with
    | .records d _ => d.die == 1
    | .status _ => false) = true := by decide +kernel
theorem witness_packet_room : desc0.persistent = false ∧ desc0.paired = false
    ∧ 2 ≤ desc0.capacity - (stageOf desc0 [record0]).queue.length
    ∧ desc0.capacity - (stageOf desc0 [record0, record0, record0, record0]).queue.length < 1 := by decide
theorem witness_packet_persistent : (match judged 4 1 with
    | .records d rs => d.persistent && decide (rs.length = 1)
    | .status _ => false) = true := by decide +kernel
theorem witness_packet_host : (ring 0x2000 []).host.sqsize.toNat ≤ 16 ∧ (ring 0x2000 []).globalWf = true := by decide +kernel
theorem witness_region_status : ((ring 0x2000 []).openRegion 0x4001).1 = none ∧ ((ring 0x2000 []).openRegion 0x4000).1.isSome = true := by
  decide +kernel
theorem witness_killed : ¬ ∀ q ∈ ({ ring 0x2000 [] with kills := [0x4000] } : State).lineage 10 0x4000, q ∉ [0x4000] := by
  decide +kernel
theorem witness_not_killed : ∀ q ∈ (ring 0x2000 []).lineage 10 0x4000, q ∉ (ring 0x2000 []).kills := by decide +kernel
def out0 (d : Dest) : Outgoing := ⟨0, d, zeros 64⟩
def sending (d : Dest) : State :=
  let s := world [t0]
  { s with outgoing := [out0 d], host := { s.host with rings := List.replicate 3 ⟨0x1000, 0x108, 3, 0⟩ } }
theorem witness_ring_write : (sending (.ring 1)).outgoing.find? (fun o => o.dest = .ring 1) = some (out0 (.ring 1))
    ∧ (sending (.ring 1)).ringRoom 1 = true ∧ s0.ringRoom 1 = false := by decide +kernel
theorem witness_append : (sending (.stage ⟨0x4000, 0⟩)).deliverable 0 = (out0 (.stage ⟨0x4000, 0⟩), ⟨0x4000, 0⟩) :: []
    ∧ (sending (.stage ⟨0x4000, 0⟩)).stage? ⟨0x4000, 0⟩ = some (stageOf desc0 []) := by decide +kernel

/-- RegisterWrites. -/
theorem witness_host_writes : [(1, 0x1000, 8), (1, 0x1008, 4), (1, 0x3000, 8), (1, 0x200C, 4), (2, 0x100000, 4), (1, 0x4000, 8), (1, 0x4014, 4), (1, 0x1014, 4),
    (1, 0x100C, 4), (1, 0x2008, 4), (1, 0x2048, 4), (1, 0x3014, 4)].all (fun x => decide (regTarget x.2.1 = some x.1)
      && s0.admits 0 x.1 hostFunction .write x.2.1 x.2.2) = true ∧ s0.hostReaches = true ∧ State.reset.hostReaches = false := by decide +kernel
theorem witness_host_rules : (hostRegisterRule s0.host 0x1000 8 0x100).isSome = true ∧ (hostRegisterRule s0.host 0x1008 4 7).isSome = true := by
  decide +kernel
theorem witness_mailbox_status : s0.mailbox.status.toNat % 256 ≠ 1 ∧ (({ State.reset with
    mailbox := { Mailbox.reset with status := 1 } } : State).mailbox.status.toNat % 256 = 1) := by decide
theorem witness_management : s0.admits 0 1 ⟨0, 118, 0, none⟩ .write 0x4000 8 = true ∧ s0.admits 0 1 ⟨0, 118, 0, none⟩ .write 0x4014 4 = true
    ∧ s0.admits 0 3 (managementOf 0) .write 0x8000 8 = true ∧ s0.admits 0 3 (managementOf 0) .write 0xA000 4 = true
    ∧ ((s0.die 0).scan.lut.map Prod.fst).Pairwise (· < ·) := by decide +kernel
theorem witness_not_admitted : regTarget 0x1000 = some 1 ∧ State.reset.admits 0 1 hostFunction .write 0x1000 8 = false := by decide +kernel
theorem witness_sqctl : (1 : W32).getLsbD 0 = true ∧ s0.host.sqctl.getLsbD 0 = false
    := by decide

/-- MailboxCommands. -/
def command (code : Nat) (args : List (Nat × List W8)) : State :=
  let s := mapped c0
  { s with mailbox := { Mailbox.reset with
      cmd := BitVec.ofNat 32 code, status := 1, args := args.foldl (fun m x => Memory.writeL m x.1 x.2) [] } }
theorem witness_command (code : Nat) (h : code < 256) : (command code []).mailbox.status.toNat % 256 = 1
    ∧ (command code []).mailbox.cmd.toNat % 256 = code ∧ Memory.wf (command code []).mailbox.result = true := by
  refine ⟨by rfl, ?_, by rfl⟩
  show (BitVec.ofNat 32 code).toNat % 256 = code
  simp; omega
theorem witness_dispose_none : ∀ x ∈ (command 1 []).tickets, x.ticket.toNat ≠ (command 1 []).argWord 0 := by decide +kernel
def toRing : Ticket := { ticket0 with dest := .ring 1 }
def disposed (action : Nat) : State :=
  let s := command 1 [(0, leBytes 4 9), (4, leBytes 4 action)]
  { s with crews := [parked], tickets := [toRing] }
theorem witness_dispose : ParkedUnder (disposed 1) toRing parked { t0 with wait := .faultDomain 9 } :=
  ⟨by decide +kernel, by decide +kernel, by decide +kernel, rfl, by decide +kernel, by decide +kernel, by decide +kernel, rfl, rfl⟩
theorem witness_dispose_args : toRing.ticket.toNat = (disposed 1).argWord 0 ∧ (disposed 1).argWord 4 ≤ 1 ∧ toRing.dest = .ring 1 := by
  decide +kernel
theorem witness_pagereply_bad : 1 < (command 2 [(8, leBytes 4 2)]).argWord 8 := by decide +kernel
def pageAsked : State :=
  let s := command 2 [(0, leBytes 8 0x400000)]
  { s with crews := [{ c0 with threads := [{ t0 with wait := .pageFault 0 0x400000 0 0 none true }] }]
           die0 := { s.die0 with walks := [{ walk0 false true 0x400 with toHost := true }] } }
theorem witness_pagereply : pageAsked.argWord 8 = 0 ∧ pageAsked.argWord 12 = 0
    ∧ pageAsked.thread? ⟨0, 0, 0⟩ 0 = some { t0 with wait := .pageFault 0 0x400000 0 0 none true }
    ∧ (0x400000 : W64).toNat / 4096 = pageAsked.argVa 0 % 2 ^ 57 / 4096
    ∧ ((pageAsked.die 0).walks.any fun w => decide (w.page = pageAsked.argVa 0 % 2 ^ 57 / 4096) && w.asked && w.toHost) = true := by decide +kernel
def queueArgs : List (Nat × List W8) := [(0, leBytes 4 0), (4, leBytes 8 0x4000), (12, leBytes 4 0), (16, leBytes 4 0), (20, leBytes 8 0x1000), (28, leBytes 4 1)]
def queueCommand (code : Nat) (frozen : Bool) : State :=
  let s := command code queueArgs
  { s with regions := [{ queues with eff := { eff0 with maxcols := 4 } }], crews := [crewOf [tQ]], die0 := { s.die0 with frozen } }
theorem witness_mailbox_queue (frozen : Bool) : let s := queueCommand 5 frozen
    s.stage? ⟨s.argVa 4, s.argWord 12⟩ = some (stageOf desc0 [record0]) ∧ desc0.die = s.argWord 0 ∧ (s.die 0).frozen = frozen := by
  cases frozen <;> decide +kernel
theorem witness_drain_queue : 16 ≤ desc0.recsize ∧ (∀ r ∈ (stageOf desc0 [record0]).queue, r.bytes.length = desc0.recsize)
    ∧ (queueCommand 5 true).crews.any (fun c => c.at_.rcb = 0x4000) = true := by decide +kernel
theorem witness_qlaunch : ∃ l s1, let s := queueCommand 6 true
    s.fwRead (managementOf 0) true (s.argVa 20) (s.argWord 28 * desc0.recsize) = (.ok l, s1) ∧ decide (l.length = 16) = true := okWith (by decide +kernel)
theorem witness_qlaunch_checks : let s := queueCommand 6 true
    s.fatal = none ∧ desc0.nbind = 0 ∧ s.argWord 16 < 104 ∧ 0 < s.argWord 28 ∧ s.argWord 28 ≤ desc0.crewsize
      ∧ (∀ q ∈ s.lineage 10 0x4000, q ∉ s.kills) ∧ s.depthAbove 16 0x4000 ≤ 8 ∧ s.usable 0 0 = true
      ∧ s.fits desc0 1 (s.onColumn 0 0) = true ∧ s.mayHave 0 0x4000 [] 0 = true
      ∧ (s.fwRead (managementOf 0) true (s.argVa 20) (s.argWord 28 * desc0.recsize)).2.freeNumber 0x4000 = some 1 := by decide +kernel
theorem witness_report_args : 1 < (command 7 [(0, leBytes 4 2)]).argWord 0 ∧ (command 8 []).argWord 0 ≤ 1 ∧ (command 8 []).argWord 4 < 104
    ∧ 104 ≤ (command 8 [(4, leBytes 4 104)]).argWord 4 ∧ ((command 8 []).col 0 0).fenced = false := by decide +kernel
theorem witness_loadcode_refused : ∃ s1, (command 11 []).loadCode 1 0 0 = (.refused, s1) := ⟨_, rfl⟩

/-- HostAccesses. -/
theorem witness_bar2 (k : AccKind) (h : s0.devDenied hostFunction k 0x1000 4 0 = none) : Bar2Open s0 0x1000 4 k 0x1000 0 :=
  ⟨by decide +kernel, by decide, by decide, by decide, by decide, h⟩
theorem witness_bar2_allowed : s0.devDenied hostFunction .read 0x1000 4 0 = none ∧ s0.devDenied hostFunction .write 0x1000 4 0 = none
    ∧ s0.devDenied hostFunction .atomic 0x1000 4 0 = none ∧ s0.poisoned 0x1000 4 = false ∧ s0.globalWf = true ∧ s0.hostReaches = true := by
  decide +kernel
theorem witness_bar0 : regTarget 0x1000 = some 1 ∧ s0.admits 0 1 hostFunction .read 0x1000 8 = true
    ∧ State.reset.admits 0 1 hostFunction .read 0x1000 8 = false := by decide +kernel
theorem witness_atomicop : atomicOpRule 4 5 (.fetchAdd 1) = some 6 ∧ atomicOpRule 8 5 (.swap 1) = some 1 ∧ atomicOpRule 4 5 (.cas 5 1) = some 1 := by
  decide
theorem witness_atomic_turned_away : (5 : Nat) ≠ 4 ∧ (5 : Nat) ≠ 8 ∧ 0x1002 % 4 ≠ 0 := by decide
/-- What a detachment drops: a thread's store and an entry of ring 0. -/
theorem witness_dropped : ([.store 64 [1] 9 2, .entry 0 0x1000 [] 3, .msi 4] : List Posted).map countedDrop = [true, true, false]
    ∧ ([.store 64 [1] 9 2, .entry 0 0x1000 [] 3, .msi 4] : List Posted).map fencedDrop = [true, false, false] := by decide
theorem witness_bar2_outside : 2 ^ 36 < (2 ^ 36 - 1) + 2 := by decide
theorem witness_no_transfers : (s0.cols.all fun k => decide (k.transfers = [])) = true := by decide +kernel
def dependent : State := { s0 with regions := [{ region0 with eff := { eff0 with hostDependent := true } }] }
theorem witness_detach : dependent.attached = true ∧ dependent.crew? ⟨0, 0, 0⟩ = some c0 ∧ c0.present.getLsbD 0 = true
    ∧ (dependent.eff c0.at_.rcb).hostDependent = true := by decide +kernel

/-- DisplayAndSensor. -/
def packet0 : SensorPacket := ⟨64, true, .gazeOrPose ⟨[1, 2, 3, 4], [5, 6, 7], [8, 9, 10, 11]⟩⟩
theorem witness_packet : 8 ≤ packet0.length ∧ packet0.length ≤ 256 ∧ packet0.crcGood = true
    ∧ (⟨64, true, .unknown⟩ : SensorPacket).kind = .unknown ∧ ∀ r ∈ s0.regions, r.eff.genlist = 0 := by decide +kernel
def listening : State :=
  let s := world [t0]
  { s with regions := [{ region0 with eff := { eff0 with genlist := 0x1000, gencount := 1 } }], mem := Memory.writeL [] 0x1000 (leBytes 8 0x1100)
           die0 := { s.die0 with tlb := [page0] } }
def poseOf (s : State) : Pose := ⟨s.die0.pose.seq + 2, BitVec.ofNat 64 s.ns, [1, 2, 3, 4], [5, 6, 7], [8, 9, 10, 11]⟩
def posed (s1 : State) : State := { s1.modDie 0 (fun d => { d with pose := poseOf listening }) with store := s1.store + 1 }
theorem witness_generation : ∃ s1 s2, listening.generationWords = (some [0x1100], s1)
    ∧ (posed s1).checkNow sensorLink true (BitVec.ofNat 64 0x1100) 4 .atomic = (.device 0x1100 0 page0, s2) ∧ s2.poisoned 0x1100 4 = false
    ∧ listening.hostOut = [] ∧ listening.globalWf = true :=
  ⟨_, _, isAnswer (by decide +kernel), isAnswer (by decide +kernel), by decide +kernel, by decide, by decide +kernel⟩
theorem witness_generation_denied : ∃ s1, let s : State := { listening with die0 := { listening.die0 with access := [] } }
    s.generationWords = (none, s1) := ⟨_, isAnswer (by decide +kernel)⟩
theorem witness_pose_send : let s : State := { State.reset with die0 := { Die.reset with poseSend := [(Pose.reset, 3)] } }
    s.die0.poseSend = (Pose.reset, 3) :: [] ∧ s0.die0.poseSend = [] := ⟨rfl, rfl⟩
def showing (p : W64) (e : TlbEntry) : State :=
  let s := world [t0]
  { s with die0 := { s.die0 with tlb := [e], scan := { ScanOut.reset with pointer := p } } }
theorem witness_no_frame : (showing 0 page0).fatal = none ∧ (showing 0 page0).die0.scan.pointer = 0 := by decide
theorem witness_frame_error : ∃ b s2, (showing 0x400000 page0).fwRead (scanOutOf 0) true 0x400000 0x2000000 = (.error b, s2) := by
  have h : ((showing 0x400000 page0).fwRead (scanOutOf 0) true 0x400000 0x2000000).1.toOption.isNone = true := by decide +kernel
  generalize hx : (showing 0x400000 page0).fwRead (scanOutOf 0) true 0x400000 0x2000000 = x at h
  obtain ⟨q, s2⟩ := x
  cases q with
  | ok l => exact Bool.noConfusion h
  | error b => exact ⟨b, s2, rfl⟩

/-- ColumnFailures. -/
theorem witness_hang : let s := worldOf [c0] fun k => { k with ops := [opOf (.mzro false 0 3)], hang := 0x100000 }
    (s.col 0 0).ops ≠ [] ∧ 0x100000 ≤ (s.col 0 0).hang ∧ placesDistinct s
      ∧ (∀ k ∈ s.crews, k.place.die = 0 → k.place.col = 0 → (s.eff k.at_.rcb).restartable = false) ∧ c0.tiles ≠ [] :=
  ⟨by decide +kernel, by decide +kernel, List.pairwise_singleton _ _, by decide +kernel, by decide⟩
def stuck : Transfer := { moving with kind := .fill [], idle := 0x100000 }
theorem witness_hang_fill : (∃ t ∈ ((movingWorld stuck).col 0 0).transfers, t.isMatrix = true ∧ 0x100000 ≤ t.idle)
    ∧ ¬ (((s0.col 0 0).ops ≠ [] ∧ 0x100000 ≤ (s0.col 0 0).hang) ∨ ∃ t ∈ (s0.col 0 0).transfers, t.isMatrix = true ∧ 0x100000 ≤ t.idle) :=
  ⟨⟨stuck, by decide +kernel, by decide, by decide⟩, by
    rw [show (s0.col 0 0).transfers = [] by decide +kernel, show (s0.col 0 0).ops = [] by decide +kernel]; simp⟩
theorem witness_resetting : let s := worldOf [c0] fun k => { k with resetting := true }
    (s.col 0 0).resetting = true ∧ ∀ c ∈ s.crews, c.held = [] := by decide +kernel
def migrating (p : Phase) : State :=
  let s := mapped (small p)
  { s with cols := s.cols.modify 1 (fun k => { k with enabled := true }), regions := [{ region0 with eff := { eff0 with maxcols := 4 } }] }
theorem witness_migration : let s := (migrating .running).markHot 0 0
    s.sealable (small .running) = true ∧ (s.col 0 0).fenced = false ∧ s.mayMove [small .running] 0 0 1 = true
      ∧ s.mayMove [small .running] 0 0 2 = false := by decide +kernel
theorem witness_migration_move : let s := migrating (.moving 1)
    s.crew? ⟨0, 0, 0⟩ = some (small (.moving 1)) ∧ s.drained (small (.moving 1)) = true ∧ s.mayMove [small (.moving 1)] 0 0 1 = true := by
  decide +kernel
theorem witness_migration_scratch : let s := { migrating (.moving 1) with
      cols := (migrating (.moving 1)).cols.modify 0 fun k => { k with count := 1, owner := some 0x4000 } }
    s.scratchMoves 0 0 [small (.moving 1)] = some 0x4000 ∧ s.mayMove [small (.moving 1)] 0 0 1 = true := by decide +kernel
def line0 : StackLine := ⟨40, 0, 3, true, none⟩
def fencing : State :=
  let s := worldOf [] id
  { s with die0 := { s.die0 with stack := [line0] } }
theorem witness_fence_column : (fencing.col 0 0).enabled = true ∧ (fencing.col 0 0).fenced = false ∧ fencing.onColumn 0 0 = []
    ∧ (∀ x ∈ (fencing.die 0).stack, x.way < 16) ∧ line0 ∈ (fencing.die 0).stack ∧ line0.bank = 0 ∧ line0.dirty = true
    ∧ line0.line ∈ (⟨.remap, false, [40]⟩ : FenceInfo).badLines := by decide +kernel
theorem witness_fence_crews : let s := { s0 with regions := [{ region0 with eff := { eff0 with restartable := true } }] }
    placesDistinct s ∧ c0 ∈ s.crews ∧ c0.phase ≠ .ended ∧ (s.eff c0.at_.rcb).restartable = true ∧ (s.col 0 0).ops = [] :=
  ⟨List.pairwise_singleton _ _, by decide +kernel, by decide, by decide +kernel, by decide +kernel⟩

/-- PowerAndFatalErrors. -/
theorem witness_fatal : s0.fatal = none ∧ s0.globalWf = true ∧ s0.attached = true ∧ (s0.die 0).frozen = false
    ∧ ({ s0 with die0 := { Die.reset with frozen := true } } : State).die0.frozen = true := by decide +kernel
theorem witness_hot : let s : State := { s0 with ns := 1000000, die0 := { s0.die0 with tcol := 921, hotNs := some 0 } }
    8 * 115 < (s.die 0).tcol.toNat ∧ (s.die 0).hotNs = some 0 ∧ 0 + 1000000 ≤ s.ns ∧ ¬ 8 * 115 < (s0.die 0).tcol.toNat := by decide +kernel
theorem witness_link : (s0.die 0).down[3]? = some ⟨8, [], []⟩ ∧ (⟨0, [grant0], [grant0]⟩ : HalyardLink).flight ≠ [] := by decide +kernel
/-- Which images the boot ROMs accept rests on a fused digest and a verification that nothing can be evaluated about: where
the digest is that of an image's key and the signature verifies, it is accepted. -/
theorem witness_image_accepted (f : FirmwareImage) (hd : digest f.key 64 = Config.fusedDigest 0)
    (hv : Config.mlDsaVerifies f.key (digest f.bytes 64) f.signature = true) : acceptsImage 0 f = true := by
  unfold acceptsImage; rw [hd, hv]; simp

/-- MemoryStaysCanonical. -/
theorem witness_canonical : ∃ s', let s : State := { State.reset with agenda := [.ptsTick] }
    s.globalWf = true ∧ step s = .next s' := ⟨_, by decide, rfl⟩

/-- A page of 1 GiB. -/
def bigPage : TlbEntry := { va := 0, bits := 30, pa := 0, leaf := 0xF#64, level := 2 }
def shown0 : State := showing 0x2000000 bigPage
theorem shown_admits (a : Nat) (h : a < 2 ^ 30) : shown0.admits 0 0 (scanOutOf 0) .read a 1 = true := by
  have hw : ((shown0.die 0).windows 0 ((scanOutOf 0).idAt 0)) = wide0 := by decide +kernel
  have hr : reservedMaster ((scanOutOf 0).idAt 0) = false := by decide +kernel
  unfold State.admits
  rw [hw, hr]
  have e : (wide0.any fun w => windowAdmits w (scanOutOf 0).sub .read a 1) = true := by
    unfold wide0
    rw [List.any_cons]
    have : windowAdmits (0, 0xFFFFFFF1FF#64) (scanOutOf 0).sub .read a 1 = true := by
      unfold windowAdmits
      have h1 : ((0xFFFFFFF1FF#64 &&& 0x000FFFFFFFFFF000#64).toNat) = 0xFFFFFFF000 := by decide
      have h2 : (((0 : W64) &&& 0x000FFFFFFFFFF000#64).toNat) = 0 := by decide
      rw [h1, h2]
      have h3 : ((0xFFFFFFF1FF#64).getLsbD 8 && (0xFFFFFFF1FF#64).getLsbD (3 + (scanOutOf 0).sub)
          && (0xFFFFFFF1FF#64 &&& permMask .read == permMask .read)) = true := by decide
      rw [h3]
      have : decide (0 ≤ a) = true := by simp
      have h5 : decide (a + 1 ≤ 0xFFFFFFF000 + 4096) = true := by simp; omega
      rw [this, h5]; rfl
    rw [this]; rfl
  rw [e]; rfl
theorem shown_check (a : Nat) (h : a < 2 ^ 30) :
    shown0.checkNow (scanOutOf 0) true (BitVec.ofNat 64 a) 1 .read = (.device a 0 bigPage, shown0) := by
  have ha : (BitVec.ofNat 64 a).toNat = a := by simp; omega
  have hp : preCheck (BitVec.ofNat 64 a) 1 .read true = none := by
    unfold preCheck
    rw [ha, if_neg (by omega), if_neg (by omega)]
  have hl : shown0.lookup 0 121 a = .hit bigPage shown0 := by
    have h1 : shown0.l1Hit 0 121 a = none := rfl
    have h2 : shown0.tlbHit 0 a = some bigPage := by
      show [bigPage].find? (fun e => e.covers a) = some bigPage
      have : bigPage.covers a = true := by
        show (a / 2 ^ 30 == 0 / 2 ^ 30) = true
        rw [Nat.div_eq_of_lt h]; rfl
      simp [List.find?, this]
    unfold State.lookup
    rw [h1, h2]; rfl
  have hh : homeOf a = some 0 := by
    unfold homeOf Config.home0 Config.homeEnd0
    rw [if_pos (by omega)]
  have hd : shown0.devGate (scanOutOf 0) .read a 1 0 = (true, shown0) := by
    unfold State.devGate
    rw [if_pos (show (scanOutOf 0).die = 0 from rfl)]
    unfold State.gate
    rw [shown_admits a h]; rfl
  unfold State.checkNow
  rw [hp]
  show (match shown0.lookup 0 121 (BitVec.ofNat 64 a).toNat with
    | .hit e s => s.postCheck (scanOutOf 0) true (BitVec.ofNat 64 a) 1 .read e
    | .miss => _) = _
  rw [ha, hl]
  show shown0.postCheck (scanOutOf 0) true (BitVec.ofNat 64 a) 1 .read bigPage = _
  unfold State.postCheck
  have hq : bigPage.phys a = a := by
    show 0 + a % 2 ^ 30 = a
    omega
  have h0 : ¬ ((AccKind.read = .write ∨ AccKind.read = .atomic) ∧ (!leafWritable bigPage.leaf) = true) := by decide
  have h1 : ¬ (AccKind.read = .fetch ∧ (!leafExec bigPage.leaf) = true) := by decide
  have ht : leafType bigPage.leaf = 0 := by decide
  simp only [ha, hq, if_neg h0, if_neg h1, ht, hh, hd]
theorem shown_pieces (l : List (Nat × Nat)) (h : ∀ x ∈ l, x.1 < 2 ^ 30) (acc : List W8) :
    ∃ r, shown0.piecesRead (scanOutOf 0) true l acc = (.ok r, shown0) := by
  induction l generalizing acc with
  | nil => exact ⟨acc, rfl⟩
  | cons x t ih =>
    obtain ⟨a, n⟩ := x
    have ha : a < 2 ^ 30 := h _ (List.mem_cons_self ..)
    have hp : shown0.pageRead (scanOutOf 0) true a n = (.ok (shown0.bytes .dev a n), shown0) := by
      unfold State.pageRead
      rw [if_neg (by omega), shown_check a ha]
      have : shown0.poisoned a n = false := by
        unfold State.poisoned
        rw [show shown0.poison = [] from rfl]
        simp
      simp only [this, Bool.false_eq_true, if_false]
      rfl
    unfold State.piecesRead
    rw [hp]
    exact ih (fun y hy => h y (List.mem_cons_of_mem _ hy)) _
theorem witness_frame : ∃ l, shown0.fatal = none ∧ shown0.die0.scan.pointer ≠ 0
    ∧ shown0.fwRead (scanOutOf 0) true 0x2000000 0x2000000 = (.ok l, shown0) := by
  obtain ⟨l, hl⟩ := shown_pieces (pagePieces 0x2000000 0x2000000) (by
    intro x hx
    unfold pagePieces pagesOf at hx
    simp only [List.mem_map] at hx
    obtain ⟨p, hp, rfl⟩ := hx
    simp only [List.mem_map, List.mem_range, if_neg (by decide : ¬ (0x2000000 : Nat) = 0)] at hp
    obtain ⟨k, hk, rfl⟩ := hp
    show max 0x2000000 (4096 * (k + 0x2000000 / 4096)) < 2 ^ 30
    omega) []
  exact ⟨l, rfl, by decide, hl⟩

/-- A container of one function in Lygar scalar form, whose signature is left as zeros: where it verifies, its load ends well
(no container can be shown to verify, since nothing can be evaluated about the trust list). -/
def codeBytes : List W8 :=
  leBytes 4 0x4E4C4541 ++ zeros 4 ++ leBytes 8 3589 ++ leBytes 4 1 ++ leBytes 4 128 ++ leBytes 4 192 ++ leBytes 4 1 ++ zeros 32 ++ leBytes 8 280 ++ zeros 56
    ++ (leBytes 4 0 ++ leBytes 4 1 ++ zeros 24 ++ leBytes 8 256 ++ leBytes 4 24 ++ zeros 20)
    ++ [0x66] ++ zeros 63 ++ (leBytes 4 0x4C590001 ++ leBytes 4 1 ++ zeros 8 ++ leBytes 4 0x01000000 ++ zeros 4)
def codeImage : List W8 := codeBytes ++ zeros 3309
def coded : State := { mapped c0 with mem := Memory.writeL tables 0x40000 codeBytes }
theorem coded_header : (coded.fwRead (managementOf 0) true 0x40000 128).1.toOption.any (fun l => decide (fieldAt l 8 8 = 3589)) = true := by
  decide +kernel
theorem look_none (t : List (Nat × W8)) (a : Nat) (h : ∀ e ∈ t, e.1 ≠ a) : look 0 t a = 0 := by
  induction t with
  | nil => rfl
  | cons e t ih =>
    obtain ⟨k, v⟩ := e
    show (if k = a then v else look 0 t a) = 0
    rw [if_neg (h (k, v) (List.mem_cons_self ..)), ih fun e he => h e (List.mem_cons_of_mem _ he)]
theorem tables_elsewhere (a : Nat) (h : 0x40000 ≤ a ∧ a < 0x41000) : Memory.read tables a = 0 := by
  refine look_none _ _ fun e he => ?_
  have := List.all_eq_true.1 (show tables.all (fun e => decide (e.1 < 0x40000 ∨ 0x41000 ≤ e.1)) = true by decide +kernel) e he
  have := of_decide_eq_true this
  omega
theorem coded_bytes : coded.bytes .dev 0x40000 3589 = codeImage := by
  have hl : codeBytes.length = 280 := by decide +kernel
  have hw : Memory.wf tables = true := by decide +kernel
  have hm (l : Memory) : ({ mapped c0 with mem := l } : State).space .dev = l := rfl
  unfold State.bytes coded
  rw [hm]
  apply List.ext_getElem
  · rw [Laws.readN_length]
    unfold codeImage zeros
    rw [List.length_append, List.length_replicate, hl]
  · intro i h1 h2
    rw [Laws.readN_length] at h1
    have e1 := Laws.readN_getD (Memory.writeL tables 0x40000 codeBytes) 3589 0x40000 i h1
    rw [Laws.read_writeL _ _ _ _ hw] at e1
    have e2 : codeImage.getD i 0 = if i < 280 then codeBytes.getD i 0 else 0 := by
      unfold codeImage zeros
      rw [List.getD_eq_getElem?_getD, List.getD_eq_getElem?_getD, List.getElem?_append, hl]
      split
      · rfl
      · rw [List.getElem?_replicate]; split <;> rfl
    have e3 : (if 0x40000 ≤ 0x40000 + i ∧ 0x40000 + i < 0x40000 + codeBytes.length then codeBytes.getD (0x40000 + i - 0x40000) 0
        else Memory.read tables (0x40000 + i)) = codeImage.getD i 0 := by
      rw [e2, hl]
      by_cases hi : i < 280
      · rw [if_pos (by omega), if_pos hi, Nat.add_sub_cancel_left]
      · rw [if_neg (by omega), if_neg hi, tables_elsewhere _ (by omega)]
    rw [e3] at e1
    rw [List.getD_eq_getElem?_getD, List.getD_eq_getElem?_getD, List.getElem?_eq_getElem, List.getElem?_eq_getElem h2] at e1
    exact e1
/-- The module once the header is read. -/
def coded1 : State := (coded.fwRead (managementOf 0) true 0x40000 128).2
theorem coded_check : (coded1.checkNow (managementOf 0) true (BitVec.ofNat 64 0x40000) 1 .read).1 = .device 0x40000 0 ⟨0, 21, 0, 0x87, 1⟩ := by
  decide +kernel
theorem coded_memory : (coded1.checkNow (managementOf 0) true (BitVec.ofNat 64 0x40000) 1 .read).2.mem = coded.mem
    ∧ (coded1.checkNow (managementOf 0) true (BitVec.ofNat 64 0x40000) 1 .read).2.poisoned 0x40000 3589 = false := by decide +kernel
theorem coded_image : (coded1.fwRead (managementOf 0) true 0x40000 3589).1 = .ok codeImage := by
  unfold State.fwRead
  rw [show pagePieces 0x40000 3589 = [(0x40000, 3589)] by decide]
  unfold State.piecesRead State.pageRead
  rw [if_neg (by decide), isAnswer coded_check]
  simp only [coded_memory.2, Bool.false_eq_true, if_false]
  unfold State.piecesRead
  show Except.ok ([] ++ State.bytes _ _ _ _) = _
  rw [List.nil_append, ← coded_bytes]
  unfold State.bytes State.space
  rw [coded_memory.1]
theorem coded_formed : (Container.ofBytes codeImage).malformed codeImage = false := by decide +kernel
def codePlan : LoadPlan := ⟨[(0x50000, leBytes 4 0x01000000)], leBytes 4 1 ++ leBytes 4 4 ++ leBytes 8 0x50000 ++ leBytes 8 2⟩
theorem coded_plan : (Container.ofBytes codeImage).plan codeImage 0x50000 64 = some codePlan := by decide +kernel
theorem coded_leaves : ((coded1.fwRead (managementOf 0) true 0x40000 3589).2.codeLeaves codePlan).any
    (fun l => !(l.any fun x => (coded1.fwRead (managementOf 0) true 0x40000 3589).2.quarantined x.pa 4096))
      = true := by decide +kernel
theorem witness_loadcode_done (h : (Container.ofBytes codeImage).trusted codeImage = true) :
    ∃ r s1, coded.loadCode 0x40000 0x50000 64 = (.done r, s1) := by
  obtain ⟨l1, s1, h1, f1⟩ := okWith coded_header
  obtain ⟨ls, h3, f3⟩ := (Option.any_eq_true _ _).1 coded_leaves
  have h2 : s1.fwRead (managementOf 0) true 0x40000 3589 = (.ok codeImage, (coded1.fwRead (managementOf 0) true 0x40000 3589).2) := by
    have := isAnswer coded_image
    unfold coded1 at this ⊢
    rw [h1] at this ⊢
    exact this
  generalize (coded1.fwRead (managementOf 0) true 0x40000 3589).2 = s2 at h2 h3 f3
  have e1 : fieldAt l1 8 8 = 3589 := of_decide_eq_true f1
  have f3' : ls.any (fun x => s2.quarantined x.pa 4096) = false := by simpa using f3
  refine ⟨codePlan.result, _, isAnswer ?_⟩
  unfold State.loadCode
  rw [if_neg (by decide), h1]
  simp only [e1, h2, coded_formed, h, coded_plan, h3, f3', Bool.not_true, Bool.false_eq_true, or_self, if_false]
  rw [if_neg (by decide)]

end Sys2Proof.Tests
end

section
/-! SUPPORT. Every step keeps device memory and host memory in their canonical form: `Canon` is carried through each function
of the model that gives a state, in the order in which the model defines them, up to `exec` and `step`. -/

namespace Sys2Proof.Laws

open Sys2Proof Sys2Proof.Machine

/-! ### How a state that a function gives keeps the canonical form -/

theorem Canon.after {α : Type} {r : α × State} {a : α} {s : State} (h : Canon r.2) (e : r = (a, s)) : Canon s := by
  subst e
  exact h

/-- A state with the same two memories. -/
theorem Canon.same {s s' : State} (h : Canon s) (e : (s'.mem, s'.hostMem) = (s.mem, s.hostMem)) : Canon s' := by
  obtain ⟨hm, hh⟩ := Prod.mk.inj e
  exact ⟨hm ▸ h.1, hh ▸ h.2⟩

theorem canon_ite {c : Prop} [Decidable c] {s s' : State} (h : Canon s) (h' : Canon s') : Canon (if c then s else s') := by
  split <;> assumption

theorem canon_ite_snd {α : Type} {c : Prop} [Decidable c] {r r' : α × State} (h : Canon r.2) (h' : Canon r'.2) :
    Canon (if c then r else r').2 := by
  split <;> assumption

theorem canon_foldl {β : Type} {s : State} {f : State → β → State} {l : List β} (h : Canon s)
    (hf : ∀ s x, Canon s → Canon (f s x)) : Canon (l.foldl f s) :=
  List.foldlRecOn l f h fun s h x _ => hf s x h

theorem canon_foldl_snd {α β : Type} {r : α × State} {f : α × State → β → α × State} {l : List β} (h : Canon r.2)
    (hf : ∀ r x, Canon r.2 → Canon (f r x).2) : Canon (l.foldl f r).2 :=
  List.foldlRecOn (motive := fun r => Canon r.2) l f h fun r h x _ => hf r x h

/-- What an instruction or a step gives: a state with both memories canonical, if it is a state. -/
def Keeps : Host.Outcome State Fault Refusal → Prop
  | .next s => Canon s
  | _ => True

theorem keeps_next {s : State} (h : Canon s) : Keeps (.next s) := h
theorem keeps_fault {r : Fault} : Keeps (.fault r) := trivial

theorem Keeps.after {o : Host.Outcome State Fault Refusal} (h : Keeps o) (e : o = .next s) : Canon s := by
  subst e
  exact h

theorem keeps_mem_some {f : State → Host.Outcome State Fault Refusal} (h : Keeps (f s)) : ∀ g ∈ some f, Keeps (g s) := by
  rintro g ⟨⟩
  exact h

/-! ### Access -/

theorem canon_pick (h : Canon s) : Canon (s.pick n).2 := canon_ite_snd h h
theorem canon_anyWord (h : Canon s) : Canon s.anyWord.2 := h
theorem canon_anyBytes (h : Canon s) : Canon (s.anyBytes n).2 := h

theorem canon_shuffle {l : List α} (h : Canon s) : Canon (State.shuffle n s l).2 := by
  induction n generalizing s l with
  | zero => exact h
  | succ n ih =>
    cases l with
    | nil => exact h
    | cons x l =>
      unfold State.shuffle
      dsimp only
      split
      · exact canon_pick h
      · exact ih (canon_pick h)

theorem canon_modDie (h : Canon s) : Canon (s.modDie d f) := by
  unfold State.modDie
  split <;> exact h

theorem canon_coreReaches (h : Canon s) : Canon (s.coreReaches d t) := canon_modDie h
theorem canon_modCol (h : Canon s) : Canon (s.modCol d c f) := h
theorem canon_modCrew (h : Canon s) : Canon (s.modCrew p f) := h
theorem canon_modThread (h : Canon s) : Canon (s.modThread p t f) := canon_modCrew h
theorem canon_modRegion (h : Canon s) : Canon (s.modRegion rcb f) := h
theorem canon_modStage (h : Canon s) : Canon (s.modStage a f) := canon_modRegion h

/-- A store into a crew's memory or a scratchpad does not reach the two large ones. -/
theorem canon_store (h : Canon s) : Canon (s.storeBytes sp a l) := by
  cases sp with
  | dev => exact canon_storeBytes s .dev a l h h.1
  | host => exact canon_storeBytes s .host a l h h.2
  | loc u => exact h
  | scr d c => exact h

theorem canon_storeRuns {l : List (Nat × List W8)} (h : Canon s) : Canon (s.storeRuns sp l) :=
  Canon.same (canon_foldl h fun _ r h => (canon_store (sp := sp) (a := r.1) (l := r.2) h).same rfl) rfl
theorem canon_logDenial (h : Canon s) : Canon (s.logDenial d t m k p) := canon_modDie h
theorem canon_gate (h : Canon s) : Canon (s.gate d t m k p n).2 :=
  canon_ite_snd h (canon_ite_snd (canon_ite_snd (canon_logDenial h) h) (canon_logDenial h))

theorem canon_devGate (h : Canon s) : Canon (s.devGate m k p n h').2 := by
  unfold State.devGate
  split
  · exact canon_gate h
  split
  · exact canon_gate ((canon_gate h).after ‹_›)
  · exact (canon_gate h).after ‹_›

theorem canon_logWalk (h : Canon s) : Canon (s.logWalk die denied) := by
  unfold State.logWalk
  split
  · exact canon_logDenial h
  · exact h

theorem canon_install (h : Canon s) : Canon (s.install die e ws) := canon_modDie h

theorem canon_installL1 (h : Canon s) : Canon (s.installL1 die col e) := by
  unfold State.installL1
  split
  · exact h
  · exact canon_modCol h

theorem canon_lookup (h : Canon s) (e : s.lookup die col va = .hit x s') : Canon s' := by
  unfold State.lookup at e
  split at e
  · cases e
    exact h
  split at e
  · cases e
    exact canon_installL1 h
  · cases e

theorem canon_postCheck (h : Canon s) : Canon (s.postCheck m engine va size k e).2 := by
  unfold State.postCheck
  dsimp only
  split
  · exact h
  split
  · exact h
  split
  · split <;> exact (canon_gate h).after ‹_›
  · split
    · exact h
    split
    · exact h
    split
    · exact h
    split
    · split
      · exact h
      · split <;> exact (canon_gate h).after ‹_›
    · exact h
  split
  · exact h
  · split <;> exact (canon_devGate h).after ‹_›

theorem canon_check (h : Canon s) : Canon (s.check p tid va size k sub).2 := by
  unfold State.check
  split
  · exact h
  split
  · exact h
  · exact canon_postCheck (canon_lookup h ‹_›)

theorem canon_noteMiss (h : Canon s) : Canon (s.noteMiss m va) := by
  unfold State.noteMiss
  dsimp only
  split <;> exact h

theorem canon_checkNow (h : Canon s) : Canon (s.checkNow m engine va size k).2 := by
  unfold State.checkNow
  dsimp only
  split
  · exact h
  split
  · exact canon_postCheck (canon_lookup h ‹_›)
  split
  · exact canon_logWalk (canon_noteMiss h)
  · exact canon_postCheck (canon_installL1 (canon_install (canon_noteMiss h)))

theorem canon_setStamp (h : Canon s) : Canon (s.setStamp line wts rts) := h
theorem canon_writeParts (h : Canon s) : Canon (s.writeParts a n) := h

theorem canon_useBank (h : Canon s) : Canon (s.useBank d bank) := by
  unfold State.useBank
  dsimp only
  split
  · exact h
  · split <;> exact h

theorem canon_fillStack (h : Canon s) : Canon (s.fillStack d line eligible dirty) := by
  unfold State.fillStack
  dsimp only
  split
  · exact canon_useBank h
  · split <;> exact canon_modDie (canon_useBank h)

theorem canon_touch (h : Canon s) : Canon (s.touch d line write eligible streaming) := by
  unfold State.touch
  split
  · exact canon_modDie h
  extract_lets filled mates s1
  have hfilled : Canon filled := canon_ite h (canon_fillStack h)
  refine canon_modDie (canon_ite ?_ hfilled)
  split
  · exact canon_ite (canon_fillStack (canon_modDie hfilled)) (canon_modDie hfilled)
  · exact hfilled

theorem canon_grantLease (h : Canon s) : Canon (s.grantLease line pts).2 := canon_setStamp h

theorem canon_lineFill (h : Canon s) : Canon (s.lineFill die pts line eligible streaming).2 := by
  unfold State.lineFill
  dsimp only
  split
  · exact canon_touch (canon_grantLease h)
  split
  · exact canon_modDie h
  · exact canon_touch (canon_modDie (canon_grantLease h))

theorem canon_devLoad (h : Canon s) : Canon (s.devLoad die col pts a n e).2.2 := by
  unfold State.devLoad
  dsimp only
  split
  · split
    · exact h
    split
    · exact canon_pick h
    · exact canon_grantLease (canon_pick h)
  · exact canon_modCol (canon_lineFill h)

theorem canon_devStoreBy (h : Canon s) (hf : ∀ s, Canon s → Canon (f s)) : Canon (s.devStoreBy pts line f e).2 :=
  canon_touch (canon_modDie (canon_modDie (canon_setStamp (hf _ h))))
theorem canon_devStore (h : Canon s) : Canon (s.devStore pts a l e).2 :=
  canon_devStoreBy h fun _ h => canon_store h

theorem canon_transmit (h : Canon s) : Canon (s.transmit p) := by
  cases p with
  | store a l => exact ⟨h.1, wf_writeL l _ a h.2⟩
  | sector rs =>
    exact ⟨h.1, List.foldlRecOn (motive := fun m => Memory.wf m = true) rs _ h.2 fun m hm r _ =>
      wf_writeL r.2 m r.1 hm⟩
  | entry k a l => exact ⟨h.1, wf_writeL l _ a h.2⟩
  | msi v => exact h

theorem canon_drainOut (h : Canon s) : Canon s.drainOut :=
  canon_foldl h fun _ _ h => canon_transmit h

theorem canon_useSpace (h : Canon s) : Canon (s.useSpace sp) := by
  unfold State.useSpace
  split
  · exact canon_useBank h
  · exact h

theorem canon_passLoad (h : Canon s) : Canon (s.passLoad sp a n pts).2 :=
  canon_foldl_snd (canon_useSpace h) fun _ _ h => h
theorem canon_passStore (h : Canon s) : Canon (s.passStore sp a n pts).2 := canon_useSpace h
theorem canon_countDetread (h : Canon s) : Canon s.countDetread := h

theorem canon_hostStore (h : Canon s) : Canon (s.hostStore a l agent) := by
  unfold State.hostStore
  split <;> exact h

theorem canon_hostSector (h : Canon s) : Canon (s.hostSector runs' agent) := h
theorem canon_hostLoad (h : Canon s) : Canon (s.hostLoad a n).2 :=
  canon_ite_snd (canon_drainOut h) (canon_countDetread h)

theorem canon_sendMsi (h : Canon s) : Canon (s.sendMsi v) := by
  unfold State.sendMsi
  split <;> exact h

/-! ### Registers -/

theorem canon_wakeWhere (h : Canon s) : Canon (s.wakeWhere inCrew w f) := h
theorem canon_napEvent (h : Canon s) : Canon (s.napEvent die k pts) := canon_wakeWhere h
theorem canon_modRing (h : Canon s) : Canon (modRing k f s) := h

theorem canon_writeTail (h : Canon s) : Canon (s.writeTail v) := by
  unfold State.writeTail
  split <;> exact h

theorem canon_writeSqctl (h : Canon s) : Canon (s.writeSqctl v) := by
  unfold State.writeSqctl
  dsimp only
  split
  · exact canon_napEvent h
  · exact h

theorem canon_writeRsize (h : Canon s) : Canon (s.writeRsize k v) := by
  unfold State.writeRsize
  split
  · exact canon_modRing h
  · exact h

theorem canon_writeDetack (h : Canon s) : Canon s.writeDetack := h

theorem canon_writeApbase (h : Canon s) : Canon (s.writeApbase v) := by
  unfold State.writeApbase
  split <;> exact h

theorem canon_writeSqbase (h : Canon s) : Canon (s.writeSqbase v) := by
  unfold State.writeSqbase
  split <;> exact h

theorem canon_writePointer (h : Canon s) : Canon (s.writePointer d v) := canon_modDie h
theorem canon_writeLut (h : Canon s) : Canon (s.writeLut d k vs) := canon_modDie h
theorem canon_writeAccess (h : Canon s) : Canon (s.writeAccess d t m ws) :=
  canon_modDie (canon_coreReaches h)
theorem canon_writeWindow (h : Canon s) : Canon (s.writeWindow d off f) := canon_writeAccess h

theorem canon_writeCmd (h : Canon s) : Canon (s.writeCmd v) := by
  unfold State.writeCmd
  dsimp only
  split
  · exact h
  split
  · exact h
  · exact canon_sendMsi h

theorem canon_write32 (h : Canon s) : Canon (s.write32 m d off v) := by
  unfold State.write32
  refine canon_ite (canon_ite (canon_writeLut h) h) ?_
  refine canon_ite (canon_ite (canon_writeWindow h) h) ?_
  refine canon_ite (canon_ite (canon_modDie h) h) ?_
  refine canon_ite (canon_ite (canon_modDie h) h) ?_
  refine canon_ite (canon_ite (canon_writePointer h) h) ?_
  refine canon_ite h (canon_ite (canon_writeSqbase h) (canon_ite (canon_ite h h) ?_))
  refine canon_ite (canon_writeSqctl h) (canon_ite (canon_writeTail h) (canon_ite ?_ ?_))
  · split
    · exact canon_modRing h
    · exact canon_modRing h
    · exact canon_writeRsize h
    · exact canon_modRing h
    · exact h
  · exact canon_ite (canon_writeApbase h) (canon_ite (canon_writeDetack h)
      (canon_ite h (canon_ite (canon_writeCmd h) (canon_ite h h))))

theorem canon_write64 (h : Canon s) : Canon (s.write64 m d off v) := by
  unfold State.write64
  split
  · split
    · exact canon_modDie h
    · exact h
  split
  · split
    · exact canon_writePointer h
    · exact h
  split
  · split
    · exact canon_writeWindow h
    · exact h
  split
  · exact canon_writeSqbase h
  split
  · exact canon_writeApbase h
  split
  · split
    · exact canon_writeLut h
    · exact h
  · exact canon_write32 (canon_write32 h)

theorem canon_regWrite (h : Canon s) : Canon (s.regWrite m d off l) := by
  unfold State.regWrite
  split
  · exact canon_write64 h
  · exact canon_write32 h

/-! ### Ops -/

theorem canon_finish (h : Canon s) : Canon (s.finish tid) := by
  unfold State.finish
  split
  · exact h
  · exact canon_modThread h

theorem canon_perThread (h : Canon s) : Canon (s.perThread f) := by
  unfold State.perThread
  split
  · exact h
  · exact canon_modCrew h

theorem canon_inOrder (h : Canon s) (hf : ∀ s x1, Canon s → Canon (f s x1)) : Canon (s.inOrder f) :=
  canon_foldl h hf
theorem canon_inAnyOrder (h : Canon s) (hf : ∀ s x1, Canon s → Canon (f s x1)) : Canon (s.inAnyOrder f) :=
  canon_foldl (canon_shuffle h) hf

theorem canon_withThread (h : Canon s) (hf : ∀ x0 x1, Canon (f x0 x1)) : Canon (s.withThread tid f) := by
  unfold State.withThread
  split
  · exact h
  split
  · exact h
  · exact hf _ _

theorem canon_park (h : Canon s) : Canon (s.park p tid w) := canon_modThread h
theorem canon_newTicket (h : Canon s) : Canon (s.newTicket d).2 := canon_modDie h
theorem canon_sendRecord (h : Canon s) : Canon (s.sendRecord r dest uid) := h

theorem canon_crewRecord (h : Canon s) : Canon (s.crewRecord c cause rkind index ebad syn entry reply) := by
  unfold State.crewRecord
  exact canon_sendRecord (canon_ite_snd (canon_newTicket h) h)

theorem canon_dropRequest (h : Canon s) : Canon (s.dropRequest c tid t) := by
  unfold State.dropRequest
  split
  · exact canon_modCol h
  · exact h

theorem canon_faultTo (h : Canon s) : Canon (s.faultTo p tid b word dest at_') := by
  unfold State.faultTo
  split
  · exact h
  split
  · exact h
  · exact canon_sendRecord (canon_modCrew (canon_newTicket (canon_dropRequest h)))

theorem canon_fault (h : Canon s) : Canon (s.fault p tid b word) := canon_faultTo h

theorem canon_faultBehind (h : Canon s) : Canon (s.faultBehind uid tid b pc word) := by
  unfold State.faultBehind
  split
  · exact h
  split
  · exact canon_faultTo h
  · exact h

theorem canon_askPageFor (h : Canon s) : Canon (s.askPageFor die page master rcb engine b waiters).2 :=
  canon_ite_snd h (canon_ite (canon_modDie h) (canon_modDie h))
theorem canon_askPage (h : Canon s) : Canon (s.askPage die page master rcb engine b).2 :=
  canon_askPageFor h

theorem canon_pageFault (h : Canon s) : Canon (s.pageFault p tid b word) := by
  unfold State.pageFault
  dsimp only
  split
  · exact canon_modThread (canon_askPage h)
  · exact canon_fault (canon_askPage h)

theorem canon_queueWalkFor (h : Canon s) : Canon (s.queueWalkFor die col rcb va k engine n) :=
  canon_modDie h
theorem canon_queueWalk (h : Canon s) : Canon (s.queueWalk p va k engine) := canon_queueWalkFor h
theorem canon_setPts (h : Canon s) : Canon (s.setPts p tid n) := canon_modThread h
theorem canon_walkPark (h : Canon s) : Canon (s.walkPark p tid m k word who) :=
  canon_modThread (canon_setPts h)
theorem canon_walkGroup (h : Canon s) : Canon (s.walkGroup p tids va k word who start) :=
  canon_foldl (canon_queueWalk h) fun _ _ h => canon_walkPark h
theorem canon_walkWait (h : Canon s) : Canon (s.walkWait p tid va k word who start) :=
  canon_walkGroup h
theorem canon_seeLines (h : Canon s) : Canon (s.seeLines p tid sp a n) :=
  canon_setPts (canon_foldl_snd (canon_useSpace h) (fun _ _ h => h))
theorem canon_markLines (h : Canon s) : Canon (s.markLines p tid sp a n) :=
  canon_setPts (canon_useSpace h)
theorem canon_seeLocal (h : Canon s) : Canon (s.seeLocal c tid a n) := canon_seeLines h
theorem canon_markLocal (h : Canon s) : Canon (s.markLocal c tid a n) := canon_markLines h

theorem canon_loadOk (h : Canon s) : Canon (s.loadOk p tid va n k).2 := by
  unfold State.loadOk
  split
  · exact canon_ite_snd h (canon_setPts (canon_devLoad h))
  · split
    · exact canon_seeLines ((canon_hostLoad h).after ‹_›)
    · exact (canon_hostLoad h).after ‹_›
  · exact canon_setPts h
  · exact h
  · exact h

theorem canon_storeOk (h : Canon s) : Canon (s.storeOk p tid va l k).2 := by
  unfold State.storeOk
  split
  · exact canon_ite_snd h (canon_setPts (canon_ite (canon_writeParts (canon_devStore h)) (canon_devStore h)))
  · exact canon_markLines (canon_hostStore h)
  · exact canon_setPts (canon_regWrite h)
  · exact h
  · exact h

theorem canon_stackLoad (h : Canon s) : Canon (s.stackLoad p tid a n).2 := by
  unfold State.stackLoad
  split
  · exact (canon_check h).after ‹_›
  · split <;> exact (canon_loadOk ((canon_check h).after ‹_›)).after ‹_›

theorem canon_stackStore (h : Canon s) : Canon (s.stackStore p tid a l).2 := by
  unfold State.stackStore
  split
  · exact (canon_check h).after ‹_›
  · split <;> exact (canon_storeOk ((canon_check h).after ‹_›)).after ‹_›

theorem canon_spillRegs (h : Canon s) : Canon (s.spillRegs p tid b n).2 := by
  induction n generalizing s with
  | zero => exact h
  | succ n ih =>
    unfold State.spillRegs
    dsimp only
    split
    · exact h
    split
    · exact h
    split
    · exact h
    split
    · exact (canon_stackStore h).after ‹_›
    · exact ih (canon_modThread ((canon_stackStore h).after ‹_›))

theorem canon_readRegs (h : Canon s) : Canon (s.readRegs p tid b n x acc).2 := by
  induction n generalizing s x acc with
  | zero => exact h
  | succ n ih =>
    unfold State.readRegs
    dsimp only
    split
    · exact h
    split
    · exact (canon_stackLoad h).after ‹_›
    · exact ih ((canon_stackLoad h).after ‹_›)

theorem canon_slide (h : Canon s) : Canon (s.slide p tid b fb).2 := by
  unfold State.slide
  dsimp only
  split
  · exact h
  split
  · split
    · exact (canon_spillRegs h).after ‹_›
    · exact canon_modThread ((canon_spillRegs h).after ‹_›)
  split
  · split
    · exact (canon_readRegs h).after ‹_›
    · exact canon_modThread ((canon_readRegs h).after ‹_›)
  · exact canon_modThread h

theorem canon_spillEntry (h : Canon s) : Canon (s.spillEntry p tid b).2 := by
  unfold State.spillEntry
  dsimp only
  split
  · exact h
  split
  · exact h
  split
  · exact h
  split
  · exact (canon_stackStore h).after ‹_›
  · exact canon_modThread ((canon_stackStore h).after ‹_›)

theorem canon_spillEntries (h : Canon s) : Canon (s.spillEntries p tid b n).2 := by
  induction n generalizing s with
  | zero => exact h
  | succ n ih =>
    unfold State.spillEntries
    split
    · exact (canon_spillEntry h).after ‹_›
    · exact ih ((canon_spillEntry h).after ‹_›)

theorem canon_makeRoom (h : Canon s) : Canon (s.makeRoom p tid b).2 := by
  unfold State.makeRoom
  split
  · exact h
  · exact canon_ite_snd (canon_spillEntry h) h

theorem canon_topEntry (h : Canon s) : Canon (s.topEntry p tid b).2 := by
  unfold State.topEntry
  dsimp only
  split
  · exact h
  split
  · exact h
  split
  · exact h
  · split <;> exact (canon_stackLoad h).after ‹_›

theorem canon_stopped (h : Canon s) : Canon (s.stopped p tid x word) := by
  unfold State.stopped
  split
  · exact canon_pageFault h
  · exact canon_walkWait h
  · exact canon_fault h
  · exact canon_park h
  · exact canon_fault h

theorem canon_storeFrame (h : Canon s) : Canon (s.storeFrame p tid b a l n).2 := by
  induction n generalizing s a l with
  | zero => exact h
  | succ n ih =>
    unfold State.storeFrame
    split
    · exact h
    split
    · exact (canon_stackStore h).after ‹_›
    · exact ih ((canon_stackStore h).after ‹_›)

theorem canon_entryStopped (h : Canon s) : Canon (s.entryStopped p tid x cause word) := by
  cases x <;> exact canon_stopped h

theorem canon_trap (h : Canon s) : Canon (s.trap p tid b word emu) := by
  unfold State.trap
  split
  · exact h
  split
  · exact h
  extract_lets ev handler bs
  refine canon_ite (canon_fault h) (canon_ite (canon_fault h) ?_)
  split
  · rename_i e
    exact canon_entryStopped ((canon_spillEntries h).after e)
  rename_i e
  have hspilled := (canon_spillEntries h).after e
  split
  · exact hspilled
  split
  · exact canon_entryStopped hspilled
  dsimp only
  split
  · rename_i e
    exact canon_entryStopped ((canon_storeFrame hspilled).after e)
  rename_i e
  have hframe := (canon_storeFrame hspilled).after e
  split
  · rename_i e
    exact canon_entryStopped ((canon_slide hframe).after e)
  · rename_i e
    exact canon_modCrew ((canon_slide hframe).after e)

theorem canon_take (h : Canon s) : Canon (s.take p tid b word) := by
  unfold State.take
  split
  · exact canon_trap h
  · exact canon_trap h
  · exact canon_trap h
  · exact canon_trap h
  · exact canon_pageFault h
  · split
    · exact canon_faultTo h
    · exact canon_fault h
  · exact canon_fault h

theorem canon_raiseBad (h : Canon s) : Canon (s.raiseBad tid b) := canon_take h
theorem canon_raise (h : Canon s) : Canon (s.raise tid c) := canon_raiseBad h

theorem canon_loadFrame (h : Canon s) : Canon (s.loadFrame p tid b a acc n).2 := by
  induction n generalizing s a acc with
  | zero => exact h
  | succ n ih =>
    unfold State.loadFrame
    split
    · exact h
    split
    · exact (canon_stackLoad h).after ‹_›
    · exact ih ((canon_stackLoad h).after ‹_›)

theorem canon_leave (h : Canon s) : Canon (s.leave tid next) := by
  unfold State.leave
  dsimp only
  refine canon_withThread h fun _ _ => ?_
  split
  · rename_i e
    exact canon_stopped ((canon_topEntry h).after e)
  · rename_i e
    have htop := (canon_topEntry h).after e
    split
    · rename_i e
      exact canon_stopped ((canon_loadFrame htop).after e)
    rename_i e
    have hframe := (canon_loadFrame htop).after e
    split
    · rename_i e
      exact canon_stopped ((canon_slide hframe).after e)
    · rename_i e
      exact canon_modThread ((canon_slide hframe).after e)
  · rename_i e
    exact canon_raise ((canon_topEntry h).after e)

/-! ### Issue -/

theorem canon_pickWord (h : Canon s) : Canon (s.pickWord l dflt).2 := by
  unfold State.pickWord
  exact canon_pick h

theorem canon_fetchWord (h : Canon s) : Canon (s.fetchWord p tid).2 := by
  unfold State.fetchWord
  split
  · exact h
  split
  · exact h
  dsimp only
  split
  · refine canon_ite (canon_modThread (canon_pickWord h)) (canon_pickWord h)
  split
  · rename_i w _ _
    exact canon_pickWord (dflt := w) h
  split
  · refine canon_ite_snd ((canon_checkNow h).after ‹_›) ?_
    exact canon_modThread (canon_modCol (canon_lineFill ((canon_checkNow h).after ‹_›)))
  · split
    · exact (canon_hostLoad ((canon_checkNow h).after ‹_›)).after ‹_›
    · exact (canon_hostLoad ((canon_checkNow h).after ‹_›)).after ‹_›
  · exact (canon_checkNow h).after ‹_›
  · exact (canon_checkNow h).after ‹_›
  · exact (canon_checkNow h).after ‹_›

theorem canon_wordFor (h : Canon s) : Canon (s.wordFor p tid).2 := by
  unfold State.wordFor
  split
  · exact h
  split
  · exact (canon_fetchWord h).after ‹_›
  · exact canon_take ((canon_fetchWord h).after ‹_›)

theorem canon_wordsFor (h : Canon s) : Canon (s.wordsFor p l).2 := by
  induction l generalizing s with
  | nil => exact h
  | cons x l ih =>
    unfold State.wordsFor
    split <;> exact ih ((canon_wordFor h).after ‹_›)

theorem canon_takeAll (h : Canon s) : Canon (s.takeAll p tids b w) :=
  canon_foldl h fun _ _ h => canon_take h
theorem canon_meetAll (h : Canon s) : Canon s.meetAll := h

theorem canon_enterAgain (h : Canon s) : Canon (s.enterAgain c g) := by
  unfold State.enterAgain
  refine canon_foldl h fun _ _ h1 => ?_
  split
  · exact canon_take h1
  · exact h1

theorem canon_bringWords (h : Canon s) : Canon (s.bringWords g).2 := by
  unfold State.bringWords
  dsimp only
  split
  · exact h
  split
  · exact canon_wordsFor h
  split
  · exact canon_takeAll (canon_modCrew (canon_ite (canon_wordsFor h) (canon_wordsFor h)))
  · refine canon_ite_snd ?_ ?_ <;>
      exact canon_takeAll (canon_modCrew (canon_ite (canon_wordsFor h) (canon_wordsFor h)))

theorem canon_bringUp (h : Canon s) : Canon (s.bringUp g).2 := by
  unfold State.bringUp
  split
  · exact h
  split
  · exact h
  · exact canon_bringWords (canon_modCrew (canon_enterAgain h))

theorem canon_fetchNext (h : Canon s) : Canon (s.fetchNext p tid) := by
  unfold State.fetchNext
  split
  · exact h
  refine canon_ite h (canon_ite ?_ (canon_park h))
  split
  · exact canon_modThread ((canon_fetchWord h).after ‹_›)
  · exact canon_take ((canon_fetchWord h).after ‹_›)

theorem canon_fetchAll (h : Canon s) : Canon s.fetchAll :=
  canon_foldl h fun _ _ h => canon_foldl h fun _ _ h => canon_fetchNext h

theorem keeps_execInstructionFetchReturn (h : Canon s) : Keeps (execInstructionFetchReturn t s) := by
  unfold execInstructionFetchReturn
  dsimp only
  split
  · exact keeps_next h
  split
  · exact keeps_next h
  split
  · exact keeps_next (canon_walkWait h)
  split
  · exact keeps_next (canon_modThread ((canon_fetchWord (canon_park h)).after ‹_›))
  · exact keeps_next (canon_take ((canon_fetchWord (canon_park h)).after ‹_›))

/-! ### Integer -/

theorem keeps_each (h : Canon s) : Keeps (s.each f) := keeps_next (canon_perThread h)

/-! ### Memory -/

theorem canon_awaitWalk (h : Canon s) : Canon (s.awaitWalk tid va k who start) := canon_walkWait h

theorem canon_deliverLoad (h : Canon s) : Canon (s.deliverLoad tid r ws) := by
  unfold State.deliverLoad
  split
  · exact canon_modThread h
  · exact canon_withThread h fun _ _ => canon_modThread (canon_modCol h)

theorem canon_modUid (h : Canon s) : Canon (s.modUid uid f) := h

theorem keeps_execTaggedReply (h : Canon s) : Keeps (execTaggedReply die col tag s) := by
  unfold execTaggedReply
  split
  · exact keeps_next h
  · exact keeps_next (canon_modUid (canon_modCol h))

theorem canon_ldgThread (h : Canon s) : Canon (State.ldgThread z r base mask imm s tid) := by
  unfold State.ldgThread
  dsimp only
  refine canon_withThread h fun _ _ => ?_
  split
  · exact canon_finish h
  split
  · exact canon_awaitWalk ((canon_check h).after ‹_›)
  split
  · exact canon_raiseBad ((canon_loadOk ((canon_check h).after ‹_›)).after ‹_›)
  · exact canon_finish (canon_deliverLoad ((canon_loadOk ((canon_check h).after ‹_›)).after ‹_›))

theorem canon_stgThread (h : Canon s) : Canon (State.stgThread z r base mask imm s tid) := by
  unfold State.stgThread
  dsimp only
  refine canon_withThread h fun _ _ => ?_
  split
  · exact canon_finish h
  split
  · exact canon_awaitWalk ((canon_check h).after ‹_›)
  split
  · exact canon_raiseBad ((canon_storeOk ((canon_check h).after ‹_›)).after ‹_›)
  · exact canon_finish ((canon_storeOk ((canon_check h).after ‹_›)).after ‹_›)

theorem canon_atomicOk (h : Canon s) : Canon (s.atomicOk p tid va n onHost f k).2 := by
  unfold State.atomicOk
  split
  · exact canon_ite_snd h (canon_setPts (canon_devStore h))
  · split
    · exact h
    split
    · exact canon_countDetread h
    split
    · exact h
    refine canon_markLines ?_
    split
    · exact canon_store (canon_drainOut h)
    · exact canon_drainOut h
  · exact h
  · exact h
  · exact h

theorem canon_atomicThread (h : Canon s) : Canon (State.atomicThread y n onHost f r s tid) := by
  unfold State.atomicThread
  dsimp only
  refine canon_withThread h fun _ _ => ?_
  split
  · exact canon_awaitWalk ((canon_check h).after ‹_›)
  split
  · exact canon_raiseBad ((canon_atomicOk ((canon_check h).after ‹_›)).after ‹_›)
  refine canon_finish ?_
  split
  · exact canon_deliverLoad ((canon_atomicOk ((canon_check h).after ‹_›)).after ‹_›)
  · exact (canon_atomicOk ((canon_check h).after ‹_›)).after ‹_›

theorem canon_atomThread (h : Canon s) : Canon (State.atomThread op mask r y z s tid) :=
  canon_withThread h fun _ _ => canon_ite (canon_finish h) (canon_atomicThread h)

theorem canon_localStop (h : Canon s) : Canon (s.localStop tid a) := by
  unfold State.localStop
  split
  · exact h
  · exact canon_raiseBad h
  · exact canon_park h

theorem canon_storeLocal (h : Canon s) : Canon (s.storeLocal c a l) := canon_store h

theorem canon_ldlThread (h : Canon s) : Canon (State.ldlThread z r base mask imm s tid) := by
  unfold State.ldlThread
  dsimp only
  refine canon_withThread h fun _ _ => ?_
  split
  · exact canon_finish h
  split
  · exact canon_finish (canon_deliverLoad (canon_seeLocal h))
  · exact canon_localStop h

theorem canon_stlThread (h : Canon s) : Canon (State.stlThread z r base mask imm s tid) := by
  unfold State.stlThread
  dsimp only
  refine canon_withThread h fun _ _ => ?_
  split
  · exact canon_finish h
  split
  · exact canon_finish (canon_markLocal (canon_storeLocal h))
  · exact canon_localStop h

theorem canon_ldtThread (h : Canon s) : Canon (State.ldtThread v z r base mask imm s tid) := by
  unfold State.ldtThread
  dsimp only
  refine canon_withThread h fun _ _ => ?_
  split
  · exact canon_finish h
  split
  · exact canon_finish (canon_deliverLoad (canon_foldl h (fun _ _ h => canon_seeLocal h)))
  · exact canon_localStop h

theorem canon_storeView (h : Canon s) : Canon (s.storeView c ps xs) := by
  induction ps generalizing s xs with
  | nil => exact h
  | cons p ps ih =>
    cases xs with
    | nil => exact h
    | cons x xs => exact ih ((canon_storeLocal (c := c) (a := p) (l := bytes32 x) h).same rfl)

theorem canon_sttThread (h : Canon s) : Canon (State.sttThread v z r base mask imm s tid) := by
  unfold State.sttThread
  dsimp only
  refine canon_withThread h fun _ _ => ?_
  split
  · exact canon_finish h
  split
  · exact canon_finish (canon_foldl (canon_storeView h) (fun _ _ h => canon_markLocal h))
  · exact canon_localStop h

theorem canon_performLine (h : Canon s) : Canon (s.performLine c tid t word) := by
  unfold State.performLine
  split
  · exact canon_ldlThread h
  · exact canon_ldtThread h
  · exact h
  · exact h
  · exact canon_modThread h

theorem canon_wakeLines (h : Canon s) : Canon s.wakeLines :=
  canon_foldl h fun _ _ h => canon_performLine h
theorem canon_setLines (h : Canon s) : Canon (s.setLines c ls full) := h

theorem canon_flsetThread (h : Canon s) : Canon (State.flsetThread x y full s tid) := by
  unfold State.flsetThread
  dsimp only
  refine canon_withThread h fun _ _ => ?_
  split
  · exact canon_raiseBad h
  split
  · exact canon_finish h
  split
  · exact canon_raiseBad h
  · exact canon_finish (canon_ite (canon_wakeLines (canon_markLocal (canon_setLines h))) (canon_markLocal
      (canon_setLines h)))

theorem canon_fenceThread (h : Canon s) : Canon (State.fenceThread scope s tid) := by
  unfold State.fenceThread
  dsimp only
  split
  · exact canon_raise h
  split
  · exact canon_park (canon_modThread h)
  · exact canon_finish (canon_modThread h)

theorem keeps_execFenceHostTransmitted (h : Canon s) : Keeps (execFenceHostTransmitted t s) := by
  unfold execFenceHostTransmitted
  split
  · exact keeps_next (canon_modThread (canon_foldl h (fun _ _ h => canon_transmit h)))
  · exact keeps_next h

theorem canon_hintCheck (h : Canon s) : Canon (s.hintCheck p va k).2 := by
  unfold State.hintCheck
  split
  · exact h
  split
  · exact h
  · exact canon_postCheck (canon_lookup h ‹_›)

theorem canon_hintWalk (h : Canon s) : Canon (s.hintWalk p k h') :=
  canon_modCol (canon_queueWalkFor h)

theorem canon_prefetch (h : Canon s) : Canon (s.prefetch level p pts va) := by
  unfold State.prefetch
  dsimp only
  split
  · exact canon_hintWalk ((canon_hintCheck h).after ‹_›)
  · split
    · exact h
    split
    · exact canon_devLoad ((canon_hintCheck h).after ‹_›)
    · split
      · exact canon_touch ((canon_hintCheck h).after ‹_›)
      · exact canon_lineFill ((canon_hintCheck h).after ‹_›)
    split
    · exact h
    · exact canon_fillStack ((canon_hintCheck h).after ‹_›)
  · exact h

theorem canon_prefThread (h : Canon s) : Canon (State.prefThread level base mask imm s tid) :=
  canon_withThread h fun _ _ => canon_finish (canon_ite h (canon_prefetch h))

theorem keeps_execUld (h : Canon s) : Keeps (execUld d base imm s) := by
  unfold execUld
  dsimp only
  split
  · split
    · exact keeps_next (canon_walkGroup ((canon_check h).after ‹_›))
    split
    · exact keeps_next (canon_foldl ((canon_loadOk (canon_setPts ((canon_check h).after ‹_›))).after ‹_›)
        (fun _ _ h => canon_raiseBad h))
    · exact keeps_next (canon_foldl (canon_modCrew ((canon_loadOk
        (canon_setPts ((canon_check h).after ‹_›))).after ‹_›)) (fun _ _ h => canon_finish (canon_setPts h)))
  · exact keeps_next h

/-! ### Cache -/

theorem canon_checkPage (h : Canon s) : Canon (s.checkPage p tid pass' va k).2 := by
  unfold State.checkPage
  split
  · exact h
  split
  · exact h
  · exact canon_ite_snd (canon_lookup h ‹_›) (canon_postCheck (canon_lookup h ‹_›))

theorem canon_overPages {pages : List (Nat × Nat)} (h : Canon s) (hf : ∀ s a n c, Canon s → Canon (f s a n c)) :
    Canon (s.overPages p tid through k f pages).2 := by
  induction pages generalizing s with
  | nil => exact h
  | cons x l ih =>
    unfold State.overPages
    split
    · exact (canon_checkPage h).after ‹_›
    · exact (canon_checkPage h).after ‹_›
    · exact ih (hf _ _ _ _ ((canon_checkPage h).after ‹_›))

theorem canon_dropLine (h : Canon s) : Canon (s.dropLine x) := canon_modDie h

theorem canon_rangeThread (h : Canon s) (hf : ∀ s a n c, Canon s → Canon (f s a n c))
    (hafter : ∀ s tid, Canon s → Canon (after s tid)) : Canon (State.rangeThread x y through k f after s tid) := by
  unfold State.rangeThread
  refine canon_withThread h fun _ _ => ?_
  dsimp only
  split
  · exact canon_finish h
  split
  · exact canon_raiseBad ((canon_overPages h hf).after ‹_›)
  · exact canon_awaitWalk ((canon_overPages h hf).after ‹_›)
  · exact hafter _ _ ((canon_overPages h hf).after ‹_›)

theorem canon_waitOp (h : Canon s) : Canon (waitOp op s tid) := canon_park h
theorem keeps_execCwb (h : Canon s) : Keeps (execCwb x y s) :=
  keeps_next (canon_inOrder h (fun _ _ h => canon_rangeThread h (fun _ _ _ _ h => h) (fun _ _ h => canon_waitOp h)))

theorem keeps_execCinv (h : Canon s) : Keeps (execCinv x y s) :=
  keeps_next (canon_inOrder h (fun _ _ h => canon_rangeThread h (fun _ _ _ _ h => canon_foldl h
    (fun _ _ h => canon_dropLine h)) (fun _ _ h => canon_waitOp h)))

theorem canon_dropCode (h : Canon s) : Canon (s.dropCode ls) := h

theorem keeps_execIinv (h : Canon s) : Keeps (execIinv x y s) :=
  keeps_next (canon_inOrder h (fun _ _ h => canon_rangeThread h (fun _ _ _ _ h => canon_dropCode h)
    (fun _ _ h => canon_waitOp h)))

theorem canon_fillOne (h : Canon s) : Canon (s.fillOne p l a pa e) := by
  unfold State.fillOne
  dsimp only
  split
  · exact h
  · exact canon_modCol (canon_lineFill h)

theorem canon_fillCodeLine (h : Canon s) : Canon (s.fillCodeLine p a c l) := by
  unfold State.fillCodeLine
  dsimp only
  split
  · split
    · split
      · exact h
      split
      · exact canon_pick h
      · exact canon_fillOne (canon_pick h)
    · exact canon_fillOne h
  · exact h

theorem canon_fillCode (h : Canon s) : Canon (s.fillCode p a n c) :=
  canon_foldl h fun _ _ h => canon_fillCodeLine h

theorem canon_prefetchCode (h : Canon s) : Canon (s.prefetchCode p a n) := by
  unfold State.prefetchCode
  split
  · exact canon_hintWalk ((canon_hintCheck h).after ‹_›)
  · exact canon_fillCode ((canon_hintCheck h).after ‹_›)
  · exact h

theorem canon_ipreThread (h : Canon s) : Canon (State.ipreThread x y s tid) :=
  canon_withThread h fun _ _ => canon_finish (canon_foldl h (fun _ _ h => canon_prefetchCode h))
theorem canon_pinWait (h : Canon s) : Canon (State.pinWait x y s tid) :=
  canon_withThread h fun _ _ => canon_park h

theorem keeps_execIpin (h : Canon s) : Keeps (execIpin x y s) :=
  keeps_next (canon_inOrder h (fun _ _ h => canon_rangeThread h (fun _ _ _ _ h => canon_foldl h
    (fun _ _ h => canon_modCol (canon_fillCodeLine h))) (fun _ _ h => canon_pinWait h)))

theorem keeps_execIunp (h : Canon s) : Keeps (execIunp x y s) :=
  keeps_next (canon_inOrder h (fun _ _ h => canon_rangeThread h (fun _ _ _ _ h => canon_modCol h)
    (fun _ _ h => canon_finish h)))

theorem canon_fbarThread (h : Canon s) : Canon (s.fbarThread tid) :=
  canon_modThread (canon_finish h)

theorem canon_opComplete (h : Canon s) : Canon (s.opComplete t op) := by
  unfold State.opComplete
  split
  · split
    · exact canon_modThread h
    · exact h
  · exact h

theorem keeps_execIpinComplete (h : Canon s) : Keeps (execIpinComplete t s) := by
  unfold execIpinComplete
  split
  · exact keeps_next (canon_ite (canon_opComplete h) (canon_modThread h))
  · exact keeps_next h

/-! ### Control -/

theorem canon_callTo (h : Canon s) : Canon (s.callTo tid w target) := by
  unfold State.callTo
  dsimp only
  refine canon_withThread h fun _ _ => ?_
  split
  · exact canon_stopped ((canon_makeRoom h).after ‹_›)
  split
  · exact canon_stopped ((canon_slide ((canon_makeRoom h).after ‹_›)).after ‹_›)
  · exact canon_modThread ((canon_slide ((canon_makeRoom h).after ‹_›)).after ‹_›)

theorem canon_returnFrom (h : Canon s) : Canon (s.returnFrom tid) := by
  unfold State.returnFrom
  dsimp only
  refine canon_withThread h fun _ _ => ?_
  split
  · exact canon_stopped ((canon_topEntry h).after ‹_›)
  · split
    · exact canon_stopped ((canon_slide ((canon_topEntry h).after ‹_›)).after ‹_›)
    · exact canon_modThread ((canon_slide ((canon_topEntry h).after ‹_›)).after ‹_›)
  · exact canon_raise ((canon_topEntry h).after ‹_›)

theorem canon_movtThread (h : Canon s) : Canon (State.movtThread r a s tid) := by
  unfold State.movtThread
  refine canon_withThread h fun _ _ => ?_
  refine canon_finish ?_
  split
  · exact canon_modThread h
  · exact canon_modCrew h

theorem keeps_execYieldExpiry (h : Canon s) : Keeps (execYieldExpiry t s) := by
  unfold execYieldExpiry
  split
  · exact keeps_next (canon_ite (canon_modThread h) h)
  · exact keeps_next h

theorem canon_napThread (h : Canon s) : Canon (State.napThread a mask s tid) :=
  canon_withThread h fun _ _ => canon_ite (canon_finish h) (canon_park h)

theorem keeps_execNapTimeout (h : Canon s) : Keeps (execNapTimeout t s) := by
  unfold execNapTimeout
  split
  · exact keeps_next (canon_ite (canon_modThread h) h)
  · exact keeps_next h

/-! ### Engine -/

theorem canon_wakeBarrier (h : Canon s) : Canon (s.wakeBarrier c tid) := by
  unfold State.wakeBarrier
  dsimp only
  split
  · split
    · exact canon_take h
    split
    · exact h
    · exact canon_modThread (canon_seeLocal h)
  · exact h

theorem canon_wakeBarriers (h : Canon s) : Canon s.wakeBarriers :=
  canon_foldl h fun _ _ h => canon_foldl h fun _ _ h => canon_wakeBarrier h
theorem canon_putBarrier (h : Canon s) : Canon (s.putBarrier c b f) := canon_storeLocal h
theorem canon_updBarrier (h : Canon s) : Canon (s.updBarrier c b pts f) :=
  canon_wakeBarriers (canon_passStore (canon_putBarrier h))
theorem canon_trackLines (h : Canon s) : Canon (s.trackLines c ls) :=
  canon_setLines (canon_modCol (canon_modCrew h))

theorem canon_untrackLine (h : Canon s) : Canon (s.untrackLine c pts l) := by
  unfold State.untrackLine
  dsimp only
  split
  · split
    · exact canon_wakeLines (canon_passStore (canon_setLines (canon_modUid h)))
    · exact canon_modUid h
  split
  · exact canon_wakeLines (canon_passStore (canon_setLines (canon_modCol h)))
  · exact canon_modCol h

theorem canon_readAt (h : Canon s) : Canon (s.readAt sp a n place pts).2 := by
  unfold State.readAt
  dsimp only
  split <;> exact canon_pick h

theorem canon_engineLoad (h : Canon s) : Canon (s.engineLoad sp a n pts old).2 := by
  unfold State.engineLoad
  split
  · exact h
  split
  · exact canon_grantLease h
  · exact canon_passLoad h

theorem canon_engineCheck (h : Canon s) : Canon (s.engineCheck c t a n k e).2 := by
  unfold State.engineCheck
  dsimp only
  split
  · exact h
  · split <;> exact (canon_postCheck h).after ‹_›

theorem canon_globalSector (h : Canon s) : Canon (s.globalSector c t a n k).2 := by
  unfold State.globalSector
  dsimp only
  split
  · exact h
  split
  · exact canon_engineCheck (canon_lookup h ‹_›)
  · exact canon_queueWalkFor h

theorem canon_sector (h : Canon s) : Canon (s.sector c t global a n k).2 :=
  canon_ite_snd (canon_globalSector h) h
theorem canon_modTransfer (h : Canon s) : Canon (s.modTransfer c tag f) := canon_modCol h
theorem canon_dropTransfer (h : Canon s) : Canon (s.dropTransfer c tag) := canon_modCol h

theorem canon_readSector (h : Canon s) : Canon (s.readSector c t global a n).2 := by
  unfold State.readSector
  split
  · exact (canon_sector h).after ‹_›
  · exact canon_modTransfer ((canon_sector h).after ‹_›)
  · exact canon_modTransfer ((canon_sector h).after ‹_›)
  · exact canon_engineLoad (canon_readAt ((canon_sector h).after ‹_›))
  · exact canon_ite_snd ((canon_sector h).after ‹_›) (canon_touch (canon_engineLoad
      (canon_readAt ((canon_sector h).after ‹_›))))
  · split
    · exact canon_passLoad ((canon_hostLoad ((canon_sector h).after ‹_›)).after ‹_›)
    · exact (canon_hostLoad ((canon_sector h).after ‹_›)).after ‹_›
  · exact (canon_sector h).after ‹_›

theorem canon_writeCheck (h : Canon s) : Canon (s.writeCheck c t global cells).2 := canon_sector h

theorem canon_writeAt (h : Canon s) : Canon (s.writeAt c t cells goal).2 := by
  unfold State.writeAt
  split
  · exact canon_passStore (canon_storeRuns h)
  · exact canon_foldl (canon_devStoreBy h (fun _ h => canon_storeRuns h)) (fun _ _ h => canon_writeParts h)
  · exact canon_ite_snd (canon_countDetread h) (canon_passStore (canon_hostSector h))
  · exact canon_regWrite h

theorem canon_writeSector (h : Canon s) : Canon (s.writeSector c t global cells).2 := by
  unfold State.writeSector
  split
  · exact h
  split
  · exact (canon_writeCheck h).after ‹_›
  · exact canon_modTransfer ((canon_writeCheck h).after ‹_›)
  split
  · exact canon_writeAt ((canon_writeCheck h).after ‹_›)
  · exact (canon_writeCheck h).after ‹_›

theorem canon_settleFills (h : Canon s) : Canon (State.settleFills n p s) := by
  induction n generalizing s with
  | zero => exact h
  | succ n ih =>
    unfold State.settleFills
    dsimp only
    split
    · exact h
    · exact ih (canon_modCol (canon_foldl h (fun _ _ h => canon_modUid h)))

theorem canon_settleAllFills (h : Canon s) : Canon (s.settleAllFills c) := canon_settleFills h

theorem canon_endTransfer (h : Canon s) : Canon (s.endTransfer c t) := by
  unfold State.endTransfer
  split
  · exact canon_dropTransfer h
  · exact canon_modTransfer h

theorem canon_abandonMove (h : Canon s) : Canon (s.abandonMove c) := by
  unfold State.abandonMove
  split
  · exact canon_modCrew (canon_modCrew h)
  · exact canon_modCrew h

theorem canon_abortTransfer (h : Canon s) : Canon (s.abortTransfer c t b) := by
  unfold State.abortTransfer
  extract_lets s1 s2 s3 s4
  have hended : Canon s2 := canon_endTransfer (canon_abandonMove h)
  have hbarrier : Canon s3 := by
    unfold s3
    split
    · exact canon_ite hended (canon_updBarrier hended)
    · exact hended
  have hbind : Canon s4 := by
    unfold s4
    split
    · exact canon_modUid hbarrier
    · exact hbarrier
  exact canon_ite (canon_settleAllFills (canon_modTransfer (canon_abandonMove h)))
    (canon_foldl hbind fun _ _ h => canon_untrackLine h)

theorem canon_stopTransfer (h : Canon s) : Canon (s.stopTransfer c t b) := by
  unfold State.stopTransfer
  split
  · exact canon_abortTransfer h
  · exact canon_foldl (canon_abortTransfer h) fun _ _ h => canon_faultBehind h

theorem canon_sendStores (h : Canon s) : Canon (s.sendStores t) := by
  unfold State.sendStores
  split
  · exact canon_drainOut h
  · exact h

theorem canon_countOff (h : Canon s) : Canon (s.countOff c t k).2 := by
  unfold State.countOff
  split
  · exact h
  · exact canon_ite_snd (canon_foldl (canon_endTransfer h) (fun _ _ h => canon_untrackLine h)) (canon_updBarrier h)

theorem canon_releaseLines (h : Canon s) : Canon (s.releaseLines c t).2 :=
  canon_ite_snd h (canon_foldl h (fun _ _ h => canon_untrackLine h))

/-! ### CopyEngine -/

theorem canon_pushTransfer (h : Canon s) : Canon (s.pushTransfer c t) := h

theorem canon_acceptCopy (h : Canon s) : Canon (s.acceptCopy c k d) := by
  unfold State.acceptCopy
  extract_lets pts s1 t t' lines s2
  have hbarrier : Canon s1 := by
    unfold s1
    split
    · exact canon_updBarrier h
    · exact h
  exact canon_pushTransfer (canon_ite hbarrier (canon_trackLines hbarrier))

theorem canon_xcopyThread (h : Canon s) : Canon (State.xcopyThread ft scope acq rel x y turn s tid) := by
  unfold State.xcopyThread
  refine canon_withThread h fun _ _ => ?_
  extract_lets d b wait
  split
  · exact canon_raiseBad h
  refine canon_ite h ?_
  split
  · refine canon_finish (canon_ite (canon_modThread ?_) ?_) <;>
      exact canon_ite (canon_updBarrier (canon_seeLocal h)) (canon_acceptCopy (canon_seeLocal h))
  · exact h
  · exact canon_raiseBad h

theorem canon_readsDone (h : Canon s) : Canon (s.readsDone c t).2 := by
  unfold State.readsDone
  split
  · exact h
  split
  · split
    · exact h
    · exact canon_ite_snd h h
  · exact canon_ite_snd h h
  · exact h

theorem keeps_execCopySectorRead (h : Canon s) : Keeps (execCopySectorRead die col tag s) := by
  unfold execCopySectorRead
  split
  · exact keeps_next h
  split
  · split
    · exact keeps_next h
    split
    · rename_i e
      exact keeps_next ((canon_readSector h).after e)
    · rename_i e
      exact keeps_next (canon_stopTransfer ((canon_readSector h).after e))
    rename_i e
    have hread := (canon_readSector h).after e
    extract_lets cells t'
    split
    · rename_i e
      exact keeps_next (canon_abortTransfer ((canon_readsDone hread).after e))
    · rename_i e
      have hdone := (canon_readsDone hread).after e
      exact keeps_next (canon_ite (canon_settleAllFills (canon_modTransfer hdone)) (canon_modTransfer hdone))
  · exact keeps_next h

theorem canon_guardRead (h : Canon s) : Canon (s.guardRead c t n).2 := by
  unfold State.guardRead
  split
  · exact h
  split
  · exact (canon_readSector h).after ‹_›
  · exact (canon_readSector h).after ‹_›
  · exact canon_ite_snd ((canon_readSector h).after ‹_›) ((canon_readSector h).after ‹_›)

theorem canon_settleTransfer (h : Canon s) : Canon (s.settleTransfer c t) := by
  unfold State.settleTransfer
  split
  · exact canon_modTransfer h
  split
  · exact canon_modTransfer h
  split
  · exact canon_abortTransfer h
  · exact canon_dropTransfer h

theorem canon_landSector (h : Canon s) : Canon (s.landSector c t w l past late) := by
  unfold State.landSector
  extract_lets n t' countNow
  have hcount : ∀ s t', Canon s → Canon (countNow s t') := by
    intro s t' h
    unfold countNow
    extract_lets sent
    have hsent : Canon sent := canon_ite (canon_sendStores h) h
    refine canon_ite (canon_settleTransfer hsent) ?_
    split
    · rename_i e
      exact (canon_countOff hsent).after e
    · rename_i e
      exact canon_settleTransfer (canon_releaseLines ((canon_countOff hsent).after e))
  refine canon_ite ?_ ?_
  · split
    · rename_i e
      exact canon_abortTransfer ((canon_writeCheck h).after e)
    · rename_i e
      exact canon_modTransfer ((canon_writeCheck h).after e)
    · rename_i e
      split
      · exact hcount _ _ ((canon_writeCheck h).after e)
      · exact (canon_writeCheck h).after e
  · split
    · rename_i e
      exact (canon_writeSector h).after e
    · rename_i e
      exact canon_abortTransfer ((canon_writeSector h).after e)
    · rename_i e
      exact hcount _ _ ((canon_writeSector h).after e)

theorem canon_landLate (h : Canon s) : Canon (s.landLate c t x) := by
  unfold State.landLate
  dsimp only
  split
  · exact canon_abortTransfer h
  split
  · exact (canon_writeAt h).after ‹_›
  · exact canon_abortTransfer ((canon_writeAt h).after ‹_›)
  · exact canon_settleTransfer (canon_releaseLines ((canon_writeAt h).after ‹_›))

theorem keeps_execCopySectorLand (h : Canon s) : Keeps (execCopySectorLand die col tag s) := by
  unfold execCopySectorLand
  dsimp only
  split
  · exact keeps_next h
  split
  · exact keeps_next h
  split
  · exact keeps_next h
  split
  · exact keeps_next h
  · exact keeps_next (canon_landLate h)
  split
  · refine keeps_next ?_
    split
    · exact h
    · exact canon_landLate h
  · exact keeps_next (canon_abortTransfer h)
  split
  · exact keeps_next (canon_landLate (canon_pick h))
  split
  · exact keeps_next ((canon_guardRead (canon_pick h)).after ‹_›)
  · exact keeps_next (canon_abortTransfer ((canon_guardRead (canon_pick h)).after ‹_›))
  · exact keeps_next (canon_landSector (canon_modTransfer ((canon_guardRead (canon_pick h)).after ‹_›)))

theorem keeps_execAmaxFold (h : Canon s) : Keeps (execAmaxFold die col tag s) := by
  unfold execAmaxFold
  dsimp only
  split
  · exact keeps_next h
  split
  · split
    · exact keeps_next h
    split
    · exact keeps_next (canon_modTransfer ((canon_globalSector h).after ‹_›))
    · exact keeps_next (canon_abortTransfer ((canon_globalSector h).after ‹_›))
    · split
      · exact keeps_next (canon_abortTransfer ((canon_globalSector h).after ‹_›))
      refine keeps_next ?_
      split
      · exact (canon_countOff (canon_devStore ((canon_globalSector h).after ‹_›))).after ‹_›
      · exact canon_dropTransfer ((canon_countOff (canon_devStore ((canon_globalSector h).after ‹_›))).after ‹_›)
    · exact keeps_next (canon_abortTransfer ((canon_globalSector h).after ‹_›))
  · exact keeps_next h

theorem canon_xlutThread (h : Canon s) : Canon (State.xlutThread x slot z turn s tid) := by
  unfold State.xlutThread
  dsimp only
  refine canon_withThread h fun _ _ => ?_
  split
  · exact canon_raiseBad h
  split
  · exact canon_raise h
  split
  · exact h
  split
  · exact canon_finish (canon_modCol (canon_seeLocal h))
  · exact h
  · exact canon_raiseBad h

theorem canon_barrierThread (hf : ∀ s x1 x2 x3, Canon s → Canon (f s x1 x2 x3)) (h1 : Canon s) :
    Canon (State.barrierThread x f s tid) := by
  unfold State.barrierThread
  dsimp only
  refine canon_withThread h1 fun _ _ => ?_
  split
  · exact hf _ _ _ _ h1
  · exact canon_raiseBad h1

theorem canon_threadUpd (h : Canon s) : Canon (s.threadUpd c tid b f) :=
  canon_wakeBarriers (canon_markLocal (canon_putBarrier h))
theorem canon_bariThread (h : Canon s) : Canon (State.bariThread x y s tid) :=
  canon_barrierThread (fun _ _ _ _ h => canon_finish (canon_threadUpd h)) h
theorem canon_baraThread (h : Canon s) : Canon (State.baraThread x y s tid) :=
  canon_barrierThread (fun _ _ _ _ h => canon_finish (canon_threadUpd h)) h

theorem canon_barwThread (h : Canon s) : Canon (State.barwThread x y s tid) :=
  canon_barrierThread (fun _ _ _ _ h => canon_ite (canon_park h) (canon_finish (canon_modThread
    (canon_seeLocal h)))) h

theorem canon_bartThread (h : Canon s) : Canon (State.bartThread z x y s tid) :=
  canon_barrierThread (fun _ _ _ _ h => canon_finish (canon_modThread (canon_seeLocal h))) h

/-! ### Matrix -/

theorem canon_beginDrain (h : Canon s) : Canon (s.beginDrain c o d phase tile) :=
  canon_pushTransfer h

theorem canon_spoilt (h : Canon s) : Canon (s.spoilt c o) := by
  unfold State.spoilt
  refine canon_faultBehind ?_
  split
  · split
    · exact h
    · exact canon_updBarrier h
  · exact h

theorem keeps_execMatrixOperationFinished (h : Canon s) : Keeps (execMatrixOperationFinished die col s) := by
  unfold execMatrixOperationFinished
  dsimp only
  split
  · exact keeps_next (canon_pick h)
  split
  · exact keeps_next (canon_modCol (canon_pick h))
  split
  · exact keeps_next (canon_spoilt (canon_modCol (canon_pick h)))
  split
  · exact keeps_next (canon_beginDrain (canon_modCol (canon_pick h)))
  · exact keeps_next (canon_modUid (canon_modCol (canon_pick h)))

theorem canon_crewRead (h : Canon s) : Canon (s.crewRead c tid a n align).2 := by
  unfold State.crewRead
  split
  · exact h
  · exact h
  · exact canon_seeLocal h

theorem canon_performObres (h : Canon s) : Canon (s.performObres c tid ob y).2 := by
  unfold State.performObres
  split
  · exact (canon_crewRead h).after ‹_›
  · exact canon_ite_snd ((canon_crewRead h).after ‹_›) (canon_ite_snd ((canon_crewRead h).after ‹_›)
      (canon_modCrew ((canon_crewRead h).after ‹_›)))

theorem canon_performObrel (h : Canon s) : Canon (s.performObrel c ob).2 :=
  canon_ite_snd h (canon_ite_snd h (canon_modCrew (canon_modCol h)))

theorem canon_checkPages (h : Canon s) : Canon (s.checkPages c tid l).2 := by
  induction l generalizing s with
  | nil => exact h
  | cons x l ih =>
    unfold State.checkPages
    split
    · exact (canon_check h).after ‹_›
    · exact (canon_check h).after ‹_›
    · exact ih ((canon_check h).after ‹_›)

theorem canon_readHandle (h : Canon s) : Canon (s.readHandle c tid va known).2 := by
  unfold State.readHandle
  split
  · exact h
  split
  · exact (canon_check h).after ‹_›
  · split <;> exact (canon_loadOk ((canon_check h).after ‹_›)).after ‹_›

theorem canon_planObld (h : Canon s) : Canon (s.planObld c tid ob y z known).2 := by
  unfold State.planObld
  dsimp only
  split
  · exact h
  split
  · exact h
  split
  · exact h
  split
  · exact (canon_readHandle h).after ‹_›
  split
  · exact (canon_readHandle h).after ‹_›
  · split <;> exact (canon_checkPages ((canon_readHandle h).after ‹_›)).after ‹_›

theorem canon_acceptFill (h : Canon s) : Canon (s.acceptFill c tid into signers) :=
  canon_settleAllFills (canon_pushTransfer h)

theorem canon_performObld (h : Canon s) : Canon (s.performObld c tid ob y z).2 := by
  unfold State.performObld
  split
  · exact (canon_planObld h).after ‹_›
  · exact canon_acceptFill ((canon_planObld h).after ‹_›)

theorem canon_gatherRows (h : Canon s) : Canon (s.gatherRows c tid base pitch n l).2 := by
  induction l generalizing s with
  | nil => exact h
  | cons x l ih =>
    unfold State.gatherRows
    split
    · split <;> exact (ih h).after ‹_›
    split
    · exact (canon_crewRead h).after ‹_›
    · split <;> exact (ih ((canon_crewRead h).after ‹_›)).after ‹_›

theorem canon_performObgat (h : Canon s) : Canon (s.performObgat c tid ob y z).2 := by
  unfold State.performObgat
  dsimp only
  split
  · exact h
  split
  · exact h
  split
  · exact h
  split
  · exact h
  split
  · exact (canon_crewRead h).after ‹_›
  split
  · exact (canon_crewRead h).after ‹_›
  split
  · exact (canon_gatherRows ((canon_crewRead h).after ‹_›)).after ‹_›
  · exact canon_modCrew ((canon_gatherRows ((canon_crewRead h).after ‹_›)).after ‹_›)

theorem canon_acceptOp (h : Canon s) : Canon (s.acceptOp c tid i cv obs drain twin) := h

theorem canon_performMultiply (h : Canon s) : Canon (s.performMultiply c tid i cx x a b cv).2 := by
  unfold State.performMultiply
  split
  · exact canon_acceptOp h
  · exact h

theorem canon_performMdft (h : Canon s) : Canon (s.performMdft c tid i n x a cv).2 := by
  unfold State.performMdft
  dsimp only
  split
  · split
    · exact h
    split
    · exact h
    · exact canon_ite_snd h (canon_ite_snd h (canon_acceptOp h))
  split
  · exact h
  split
  · exact h
  · exact canon_ite_snd h (canon_ite_snd h (canon_acceptOp h))

theorem canon_performMzro (h : Canon s) : Canon (s.performMzro c tid i x cv).2 :=
  canon_ite_snd h (canon_acceptOp h)
theorem canon_performToken (h : Canon s) : Canon (s.performToken c x vector).2 :=
  canon_ite_snd h (canon_ite_snd h (canon_modCrew h))

theorem canon_planMdrn (h : Canon s) : Canon (s.planMdrn c tid x y).2 := by
  unfold State.planMdrn
  dsimp only
  split
  · exact h
  split
  · exact (canon_crewRead h).after ‹_›
  split
  · exact (canon_crewRead h).after ‹_›
  split
  · exact (canon_crewRead h).after ‹_›
  · exact canon_ite_snd ((canon_crewRead h).after ‹_›) (canon_ite_snd ((canon_crewRead h).after ‹_›)
      ((canon_crewRead h).after ‹_›))

theorem canon_acceptDrain (h : Canon s) : Canon (s.acceptDrain c tid i cv d twin) :=
  canon_acceptOp (canon_updBarrier h)

theorem canon_performMdrn (h : Canon s) : Canon (s.performMdrn c tid i x y cv).2 := by
  unfold State.performMdrn
  split
  · exact (canon_planMdrn h).after ‹_›
  · exact canon_ite_snd ((canon_planMdrn h).after ‹_›) (canon_acceptDrain ((canon_planMdrn h).after ‹_›))

theorem canon_perform (h : Canon s) : Canon (s.perform c tid i).2 := by
  unfold State.perform
  split
  · exact canon_performObres h
  · exact canon_performObrel h
  · exact canon_performObld h
  · exact canon_performObgat h
  · exact canon_performMultiply h
  · exact canon_performMultiply h
  · exact canon_performMdft h
  · exact canon_performMdrn h
  · exact canon_performMzro h
  · exact canon_performToken h
  · exact canon_performToken h
  · exact h

theorem canon_elementThread (hf : ∀ s x1 x2, Canon s → Canon (f s x1 x2)) (h1 : Canon s) :
    Canon (State.elementThread acc z pair odd f s tid) :=
  canon_withThread h1 fun _ _ => canon_ite (canon_raise h1) (canon_ite (canon_raise h1)
    (canon_ite (canon_raise h1) (canon_finish (hf _ _ _ h1))))

/-! ### Converge -/

theorem canon_everySigner (h : Canon s) : Canon (s.everySigner p k cause) := by
  unfold State.everySigner
  split
  · exact h
  · exact canon_foldl (canon_modCrew h) fun _ _ h => canon_take h

theorem canon_lastSigner (h : Canon s) : Canon (s.lastSigner p h' b) := canon_take (canon_modCrew h)
theorem canon_lastWalks (h : Canon s) : Canon (s.lastWalks p h' va) :=
  canon_walkWait (canon_modCrew h)

theorem canon_settleSet (h : Canon s) : Canon (s.settleSet p h' a) := by
  unfold State.settleSet
  split
  · exact canon_modCrew h
  · exact canon_lastSigner h
  · exact canon_everySigner h
  · exact canon_modCrew h
  · exact canon_lastWalks h

theorem canon_alone (h : Canon s) : Canon (s.alone p h') := by
  unfold State.alone
  split
  · exact h
  split
  · exact canon_settleSet h
  · exact canon_settleSet (canon_perform h)

theorem canon_setBound (h : Canon s) : Canon (s.setBound p q b) := canon_modCrew (canon_modCrew h)
theorem canon_atTwin (h : Canon s) : Canon (s.atTwin p h') := canon_modCrew h

theorem canon_notPaired (h : Canon s) : Canon (s.notPaired p q h' g e f) := by
  unfold State.notPaired
  extract_lets one
  have hone : ∀ s p h' e, Canon s → Canon (one s p h' e) := by
    intro s p h' e h
    unfold one
    split
    · exact canon_atTwin h
    · exact canon_atTwin h
    · exact canon_settleSet h
  split
  · exact canon_atTwin (canon_atTwin h)
  · exact canon_atTwin (canon_atTwin h)
  · exact hone _ _ _ _ (hone _ _ _ _ h)

theorem canon_bothObld (h : Canon s) : Canon (s.bothObld p q h' g ob y z) := by
  unfold State.bothObld
  dsimp only
  split
  · split
    · split
      · exact canon_settleSet (canon_settleSet (canon_acceptFill (canon_planObld (canon_planObld h))))
      split
      · exact canon_atTwin (canon_atTwin (canon_planObld (canon_planObld h)))
      · exact canon_settleSet (canon_settleSet (canon_acceptFill (canon_acceptFill (canon_planObld
          (canon_planObld h)))))
    · exact canon_notPaired (canon_planObld (canon_planObld h))
  · exact h

theorem canon_bothMdrn (h : Canon s) : Canon (s.bothMdrn p q h' g x y cv) := by
  unfold State.bothMdrn
  dsimp only
  split
  · split
    · split
      · exact canon_atTwin (canon_atTwin (canon_planMdrn (canon_planMdrn h)))
      · exact canon_settleSet (canon_settleSet (canon_acceptDrain (canon_acceptDrain (canon_planMdrn
          (canon_planMdrn h)))))
    · exact canon_notPaired (canon_planMdrn (canon_planMdrn h))
  · exact h

theorem canon_bothMultiply (h : Canon s) : Canon (s.bothMultiply p q h' g cx x a b cv) := by
  unfold State.bothMultiply
  split
  · split
    · exact canon_settleSet (canon_settleSet (canon_acceptOp (canon_acceptOp h)))
    · exact canon_notPaired h
  · exact h

theorem canon_both (h : Canon s) : Canon (s.both p q h' g) := by
  unfold State.both
  split
  · exact canon_bothObld h
  · exact canon_bothMdrn h
  · exact canon_bothMultiply h
  · exact canon_bothMultiply h
  · exact canon_alone (canon_alone h)

theorem canon_arrive (h : Canon s) : Canon (s.arrive p h') := by
  unfold State.arrive
  split
  · exact h
  split
  · exact canon_settleSet h
  split
  · split
    · exact canon_settleSet h
    · exact canon_alone h
  split
  · exact canon_alone h
  split
  · split
    · exact canon_modCrew h
    split
    · exact canon_settleSet (canon_settleSet (canon_setBound h))
    · exact canon_modCrew (canon_alone (canon_setBound h))
  split
  · exact canon_alone h
  split
  · exact canon_alone h
  · exact canon_settleSet h
  split
  · exact canon_modCrew h
  split
  · exact canon_alone (canon_setBound h)
  split
  · exact canon_both h
  · exact canon_alone (canon_alone (canon_setBound h))

theorem canon_retrySet (h : Canon s) : Canon (s.retrySet p k) := by
  unfold State.retrySet
  split
  · exact h
  split
  · exact h
  split
  · split
    · split
      · exact canon_arrive h
      · exact h
    · exact h
  split
  · exact canon_alone h
  · exact canon_arrive h

theorem canon_retryHeld (h : Canon s) : Canon (s.retryHeld f) :=
  canon_foldl h fun _ _ h => canon_foldl h fun _ _ h => canon_retrySet h
theorem canon_retrySets (h : Canon s) : Canon s.retrySets := canon_retryHeld h
theorem canon_setsServed (h : Canon s) : Canon s.setsServed := canon_retryHeld h

theorem canon_signThread (h : Canon s) : Canon (State.signThread k i whole s tid) :=
  canon_withThread h fun _ _ => canon_ite (canon_raise h) (canon_ite (canon_arrive (canon_modCrew h))
    (canon_modCrew h))

theorem keeps_sign (h : Canon s) : Keeps (s.sign cv i whole) :=
  keeps_next (canon_inOrder h (fun _ _ h => canon_signThread h))
theorem canon_convInitThread (h : Canon s) : Canon (State.convInitThread cv y signed s tid) :=
  canon_withThread h fun _ _ => canon_ite (canon_raise h) (canon_finish (canon_modCrew h))

theorem keeps_execObresSpaceFreed (h : Canon s) : Keeps (execObresSpaceFreed p s) := by
  unfold execObresSpaceFreed
  split
  · exact keeps_next h
  · exact keeps_next (canon_foldl h (fun _ _ h => canon_ite (canon_retrySet h) h))

theorem canon_settlePersistent (h : Canon s) : Canon (s.settlePersistent a) := by
  unfold State.settlePersistent
  split
  · exact h
  split
  · exact h
  split
  · exact canon_modDie (canon_modStage h)
  · exact h

theorem canon_widow (h : Canon s) : Canon (s.widow p) := by
  unfold State.widow
  dsimp only
  split
  · exact canon_modCrew h
  · exact canon_arrive (canon_modCrew h)

theorem canon_endThread (h : Canon s) : Canon (s.endThread p tid) := by
  unfold State.endThread
  split
  · exact h
  extract_lets lost s1 s2 s3
  have hlost : Canon s3 := canon_foldl (canon_modCol (canon_modCrew h)) fun _ _ h => canon_everySigner h
  split
  · exact hlost
  refine canon_ite hlost ?_
  extract_lets s4
  have hsettled : Canon s4 := canon_settlePersistent (canon_modCrew hlost)
  split
  · exact canon_ite hsettled (canon_widow hsettled)
  · exact hsettled

/-! ### FixedFunction -/

theorem canon_acceptFf (h : Canon s) : Canon (s.acceptFf c r) := by
  unfold State.acceptFf
  split
  · exact canon_modThread (canon_modCol (canon_updBarrier h))
  · exact canon_modThread (canon_modCol h)

theorem canon_offerFf (h : Canon s) : Canon (s.offerFf c tid unit slot record u v) := by
  unfold State.offerFf
  dsimp only
  split
  · exact canon_acceptFf h
  · exact canon_park (canon_modCol h)

theorem canon_ffServe (h : Canon s) : Canon (State.ffServe die col unit n s) := by
  induction n generalizing s with
  | zero => exact h
  | succ n ih =>
    unfold State.ffServe
    split
    · exact h
    split
    · exact h
    refine ih ?_
    split
    · split
      · exact canon_acceptFf h
      · exact canon_modCol h
    · exact canon_modCol h

theorem canon_ffServeAll (h : Canon s) : Canon (s.ffServeAll die col) :=
  canon_foldl h fun _ _ h => canon_ffServe h

theorem keeps_execFfRequestTakeup (h : Canon s) : Keeps (execFfRequestTakeup die col unit s) := by
  unfold execFfRequestTakeup
  split
  · exact keeps_next h
  refine keeps_next ?_
  refine canon_ffServe ?_
  split <;> exact canon_modCol h

theorem canon_extentReadable (h : Canon s) : Canon (s.extentReadable p tid l).2 := by
  induction l generalizing s with
  | nil => exact h
  | cons x l ih =>
    unfold State.extentReadable
    dsimp only
    split
    · exact (canon_check h).after ‹_›
    · exact (canon_check h).after ‹_›
    · exact ih ((canon_check h).after ‹_›)

theorem canon_withExtent (h : Canon s) (hf : ∀ s, Canon s → Canon (f s)) : Canon (s.withExtent c tid a n f) := by
  unfold State.withExtent
  split
  · exact canon_raiseBad ((canon_extentReadable h).after ‹_›)
  · exact canon_awaitWalk ((canon_extentReadable h).after ‹_›)
  · exact hf _ ((canon_extentReadable h).after ‹_›)

theorem canon_ffRecord (h : Canon s) (hf : ∀ s x1 x2 x3, Canon s → Canon (f s x1 x2 x3)) :
    Canon (s.ffRecord tid y n f) := by
  unfold State.ffRecord
  dsimp only
  refine canon_withThread h fun _ _ => ?_
  split
  · exact canon_raiseBad h
  split
  · exact hf _ _ _ _ (canon_seeLocal h)
  · exact canon_localStop h

theorem canon_texThread (h : Canon s) : Canon (State.texThread x y z s tid) :=
  canon_ffRecord h fun _ _ _ _ h => canon_ite (canon_raise h) (canon_withExtent h (fun _ h => canon_offerFf h))
theorem canon_travThread (h : Canon s) : Canon (State.travThread x y s tid) :=
  canon_ffRecord h fun _ _ _ _ h => canon_ite (canon_raise h) (canon_withExtent h (fun _ h => canon_offerFf h))

theorem canon_rastThread (h : Canon s) : Canon (State.rastThread y s tid) := by
  unfold State.rastThread
  dsimp only
  refine canon_ffRecord h fun _ _ _ _ h1 => ?_
  split
  · exact canon_raise h1
  split
  · exact canon_raiseBad h1
  · exact canon_offerFf h1

theorem canon_ffCheck (h : Canon s) : Canon (s.ffCheck q a n).2 := by
  unfold State.ffCheck
  dsimp only
  split
  · exact h
  split
  · exact h
  · exact canon_postCheck (canon_lookup h ‹_›)

theorem canon_ffRead (h : Canon s) : Canon (s.ffRead q a b n).2 := by
  unfold State.ffRead
  split
  · exact (canon_ffCheck h).after ‹_›
  · exact (canon_ffCheck h).after ‹_›
  · have hcheck := (canon_ffCheck h).after ‹_›
    exact canon_ite_snd hcheck (canon_touch (canon_engineLoad (canon_readAt hcheck)))
  · have hcheck := (canon_ffCheck h).after ‹_›
    split
    · exact canon_passLoad ((canon_hostLoad hcheck).after ‹_›)
    rename_i e
    exact ((canon_hostLoad hcheck).after e).same rfl
  · exact (canon_ffCheck h).after ‹_›

theorem canon_ffReads (h : Canon s) : Canon (s.ffReads q a l).2 := by
  induction l generalizing s a with
  | nil => exact h
  | cons x l ih =>
    unfold State.ffReads
    split
    · exact (canon_ffRead h).after ‹_›
    · split <;> exact (ih ((canon_ffRead h).after ‹_›)).after ‹_›

theorem canon_readTexels (h : Canon s) : Canon (s.readTexels q f n l).2 := by
  induction l generalizing s f with
  | nil => exact h
  | cons a l ih =>
    unfold State.readTexels
    split
    · exact (canon_ffRead h).after ‹_›
    · split <;> exact (ih ((canon_ffRead h).after ‹_›)).after ‹_›

theorem canon_replyFf (h : Canon s) : Canon (s.replyFf die col r ws) :=
  canon_modUid (canon_modCol h)
theorem canon_failFf (h : Canon s) : Canon (s.failFf die col r b) :=
  canon_faultBehind (canon_modUid (canon_modCol h))
theorem canon_ffWaits (h : Canon s) : Canon (s.ffWaits die col tag w) := canon_modCol h

theorem canon_stopFf (h : Canon s) : Canon (s.stopFf q a) := by
  unfold State.stopFf
  split
  · exact canon_ffWaits (canon_queueWalkFor h)
  split
  · split
    · exact canon_ffWaits ((canon_askPage h).after ‹_›)
    · exact canon_failFf ((canon_askPage h).after ‹_›)
  · exact canon_failFf h

theorem keeps_execTexReply (h : Canon s) : Keeps (execTexReply die col tag s) := by
  unfold execTexReply
  split
  · exact keeps_next h
  refine keeps_next ?_
  split
  · exact canon_stopFf ((canon_readTexels h).after ‹_›)
  · exact canon_replyFf ((canon_readTexels h).after ‹_›)

theorem canon_visit (h : Canon s) : Canon (s.visit q r n a l w).2 := by
  induction n generalizing s a l w with
  | zero => cases l <;> exact h
  | succ n ih =>
    cases l with
    | nil => exact h
    | cons x l =>
      unfold State.visit
      refine canon_ite_snd h (canon_ite_snd h ?_)
      split
      · exact (canon_ffReads h).after ‹_›
      · have hnode := (canon_ffReads h).after ‹_›
        split
        · exact hnode
        · refine canon_ite_snd hnode ?_
          split
          · rename_i e
            exact (canon_ffReads hnode).after e
          · rename_i e
            exact ih ((canon_ffReads hnode).after e)
        · exact canon_ite_snd hnode (ih hnode)

theorem canon_travWords (h : Canon s) : Canon (s.travWords w).2 := by
  unfold State.travWords
  split
  · exact h
  split
  · exact canon_anyWord (canon_anyWord (canon_anyWord (canon_anyWord h)))
  · exact h

theorem canon_travStops (h : Canon s) : Canon (s.travStops q x at_' t) :=
  canon_stopFf (canon_modCol h)

theorem keeps_execTravReply (h : Canon s) : Keeps (execTravReply die col tag s) := by
  unfold execTravReply
  split
  · exact keeps_next h
  refine keeps_next ?_
  split
  · exact canon_travStops ((canon_visit h).after ‹_›)
  · exact canon_replyFf (canon_travWords ((canon_visit h).after ‹_›))

theorem canon_readAll (h : Canon s) : Canon (s.readAll c global t l acc).2 := by
  induction l generalizing s t acc with
  | nil => exact h
  | cons x l ih =>
    unfold State.readAll
    split
    · exact (canon_readSector h).after ‹_›
    · exact (canon_readSector h).after ‹_›
    · exact ih ((canon_readSector h).after ‹_›)

theorem keeps_execRastRun (h : Canon s) : Keeps (execRastRun die col tag s) := by
  unfold execRastRun
  split
  · exact keeps_next h
  split
  · split
    · exact keeps_next h
    extract_lets r ending
    have hending : ∀ s e, Canon s → Keeps (ending s e) := by
      intro s e h
      cases e with
      | stop b => exact keeps_next (canon_abortTransfer h)
      | wait => exact keeps_next h
      | bytes l t => exact keeps_next h
    split
    · rename_i e
      have hout := (canon_readAll h).after e
      split
      · rename_i e
        have htris := (canon_readAll hout).after e
        extract_lets ts
        split
        · rename_i e
          exact keeps_next (canon_modTransfer ((canon_readAll htris).after e))
        · rename_i e
          exact hending _ _ ((canon_readAll htris).after e)
      · rename_i e
        exact hending _ _ ((canon_readAll hout).after e)
    · rename_i e
      exact hending _ _ ((canon_readAll h).after e)
  · exact keeps_next h

/-! ### Reef -/

theorem canon_wipeScratch (h : Canon s) : Canon (s.wipeScratch die col m n) := h
theorem canon_setCount (h : Canon s) : Canon (s.setCount die col n owner) :=
  canon_ite (canon_wipeScratch (canon_modDie (canon_useBank h))) (canon_wipeScratch (canon_useBank h))

theorem canon_beginReef (h : Canon s) : Canon (s.beginReef die col) := by
  unfold State.beginReef
  split
  · exact canon_modCol h
  · exact h

theorem canon_recount (h : Canon s) : Canon (s.recount die col n owner) :=
  canon_beginReef (canon_setCount h)

theorem canon_pushReef (h : Canon s) : Canon (s.pushReef tid ways arg) := by
  unfold State.pushReef
  dsimp only
  split
  · exact canon_beginReef (canon_park (canon_modCol h))
  · exact canon_park (canon_modCol h)

theorem canon_endReef (h : Canon s) : Canon (s.endReef die col r b) := by
  unfold State.endReef
  refine canon_beginReef ?_
  split
  · exact canon_modCol h
  split
  · exact canon_take (canon_modThread (canon_modCol h))
  · exact canon_modThread (canon_modThread (canon_modCol h))

theorem keeps_execScwayComplete (h : Canon s) : Keeps (execScwayComplete die col s) := by
  unfold execScwayComplete
  dsimp only
  split
  · split
    · exact keeps_next h
    split
    · exact keeps_next (canon_endReef h)
    · exact keeps_next (canon_wakeLines (canon_endReef (canon_ite h (canon_setCount h))))
  · exact keeps_next h

theorem keeps_execScflComplete (h : Canon s) : Keeps (execScflComplete die col s) := by
  unfold execScflComplete
  split
  · split
    · exact keeps_next h
    · exact keeps_next (canon_endReef (canon_modDie (canon_useBank h)))
  · exact keeps_next h

/-! ### Regions -/

theorem canon_logFirmware (h : Canon s) : Canon (s.logFirmware d a) := canon_modDie h

theorem canon_firmReaches (h : Canon s) : Canon (s.firmReaches m t) := by
  unfold State.firmReaches
  split
  · exact canon_coreReaches h
  · exact h

theorem canon_firmLoads (h : Canon s) : Canon (s.firmLoads m pa n) := by
  unfold State.firmLoads
  split
  · exact canon_foldl h fun _ _ h => canon_coreReaches (canon_grantLease h)
  · exact h

theorem canon_pageRead (h : Canon s) : Canon (s.pageRead m engine a n).2 := by
  unfold State.pageRead
  split
  · exact h
  split
  · exact canon_ite_snd ((canon_checkNow h).after ‹_›) (canon_firmLoads ((canon_checkNow h).after ‹_›))
  · split <;> exact (canon_hostLoad ((canon_checkNow h).after ‹_›)).after ‹_›
  · exact canon_ite (canon_logFirmware ((canon_checkNow h).after ‹_›)) ((canon_checkNow h).after ‹_›)
  · exact (canon_checkNow h).after ‹_›

theorem canon_piecesRead (h : Canon s) : Canon (s.piecesRead m engine l acc).2 := by
  induction l generalizing s acc with
  | nil => exact h
  | cons x l ih =>
    unfold State.piecesRead
    split
    · exact (canon_pageRead h).after ‹_›
    · exact ih ((canon_pageRead h).after ‹_›)

theorem canon_fwRead (h : Canon s) : Canon (s.fwRead m engine va n).2 := canon_piecesRead h

theorem canon_pageWrite (h : Canon s) : Canon (s.pageWrite m a l).2 := by
  unfold State.pageWrite
  split
  · exact h
  split
  · exact canon_foldl ((canon_checkNow h).after ‹_›) fun _ _ h => canon_firmReaches (canon_devStore h)
  · exact canon_hostStore ((canon_checkNow h).after ‹_›)
  · exact canon_ite (canon_logFirmware ((canon_checkNow h).after ‹_›)) ((canon_checkNow h).after ‹_›)
  · exact (canon_checkNow h).after ‹_›

theorem canon_piecesWrite (h : Canon s) : Canon (s.piecesWrite m l bytes).2 := by
  induction l generalizing s bytes with
  | nil => exact h
  | cons x l ih =>
    unfold State.piecesWrite
    split
    · exact (canon_pageWrite h).after ‹_›
    · exact ih ((canon_pageWrite h).after ‹_›)

theorem canon_fwWrite (h : Canon s) : Canon (s.fwWrite m va l).2 := canon_piecesWrite h

theorem canon_readStages (h : Canon s) : Canon (s.readStages e table count n i).2 := by
  induction n generalizing s i with
  | zero => exact h
  | succ n ih =>
    unfold State.readStages
    exact ih (canon_piecesRead h)

theorem canon_readRegion (h : Canon s) : Canon (s.readRegion n rcb).2 := by
  induction n generalizing s rcb with
  | zero => exact h
  | succ n ih =>
    unfold State.readRegion
    split
    · exact h
    refine canon_ite_snd h ?_
    split
    · exact (canon_fwRead h).after ‹_›
    rename_i l s1 hr
    have hread : Canon s1 := (canon_fwRead h).after hr
    refine canon_ite_snd hread ?_
    split
    rename_i up s2 hparent
    have hup : Canon s2 := by
      refine Canon.after (canon_ite_snd hread ?_) hparent
      split <;> exact (ih hread).after ‹_›
    split
    · exact hup
    · exact canon_ite_snd (canon_readStages hup) (canon_readStages hup)

theorem canon_openRegion (h : Canon s) : Canon (s.openRegion rcb).2 := by
  unfold State.openRegion
  split
  · rename_i e
    have hread := (canon_readRegion h).after e
    exact canon_ite_snd hread hread
  rename_i e
  exact ((canon_readRegion h).after e).same rfl

theorem canon_retire (h : Canon s) : Canon s.retire := h

/-! ### Queues -/

theorem canon_gather (h : Canon s) : Canon (s.gather a) := canon_modStage h
theorem canon_append (h : Canon s) : Canon (s.append a rs) := canon_gather h

theorem canon_enqThread (h : Canon s) : Canon (State.enqThread x y nb s tid) := by
  unfold State.enqThread
  refine canon_withThread h fun _ _ => ?_
  dsimp only
  split
  · exact canon_raise h
  refine canon_ite (canon_raiseBad h) ?_
  split
  · refine canon_ite (canon_park (canon_seeLocal h)) (canon_ite ?_ ?_)
    · exact canon_ite (canon_finish (canon_modThread (canon_seeLocal h))) (canon_park (canon_seeLocal h))
    · refine canon_finish (canon_ite (canon_modThread ?_) ?_) <;> exact canon_append (canon_seeLocal h)
  · exact canon_localStop h

theorem keeps_execEnqQueueRoom (h : Canon s) : Keeps (execEnqQueueRoom t s) := by
  unfold execEnqQueueRoom
  dsimp only
  split
  · split
    · exact keeps_next h
    split
    · exact keeps_next (canon_modThread (canon_append h))
    · exact keeps_next h
  · exact keeps_next h

theorem canon_qstat (h : Canon s) : Canon (s.qstat a st).2.2 := by
  unfold State.qstat
  dsimp only
  split
  · exact h
  · exact canon_anyWord h

theorem canon_qstatThread (h : Canon s) : Canon (State.qstatThread x y s tid) := by
  unfold State.qstatThread
  dsimp only
  refine canon_withThread h fun _ _ => ?_
  split
  · exact canon_raise h
  split
  · exact canon_park h
  · exact canon_finish (canon_modThread (canon_qstat h))

theorem canon_answerQstat (h : Canon s) : Canon (s.answerQstat c tid) := by
  unfold State.answerQstat
  split
  · split
    · exact h
    · exact canon_modThread (canon_qstat h)
  · exact h

theorem canon_answerQstats (h : Canon s) : Canon s.answerQstats :=
  canon_foldl h fun _ _ h => canon_ite (canon_answerQstat h) h

theorem canon_rangeUnitThread (h : Canon s) : Canon (State.rangeUnitThread x unit s tid) := by
  unfold State.rangeUnitThread
  refine canon_withThread h fun _ _ => ?_
  split
  · exact canon_raise h
  split
  · exact canon_raise h
  · exact canon_finish (canon_modThread (canon_modDie h))

theorem canon_flushLate (h : Canon s) : Canon (s.flushLate c t l) := by
  induction l generalizing s t with
  | nil => exact h
  | cons x l ih =>
    unfold State.flushLate
    split
    · exact h
    split
    · exact ih ((canon_writeAt h).after ‹_›)
    · exact (canon_writeAt h).after ‹_›

theorem canon_stopTransfers (h : Canon s) : Canon (s.stopTransfers c which) := by
  unfold State.stopTransfers
  refine canon_foldl h fun _ _ h1 => ?_
  split
  · exact canon_abortTransfer (canon_flushLate h1)
  · exact h1

theorem canon_abortObject (h : Canon s) : Canon (s.abortObject c b pts phase) := by
  unfold State.abortObject
  split
  · exact h
  · exact canon_updBarrier h

theorem canon_stopDrains (h : Canon s) : Canon (s.stopDrains c which) := by
  unfold State.stopDrains
  refine canon_modCol ?_
  refine canon_foldl h fun _ _ h2 => ?_
  split
  · exact canon_abortObject h2
  · exact h2

theorem canon_stopRasters (h : Canon s) : Canon (s.stopRasters c which) :=
  canon_modCol (canon_foldl h (fun _ _ h => canon_abortObject h))
theorem canon_dropWork (h : Canon s) : Canon (s.dropWork c keep') :=
  canon_ffServeAll (canon_modCol h)
theorem canon_stopEngines (h : Canon s) : Canon (s.stopEngines c) :=
  canon_dropWork (canon_stopRasters (canon_stopDrains (canon_stopTransfers h)))

theorem canon_settleOwner (h : Canon s) : Canon (s.settleOwner die col) := by
  unfold State.settleOwner
  dsimp only
  split
  · exact h
  split
  · exact h
  · exact canon_recount h

theorem canon_freeCrew (h : Canon s) : Canon (s.freeCrew c) :=
  canon_ffServeAll (canon_ite (canon_settleOwner h) (canon_beginReef (canon_settleOwner h)))

theorem canon_leaveTwin (h : Canon s) : Canon (s.leaveTwin c) := by
  unfold State.leaveTwin
  split
  · split
    · exact h
    · exact canon_widow h
  · exact h

theorem keeps_execCrewEnd (h : Canon s) : Keeps (execCrewEnd p s) := by
  unfold execCrewEnd
  split
  · exact keeps_next h
  · exact keeps_next (canon_ite (canon_retire (canon_freeCrew h)) h)

theorem canon_putBack (h : Canon s) : Canon (s.putBack a rs) := by
  unfold State.putBack
  split
  · exact h
  · exact canon_gather (canon_modStage h)

theorem canon_leaveTiles (h : Canon s) : Canon (s.leaveTiles c) := by
  unfold State.leaveTiles
  extract_lets p dropped head left
  have hdrop : Canon dropped := canon_modCrew (canon_dropWork (canon_stopRasters (canon_stopDrains
    (canon_stopTransfers h))))
  clear_value dropped
  have hleft : Canon left := hdrop
  exact canon_ite hleft (canon_beginReef hleft)

theorem canon_restartCrew (h : Canon s) : Canon (s.restartCrew c) :=
  canon_putBack (canon_leaveTwin (canon_ite (canon_leaveTiles h) (canon_freeCrew (canon_stopEngines h))))
theorem canon_restartPair (h : Canon s) : Canon (s.restartPair c d) :=
  canon_putBack (canon_freeCrew (canon_stopEngines (canon_freeCrew (canon_stopEngines h))))

theorem canon_restartAll (h : Canon s) : Canon (s.restartAll c) := by
  unfold State.restartAll
  split
  · exact canon_restartPair h
  · exact canon_restartCrew h

theorem canon_tellLost (h : Canon s) : Canon (s.tellLost cs reply) :=
  canon_foldl h fun _ _ h => canon_crewRecord h
theorem canon_restartTold (h : Canon s) : Canon (s.restartTold c) :=
  canon_restartAll (canon_tellLost h)
theorem canon_killRegion (h : Canon s) : Canon (s.killRegion rcb) :=
  canon_retire (canon_foldl h (fun _ _ h => canon_freeCrew (canon_stopEngines h)))
theorem canon_modSaved (h : Canon s) : Canon (s.modSaved uid f) := h
theorem canon_dropSaved (h : Canon s) : Canon (s.dropSaved uid) := h

theorem canon_goOn (h : Canon s) : Canon (s.goOn p tid a pts) := by
  unfold State.goOn
  split
  · exact canon_endThread h
  · exact canon_modThread h

theorem canon_restartSaved (h : Canon s) : Canon (s.restartSaved a xs) :=
  canon_putBack (canon_foldl (canon_tellLost h) (fun _ _ h => canon_dropSaved h))

theorem canon_applyAction (h : Canon s) (e : s.applyAction t a pts = some s') : Canon s' := by
  unfold State.applyAction at e
  dsimp only at e
  split at e
  · exact Option.some.inj e ▸ canon_killRegion h
  split at e
  · split at e
    · exact Option.some.inj e ▸ h
    · exact nomatch e
  split at e
  · split at e
    · split at e
      · exact Option.some.inj e ▸ canon_goOn h
      · exact nomatch e
    split at e
    · exact Option.some.inj e ▸ canon_ite (canon_goOn h) h
    split at e
    · split at e
      · exact Option.some.inj e ▸ canon_restartTold h
      · exact nomatch e
    · exact nomatch e
  split at e
  · split at e
    · split at e
      · exact Option.some.inj e ▸ canon_modSaved h
      · exact nomatch e
    split at e
    · exact Option.some.inj e ▸ canon_ite (canon_modSaved h) h
    split at e
    · split at e
      · exact Option.some.inj e ▸ canon_modSaved h
      · exact nomatch e
    · exact nomatch e
  split at e
  · exact Option.some.inj e ▸ h
  · exact nomatch e

theorem canon_dispose (h : Canon s) : Canon (s.dispose ticket a src pts).2 := by
  unfold State.dispose
  extract_lets mine
  split
  · exact h
  split
  · exact h
  rename_i e
  exact (canon_applyAction h e).same rfl

theorem keeps_execSyscDispose (h : Canon s) : Keeps (execSyscDispose s) := by
  unfold execSyscDispose
  exact keeps_next (canon_inOrder h (fun _ _ h => canon_withThread h (fun _ _ => canon_ite
    (canon_finish (canon_modThread (canon_dispose h))) (canon_dispose h))))

theorem keeps_execFaultRecordAppend (h : Canon s) : Keeps (execFaultRecordAppend die s) := by
  unfold execFaultRecordAppend
  split
  · exact keeps_next (canon_append h)
  · exact keeps_next h

theorem keeps_execHostRingEntryWrite (h : Canon s) : Keeps (execHostRingEntryWrite k s) := by
  unfold execHostRingEntryWrite
  split
  · exact keeps_next h
  split
  · exact keeps_next h
  · exact keeps_next (canon_ite (canon_sendMsi h) h)

/-! ### Launch -/

theorem canon_readPacket (h : Canon s) : Canon s.readPacket.2 := by
  unfold State.readPacket
  dsimp only
  split
  · exact h
  split
  · exact (canon_devGate h).after ‹_›
  · exact canon_ite_snd ((canon_devGate h).after ‹_›) ((canon_devGate h).after ‹_›)

theorem canon_judgePacket (h : Canon s) : Canon (s.judgePacket p).2 := by
  unfold State.judgePacket
  split
  · rename_i e
    exact (canon_openRegion h).after e
  rename_i e
  have hopen := (canon_openRegion h).after e
  split
  · exact hopen
  split
  · exact hopen
  split
  · exact hopen
  split
  · exact hopen
  split
  · rename_i e
    exact (canon_fwRead hopen).after e
  · rename_i e
    have hread := (canon_fwRead hopen).after e
    exact canon_ite_snd hread hread

theorem canon_startStage (h : Canon s) : Canon (s.startStage a d l) :=
  canon_modDie (canon_modStage h)

theorem canon_completeWord (h : Canon s) : Canon (s.completeWord va status index) := by
  unfold State.completeWord
  split
  · exact canon_devStore ((canon_checkNow h).after ‹_›)
  · exact canon_hostStore ((canon_checkNow h).after ‹_›)
  · exact canon_regWrite ((canon_checkNow h).after ‹_›)
  · exact canon_logFirmware ((canon_checkNow h).after ‹_›)

theorem canon_finishPacket (h : Canon s) : Canon (s.finishPacket done flags status) :=
  canon_retire (canon_ite (canon_sendMsi (canon_ite h (canon_completeWord h))) (canon_ite h (canon_completeWord h)))
theorem canon_deliverLaunch (h : Canon s) : Canon (s.deliverLaunch l) :=
  canon_finishPacket (canon_ite (canon_startStage h) (canon_append h))

theorem canon_advanceLaunch (h : Canon s) : Canon (s.advanceLaunch l) := by
  unfold State.advanceLaunch
  split
  · exact canon_finishPacket h
  split
  · exact h
  split
  · exact h
  split
  · exact canon_deliverLaunch h
  · exact h

theorem keeps_execLaunchPacket (h : Canon s) : Keeps (execLaunchPacket s) := by
  unfold execLaunchPacket
  split
  · exact keeps_next h
  split
  · exact keeps_next (canon_advanceLaunch h)
  split
  · rename_i e
    exact keeps_next (canon_logFirmware (((canon_readPacket h).after e).same rfl))
  rename_i hp
  have hread := (canon_readPacket h).after hp
  split
  · rename_i e
    exact keeps_next (canon_finishPacket ((canon_judgePacket hread).after e))
  rename_i e
  exact keeps_next (canon_advanceLaunch (((canon_judgePacket hread).after e).same rfl))

theorem keeps_execRemoteEnqAccept (h : Canon s) : Keeps (execRemoteEnqAccept die s) := by
  unfold execRemoteEnqAccept
  dsimp only
  split
  · exact keeps_next h
  split
  · exact keeps_next (canon_deliverLaunch h)
  · exact keeps_next h
  split
  · split
    · exact keeps_next h
    split
    · exact keeps_next (canon_park h)
    · exact keeps_next (canon_modThread h)
  split
  · exact keeps_next (canon_append h)
  split
  · exact keeps_next (canon_park (canon_append h))
  · exact keeps_next (canon_modThread (canon_append h))

theorem canon_sendDown (h : Canon s) : Canon (s.sendDown die given) := canon_modDie h
theorem canon_sendUp (h : Canon s) : Canon (s.sendUp die cluster m) := canon_modDie h
theorem canon_takeGrants (h : Canon s) : Canon (s.takeGrants die cluster l) := h

theorem keeps_execHalyardMessage (h : Canon s) : Keeps (execHalyardMessage die cluster dir s) := by
  unfold execHalyardMessage
  split
  · refine keeps_next ?_
    split
    · exact canon_takeGrants (canon_modDie h)
    · exact canon_modDie h
  refine keeps_next ?_
  split
  · exact canon_modDie (canon_modDie h)
  · exact canon_modDie h

theorem canon_grantColumns (h : Canon s) : Canon (s.grantColumns die) := by
  unfold State.grantColumns
  exact canon_sendDown (canon_modDie (canon_ite_snd h (canon_shuffle h)))

theorem canon_pickSlot (h : Canon s) : Canon (s.pickSlot die col).2 := by
  unfold State.pickSlot
  exact canon_pick h

theorem canon_placeCrew (h : Canon s) (e : s.placeCrew a d col rs first = some (p, s')) : Canon s' := by
  unfold State.placeCrew at e
  split at e
  · cases e
  obtain ⟨-, rfl⟩ := Prod.mk.inj (Option.some.inj e)
  exact canon_pickSlot (die := d.die) (col := col) h

theorem canon_placeFormed (h : Canon s) (e : s.placeFormed a d col f = some (ps, s')) : Canon s' := by
  unfold State.placeFormed at e
  split at e
  · exact nomatch e
  · rename_i hp _
    obtain ⟨-, rfl⟩ := Prod.mk.inj (Option.some.inj e)
    exact canon_placeCrew h hp
  rename_i hp _
  split at e
  · exact nomatch e
  rename_i hq
  obtain ⟨-, rfl⟩ := Prod.mk.inj (Option.some.inj e)
  exact canon_modCrew (canon_modCrew (canon_placeCrew (canon_placeCrew h hp) hq))

theorem canon_bindStop (h : Canon s) : Canon (s.bindStop c i tid b) := by
  unfold State.bindStop
  split
  · split <;> exact canon_modCrew ((canon_askPage h).after ‹_›)
  · exact canon_modCrew h

theorem canon_bindWalk (h : Canon s) : Canon (s.bindWalk c a) :=
  canon_modCrew (canon_queueWalkFor h)

theorem canon_bindRead (h : Canon s) (hf : ∀ l s, Canon s → Canon (f l s)) : Canon (s.bindRead c i tid a n f) := by
  unfold State.bindRead
  split
  · exact (canon_bindWalk h).same rfl
  split
  · exact canon_bindStop ((canon_fwRead h).after ‹_›)
  · exact hf _ _ ((canon_fwRead h).after ‹_›)

theorem canon_bindOne (h : Canon s) : Canon (s.bindOne c d i tid) :=
  canon_bindRead h fun _ _ h => canon_ite (canon_bindStop h) (canon_ite (canon_bindStop h) (canon_bindRead h
    (fun _ _ h => canon_ite h (canon_ite (canon_bindStop h) (canon_modCrew (canon_acceptCopy h))))))

theorem canon_prologue (h : Canon s) : Canon (State.prologue n p s) := by
  induction n generalizing s with
  | zero => exact h
  | succ n ih =>
    unfold State.prologue
    dsimp only
    split
    · exact h
    split
    · exact h
    · exact ih (canon_bindOne h)

theorem canon_runPrologue (h : Canon s) : Canon (s.runPrologue p) := canon_prologue h

theorem keeps_execCrewLaunch (h : Canon s) : Keeps (execCrewLaunch a col s) := by
  unfold execCrewLaunch
  split
  · exact keeps_next h
  split
  · exact keeps_next h
  rename_i e
  refine keeps_next (canon_foldl ?_ fun _ _ h => canon_runPrologue h)
  have hplaced := canon_placeFormed h e
  exact (canon_sendUp (canon_modStage hplaced)).same rfl

theorem canon_bindingError (h : Canon s) : Canon (s.bindingError c e) :=
  canon_retire (canon_leaveTwin (canon_freeCrew (canon_crewRecord h)))

theorem keeps_execCrewStart (h : Canon s) : Keeps (execCrewStart p s) := by
  unfold execCrewStart
  dsimp only
  split
  · exact keeps_next (canon_runPrologue h)
  split
  · exact keeps_next (canon_runPrologue h)
  split
  · split
    · exact keeps_next (canon_runPrologue h)
    · exact keeps_next (canon_bindingError (canon_runPrologue h))
  split
  · exact keeps_next (canon_modCrew (canon_runPrologue h))
  · exact keeps_next (canon_runPrologue h)

/-! ### Misses -/

theorem canon_engineGo (h : Canon s) : Canon (s.engineGo die f) := h

theorem canon_performWalked (h : Canon s) : Canon (s.performWalked ms) := by
  unfold State.performWalked
  dsimp only
  split
  · exact h
  split
  · exact canon_foldl h fun _ _ h => canon_park h
  split
  · exact canon_foldl h fun _ _ h => canon_modThread h
  · split <;> exact canon_foldl h fun _ _ h => canon_modThread h

theorem canon_performAll (h : Canon s) : Canon (s.performAll l) :=
  canon_foldl h fun _ _ h => canon_performWalked h

theorem canon_hintGo (h : Canon s) : Canon (s.hintGo die col h') := by
  unfold State.hintGo
  split
  · exact canon_prefetch h
  · exact canon_prefetchCode h

theorem canon_hintsGo (h : Canon s) : Canon (s.hintsGo die f) :=
  canon_foldl h fun _ _ h => canon_foldl (canon_modCol h) fun _ _ h => canon_hintGo h
theorem canon_missesGo (h : Canon s) : Canon (s.missesGo die f) :=
  canon_hintsGo (canon_engineGo (canon_performAll h))

theorem canon_missesMet (h : Canon s) : Canon s.missesMet := by
  unfold State.missesMet
  exact canon_missesGo (canon_missesGo h)

/-! ### Cycle -/

theorem canon_tickClock (h : Canon s) : Canon s.tickClock := h

theorem canon_linkCycle (h : Canon s) : Canon s.linkCycle := by
  unfold State.linkCycle
  dsimp only
  split
  · exact h
  split
  · exact canon_transmit (canon_pick h)
  · exact canon_pick h

theorem canon_serveOldest (h : Canon s) (hf : ∀ s x1 x2 x3, Canon s → Canon (run s x1 x2 x3)) :
    Canon (s.serveOldest die col f run) := by
  unfold State.serveOldest
  dsimp only
  split
  · exact h
  split
  · exact h
  · exact hf _ _ _ _ h

theorem canon_serveCopy (h : Canon s) : Canon (s.serveCopy die col) := by
  unfold State.serveCopy
  refine canon_serveOldest h fun _ _ _ _ h1 => ?_
  split
  · exact canon_xcopyThread h1
  · exact h1

theorem canon_serveLut (h : Canon s) : Canon (s.serveLut die col) := by
  unfold State.serveLut
  refine canon_serveOldest h fun _ _ _ _ h1 => ?_
  split
  · exact canon_xlutThread h1
  · exact h1

theorem canon_prologues (h : Canon s) : Canon s.prologues :=
  canon_foldl h fun _ _ h => canon_runPrologue h

theorem canon_lineServed (h : Canon s) : Canon s.lineServed :=
  canon_prologues (canon_setsServed (canon_foldl (canon_foldl h (fun _ _ h => canon_serveCopy h))
    (fun _ _ h => canon_serveLut h)))

theorem keeps_meeting (h : Keeps o) : Keeps (meeting o) := by
  cases o with
  | next s =>
    have hmet : Canon s.lineServed.meetAll := canon_meetAll (canon_lineServed h)
    exact keeps_next (hmet.same rfl)
  | fault r => exact h
  | refused r => exact h

theorem canon_settle (h : Canon s) : Canon s.settle :=
  canon_prologues (canon_foldl (canon_answerQstats (canon_retrySets (canon_wakeBarriers (canon_wakeLines
    (canon_missesMet h))))) (fun _ _ h => canon_serveLut (canon_serveCopy h)))

theorem keeps_execIssueCycle (h : Canon s) : Keeps (execIssueCycle s) := by
  unfold execIssueCycle
  split
  · exact keeps_next (canon_tickClock (canon_linkCycle h))
  extract_lets s1 s2 places sets
  have hfetch : Canon s2 := canon_fetchAll (canon_meetAll (canon_linkCycle (canon_settle h)))
  clear_value s2
  have hshuffle : Canon (State.shuffle sets.length s2 sets).2 := canon_shuffle hfetch
  exact keeps_next (hshuffle.same rfl)

/-! ### Display -/

theorem keeps_execScanoutFieldStart (h : Canon s) : Keeps (execScanoutFieldStart die s) := by
  unfold execScanoutFieldStart
  extract_lets put s1 o s2
  have hput : ∀ s f, Canon s → Canon (put s f) := fun _ _ h => canon_modDie h
  have h1 : Canon s1 := hput _ _ h
  have h2 : Canon s2 := by
    refine canon_ite (hput _ _ h1) (canon_ite (hput _ _ h1) ?_)
    split
    · exact hput _ _ ((canon_fwRead h1).after ‹_›)
    · exact hput _ _ ((canon_fwRead h1).after ‹_›)
  exact keeps_next (canon_napEvent (hput _ _ h2))

theorem canon_countSensor (h : Canon s) : Canon s.countSensor := canon_modDie h

theorem canon_generationWords (h : Canon s) : Canon s.generationWords.2 := by
  unfold State.generationWords
  refine canon_foldl_snd h fun _ _ h1 => ?_
  split
  · exact h1
  · exact (canon_fwRead h1).after ‹_›
  · exact canon_ite_snd ((canon_fwRead h1).after ‹_›) (canon_countSensor ((canon_fwRead h1).after ‹_›))

theorem canon_bumpWord (h : Canon s) : Canon (s.bumpWord va).2 := by
  unfold State.bumpWord
  split
  · exact canon_ite_snd (canon_countSensor ((canon_checkNow h).after ‹_›)) (canon_devStore
      ((canon_checkNow h).after ‹_›))
  · exact canon_ite_snd (canon_store (canon_passStore (canon_drainOut ((canon_checkNow h).after ‹_›))))
      (canon_countSensor ((canon_checkNow h).after ‹_›))
  · exact canon_countSensor ((canon_checkNow h).after ‹_›)

theorem canon_bumpWords (h : Canon s) : Canon (s.bumpWords ws).2 := by
  unfold State.bumpWords
  exact canon_foldl_snd h fun _ _ h => canon_bumpWord h

theorem canon_poseUpdate (h : Canon s) : Canon (s.poseUpdate x ws) := by
  unfold State.poseUpdate
  exact canon_napEvent (canon_modDie (canon_bumpWords (canon_modDie h)))

theorem keeps_execSensorPacket (h : Canon s) : Keeps (execSensorPacket p s) := by
  unfold execSensorPacket
  split
  · exact keeps_next (canon_countSensor h)
  split
  · exact keeps_next (canon_countSensor h)
  refine keeps_next ?_
  split
  · exact canon_countSensor ((canon_generationWords h).after ‹_›)
  · exact canon_poseUpdate ((canon_generationWords h).after ‹_›)

theorem keeps_execPoseMirror (h : Canon s) : Keeps (execPoseMirror s) := by
  unfold execPoseMirror
  split
  · exact keeps_next h
  · exact keeps_next (canon_napEvent (canon_modDie (canon_modDie h)))

/-! ### Save -/

theorem canon_sealCrew (h : Canon s) : Canon (s.sealCrew why c) := canon_modCrew (canon_modCol h)
theorem canon_unseal (h : Canon s) : Canon (s.unseal c) := h

theorem canon_saveEntry (h : Canon s) : Canon (s.saveEntry c).2 := by
  unfold State.saveEntry
  dsimp only
  split <;> exact (canon_fwRead h).after ‹_›

theorem canon_checkImage (h : Canon s) : Canon (s.checkImage m l).2 := by
  induction l generalizing s with
  | nil => exact h
  | cons x l ih =>
    unfold State.checkImage
    split
    · exact (canon_checkNow h).after ‹_›
    · exact (canon_checkNow h).after ‹_›
    · exact (canon_checkNow h).after ‹_›
    split
    · exact canon_ite_snd (ih ((canon_checkNow h).after ‹_›)) (canon_pick ((canon_checkNow h).after ‹_›))
    · exact (canon_checkNow h).after ‹_›

theorem canon_contextLost (h : Canon s) : Canon (s.contextLost cs) := by
  unfold State.contextLost
  split
  · exact h
  · split
    · exact canon_restartCrew (canon_tellLost h)
    · exact canon_killRegion (canon_tellLost h)
  split
  · exact canon_restartPair (canon_tellLost h)
  · exact canon_killRegion (canon_tellLost h)

theorem canon_endFenced (h : Canon s) : Canon (s.endFenced c) :=
  canon_retire (canon_leaveTwin (canon_freeCrew (canon_stopEngines (canon_crewRecord h))))
theorem canon_abandonSave (h : Canon s) : Canon (s.abandonSave c b) :=
  canon_logFirmware (canon_unseal h)

theorem canon_preempt (h : Canon s) : Canon (s.preempt die excluded) := by
  unfold State.preempt
  dsimp only
  split
  · exact h
  · split <;> exact h

theorem keeps_execColumnGrant (h : Canon s) : Keeps (execColumnGrant die s) := by
  unfold execColumnGrant
  dsimp only
  split
  · dsimp only
    split
    · exact keeps_next h
    · exact keeps_next (canon_preempt (canon_grantColumns h))
  split
  · exact keeps_next h
  · exact keeps_next (canon_preempt (canon_grantColumns h))

theorem canon_trySeal (h : Canon s) : Canon (s.trySeal c why) := by
  unfold State.trySeal
  dsimp only
  split
  · exact canon_foldl h fun _ _ h => canon_sealCrew h
  · exact h

/-- To unfold the recursion the kernel would run the checks of an image, so the proof sets in their place any two functions
that keep the canonical form. -/
theorem canon_checkSaves (h : Canon s) : Canon (s.checkSaves w b l cs).2 := by
  obtain ⟨entry, hentry, e⟩ : ∃ entry, (∀ s c, Canon s → Canon (entry s c).2) ∧ State.saveEntry = entry :=
    ⟨_, fun _ _ => canon_saveEntry, rfl⟩
  obtain ⟨check, hcheck, e'⟩ : ∃ check, (∀ s m l, Canon s → Canon (check s m l).2) ∧ State.checkImage = check :=
    ⟨_, fun _ _ _ => canon_checkImage, rfl⟩
  delta State.checkSaves State.checkSaves._f
  rw [e, e']
  clear e e'
  induction l generalizing s with
  | nil => exact h
  | cons c t ih =>
    dsimp only [List.brecOn, List.brecOn.go] at ih ⊢
    split
    · next e => exact (hentry _ _ h).after e
    next e =>
    have he := (hentry _ _ h).after e
    split
    · exact he
    split
    · next e => exact (hcheck _ _ _ he).after e
    next e =>
    have hi := ih ((hcheck _ _ _ he).after e)
    split
    · next e => exact hi.after e
    · next e => exact hi.after e

theorem canon_writeImage (h : Canon s) : Canon (s.writeImage c a o).2 := by
  unfold State.writeImage
  extract_lets m l
  split
  · exact (canon_fwWrite h).after ‹_›
  rename_i hw
  split
  · rename_i hr
    exact (canon_fwRead ((canon_fwWrite h).after hw)).after hr
  rename_i hr
  exact (canon_fwRead ((canon_fwWrite h).after hw)).after hr

theorem canon_writeImages (h : Canon s) : Canon (s.writeImages l).2 := by
  induction l generalizing s with
  | nil => exact h
  | cons x l ih =>
    unfold State.writeImages
    split
    · exact ih ((canon_writeImage h).after ‹_›)
    · exact canon_writeImage h

theorem canon_commitSave (h : Canon s) : Canon (s.commitSave c a o pair) :=
  canon_modStage (canon_freeCrew (canon_piecesWrite h))
theorem canon_fenceThreads (h : Canon s) : Canon (s.fenceThreads c) :=
  canon_foldl h fun _ _ h => canon_fault h

theorem canon_saveFails (h : Canon s) : Canon (s.saveFails cs why b) := by
  unfold State.saveFails
  split
  · exact h
  split
  · exact canon_foldl h fun _ _ h => canon_endFenced h
  split
  · exact canon_preempt (canon_foldl h (fun _ _ h => canon_abandonSave h))
  · exact canon_foldl h fun _ _ h => canon_abandonSave h

theorem canon_writeAndCommit (h : Canon s) : Canon (s.writeAndCommit cs why l) := by
  have hfence : Canon (if why = .fencing then cs.foldl State.fenceThreads s else s) :=
    canon_ite (canon_foldl h fun _ _ h => canon_fenceThreads h) h
  unfold State.writeAndCommit
  extract_lets s1
  have hwritten : Canon (s1.writeImages l).2 := canon_writeImages hfence
  split
  · rename_i e
    exact canon_foldl (hwritten.after e) fun _ _ h => canon_commitSave h
  · rename_i e
    exact canon_contextLost ((hwritten.after e).same rfl)
  rename_i e
  exact canon_saveFails ((hwritten.after e).same rfl)

theorem canon_saveNow (h : Canon s) : Canon (s.saveNow c why) := by
  unfold State.saveNow
  dsimp only
  split
  · exact h
  split
  · exact canon_saveFails ((canon_checkSaves h).after ‹_›)
  split
  · exact canon_contextLost ((canon_checkSaves h).after ‹_›)
  · exact canon_writeAndCommit ((canon_checkSaves h).after ‹_›)

theorem keeps_execCrewSave (h : Canon s) : Keeps (execCrewSave p why s) := by
  unfold execCrewSave
  split
  · exact keeps_next h
  split
  · split
    · exact keeps_next h
    · exact keeps_next (canon_ite (canon_trySeal h) h)
  · exact keeps_next (canon_ite h (canon_saveNow h))
  · exact keeps_next h

theorem keeps_execSaveTimeout (h : Canon s) : Keeps (execSaveTimeout p s) := by
  unfold execSaveTimeout
  split
  · exact keeps_next h
  split
  · split
    · exact keeps_next h
    · exact keeps_next (canon_preempt (canon_foldl h (fun _ _ h => canon_abandonSave h)))
  · exact keeps_next h

theorem canon_applyNoted (h : Canon s) : Canon (s.applyNoted p c l) := by
  unfold State.applyNoted
  dsimp only
  refine canon_foldl h fun _ _ h1 => ?_
  split
  · split
    · exact canon_fault h1
    · exact h1
  split
  · exact canon_fault h1
  split
  · exact h1
  · exact canon_goOn h1

theorem canon_restartNoted (h : Canon s) : Canon (s.restartNoted xs) := by
  unfold State.restartNoted
  split
  · exact canon_restartTold h
  · exact h

theorem canon_restoreScratch (h : Canon s) : Canon (s.restoreScratch x d col image) := by
  unfold State.restoreScratch
  split
  · exact h
  · exact canon_modCol (canon_recount h)

/-- To unfold the recursion the kernel would run the read of an image, so the proof sets in its place any function that keeps
the canonical form. -/
theorem canon_readImages (h : Canon s) : Canon (s.readImages d b l).2 := by
  obtain ⟨read, hread, e⟩ : ∃ read, (∀ s m c a n, Canon s → Canon (read s m c a n).2) ∧ State.fwRead = read :=
    ⟨_, fun _ _ _ _ _ => canon_fwRead, rfl⟩
  delta State.readImages State.readImages._f
  rw [e]
  clear e
  induction l generalizing s with
  | nil => exact h
  | cons x t ih =>
    dsimp only [List.brecOn, List.brecOn.go] at ih ⊢
    split
    · next e => exact (hread _ _ _ _ _ h).after e
    next e =>
    have hi := ih ((hread _ _ _ _ _ h).after e)
    split
    · next e => exact hi.after e
    · next e => exact hi.after e

theorem canon_savedLost (h : Canon s) : Canon (s.savedLost a xs) := by
  unfold State.savedLost
  split
  · exact canon_restartSaved h
  · exact canon_killRegion (canon_tellLost h)

theorem canon_resumeOne (h : Canon s) : Canon (s.resumeOne d p twin x l) := by
  unfold State.resumeOne
  split
  · exact canon_foldl (canon_applyNoted (canon_fwWrite (canon_restoreScratch (canon_dropSaved h)))) fun _ _ h =>
      canon_fault h
  · exact canon_applyNoted (canon_fwWrite (canon_restoreScratch (canon_dropSaved h)))

theorem keeps_execCrewResume (h : Canon s) : Keeps (execCrewResume a col s) := by
  unfold execCrewResume
  split
  · exact keeps_next h
  split
  · exact keeps_next h
  split
  · exact keeps_next h
  split
  · rename_i e
    have hread := (canon_readImages h).after e
    exact keeps_next (canon_ite (canon_savedLost hread) hread)
  rename_i e
  have hread := (canon_readImages h).after e
  split
  · exact keeps_next (canon_restartNoted (canon_resumeOne (canon_pickSlot hread)))
  · exact keeps_next (canon_restartNoted (canon_resumeOne (canon_resumeOne (canon_pick (canon_pick hread)))))
  · exact keeps_next hread

/-! ### Translation -/

theorem canon_bindRefused (h : Canon s) : Canon (s.bindRefused c b) := canon_modCrew h
theorem canon_pageFound (h : Canon s) : Canon (s.pageFound die e ws) :=
  canon_missesGo (canon_modDie (canon_install h))
theorem canon_dropHints (h : Canon s) : Canon (s.dropHints die page) := h

theorem canon_walkStops (h : Canon s) : Canon (s.walkStops die page c level entry) :=
  canon_foldl (canon_foldl (canon_foldl (canon_foldl h (fun _ _ h => canon_ite (canon_fault h) (canon_take h)))
    (fun _ _ h => canon_failFf h)) (fun _ _ h => canon_stopTransfer h)) (fun _ _ h => canon_bindRefused h)

theorem canon_walkAsked (h : Canon s) : Canon (s.walkAsked die page level entry toHost) :=
  canon_foldl h fun _ _ h => canon_modThread h

theorem canon_walkFailed (h : Canon s) : Canon (s.walkFailed die w c level entry) := by
  unfold State.walkFailed
  dsimp only
  split
  · exact canon_dropHints h
  split
  · exact canon_walkStops (canon_dropHints h)
  split
  · exact canon_walkAsked ((canon_askPageFor (canon_dropHints h)).after ‹_›)
  · exact canon_walkStops ((canon_askPageFor (canon_dropHints h)).after ‹_›)

theorem keeps_execWalkComplete (h : Canon s) : Keeps (execWalkComplete die page s) := by
  unfold execWalkComplete
  dsimp only
  split
  · exact keeps_next h
  split
  · exact keeps_next (canon_pageFound (canon_modDie h))
  · exact keeps_next (canon_walkFailed (canon_ite (canon_modDie h) (canon_logWalk (canon_modDie h))))

theorem canon_storeEntry (h : Canon s) : Canon (s.storeEntry die at_' level e).2 :=
  canon_coreReaches (canon_touch (canon_modDie (canon_modDie (canon_setStamp (canon_store h)))))
theorem canon_dropEntry (h : Canon s) : Canon (s.dropEntry at_') := h
theorem canon_raiseFloors (h : Canon s) : Canon (s.raiseFloors stamp) := h

theorem canon_changeEntry (h : Canon s) : Canon (s.changeEntry die at_' level e).2 :=
  canon_raiseFloors (canon_coreReaches (canon_touch (canon_modDie (canon_modDie (canon_setStamp
    (canon_store (canon_dropEntry h)))))))

theorem canon_pageMapped (h : Canon s) : Canon (s.pageMapped die page toHost) :=
  canon_engineGo (canon_wakeWhere h)

theorem canon_refuseThread (h : Canon s) : Canon (s.refuseThread p tid t) := by
  unfold State.refuseThread
  split
  · exact canon_fault h
  · exact h

theorem canon_pageRefused (h : Canon s) : Canon (s.pageRefused die page toHost) := by
  unfold State.pageRefused
  have hthreads : ∀ s : State, Canon s → Canon s := fun _ h => h
  refine Canon.same (canon_foldl (canon_foldl (canon_foldl (canon_foldl h ?_) ?_) ?_) ?_) rfl
  · exact fun s c h => canon_foldl h fun s x h => canon_ite (canon_refuseThread h) h
  · exact fun s x h => canon_failFf h
  · exact fun s x h => canon_stopTransfer h
  · exact fun s x h => canon_bindRefused h

theorem canon_answerPage (h : Canon s) : Canon (s.answerPage die page toHost map) := by
  unfold State.answerPage
  dsimp only
  split
  · exact h
  split
  · exact canon_pageMapped (canon_modDie h)
  · exact canon_pageRefused (canon_modDie h)

theorem canon_installEntry (h : Canon s) : Canon (s.installEntry die at_' level e) := by
  unfold State.installEntry
  split
  · exact h
  split
  · exact canon_changeEntry h
  · exact canon_storeEntry h

theorem keeps_execPagingServiceReply (h : Canon s) : Keeps (execPagingServiceReply die page a s) := by
  unfold execPagingServiceReply
  split
  · exact keeps_next h
  split
  · exact keeps_next (canon_ite h (canon_answerPage (canon_installEntry h)))
  · exact keeps_next (canon_answerPage h)

theorem keeps_execLeafChange (h : Canon s) : Keeps (execLeafChange ch s) := by
  unfold execLeafChange
  split
  · exact keeps_next h
  split
  · exact keeps_next h
  refine keeps_next ?_
  split
  · exact canon_modDie (canon_changeEntry h)
  · exact canon_changeEntry h

/-! ### HostLink -/

theorem canon_registerStore (h : Canon s) : Canon (s.registerStore m d off size v) := by
  unfold State.registerStore
  split
  · exact h
  split
  · split
    · exact canon_regWrite h
    · exact h
  split
  · exact h
  split
  · exact canon_regWrite ((canon_gate h).after ‹_›)
  · exact (canon_gate h).after ‹_›

theorem canon_bar2Check (h : Canon s) : Canon (s.bar2Check off n k).2 := by
  unfold State.bar2Check
  split
  · exact h
  · split <;> exact (canon_devGate h).after ‹_›

theorem canon_reply (h : Canon s) : Canon (s.reply r) := canon_drainOut h

theorem canon_bar2Bytes (h : Canon s) : Canon (s.bar2Bytes a n).2 :=
  canon_ite_snd (canon_anyBytes (canon_foldl h (fun _ _ h => canon_touch (canon_setStamp h)))) (canon_foldl h
    (fun _ _ h => canon_touch (canon_setStamp h)))

theorem canon_bar2Store (h : Canon s) : Canon (s.bar2Store a l) :=
  canon_foldl h fun _ _ h => canon_touch (canon_modDie (canon_modDie (canon_setStamp (canon_store h))))

theorem canon_bar0Read (h : Canon s) : Canon (s.bar0Read off n) := by
  unfold State.bar0Read
  split
  · exact canon_reply h
  split
  · exact canon_reply h
  · split <;> exact canon_reply ((canon_gate h).after ‹_›)

theorem keeps_execHostBar2Read (h : Canon s) : Keeps (execHostBar2Read at_' size s) := by
  unfold execHostBar2Read
  split
  · exact keeps_next h
  split
  · exact keeps_next (canon_bar0Read h)
  split
  · exact keeps_next (canon_reply ((canon_bar2Check h).after ‹_›))
  · exact keeps_next (canon_reply (canon_bar2Bytes ((canon_bar2Check h).after ‹_›)))

theorem keeps_execHostBar2Write (h : Canon s) : Keeps (execHostBar2Write off bytes s) := by
  unfold execHostBar2Write
  split
  · exact keeps_next h
  split
  · exact keeps_next ((canon_bar2Check h).after ‹_›)
  · exact keeps_next (canon_bar2Store ((canon_bar2Check h).after ‹_›))

theorem keeps_execHostAtomicop (h : Canon s) : Keeps (execHostAtomicop off size op s) := by
  unfold execHostAtomicop
  split
  · exact keeps_next h
  split
  · exact keeps_next (canon_reply h)
  split
  · exact keeps_next (canon_reply ((canon_bar2Check h).after ‹_›))
  · exact keeps_next (canon_reply (canon_bar2Store (canon_bar2Bytes ((canon_bar2Check h).after ‹_›))))

theorem canon_abortHostWork (h : Canon s) : Canon (s.abortHostWork c) :=
  canon_ffServeAll (canon_stopRasters (canon_stopDrains (canon_foldl h (fun _ _ h => canon_abortTransfer
    (canon_countDetread h)))))

theorem canon_refuseHostPages (h : Canon s) : Canon s.refuseHostPages :=
  canon_foldl h fun _ _ h => canon_foldl h fun _ _ h => canon_answerPage h
theorem canon_detachRegions (h : Canon s) : Canon s.detachRegions :=
  canon_foldl h fun _ _ h => canon_foldl h fun _ _ h => canon_fault h

theorem keeps_execHostDetach (h : Canon s) : Keeps (execHostDetach s) := by
  unfold execHostDetach
  split
  · exact keeps_next h
  · exact keeps_next (canon_napEvent (canon_detachRegions (canon_refuseHostPages
      (canon_foldl (canon_foldl h (fun _ _ h => canon_fault h)) (fun _ _ h => canon_abortHostWork h)))))

/-! ### Loader -/

theorem canon_writeCode (h : Canon s) : Canon (s.writeCode leaves a l) := by
  unfold State.writeCode
  split
  · exact h
  · exact canon_foldl h fun _ _ h => canon_coreReaches (canon_devStore h)

theorem canon_writeBlock (h : Canon s) : Canon (s.writeBlock leaves b) := by
  unfold State.writeBlock
  exact List.foldlRecOn (motive := fun x : State × List W8 => Canon x.1) _ _ h fun x hx _ _ => canon_writeCode hx

theorem canon_invalidateCode (h : Canon s) : Canon (s.invalidateCode b) := h

theorem canon_makeExecutable (h : Canon s) : Canon (s.makeExecutable leaves) := by
  unfold State.makeExecutable
  refine canon_raiseFloors (canon_foldl_snd h fun r l h => ?_)
  exact (canon_coreReaches (canon_devStore (canon_dropEntry h))).same rfl

theorem canon_loadCode (h : Canon s) : Canon (s.loadCode container va length).2 := by
  unfold State.loadCode
  refine canon_ite_snd h ?_
  split
  · rename_i e
    exact (canon_fwRead h).after e
  rename_i e
  have hhead := (canon_fwRead h).after e
  refine canon_ite_snd hhead ?_
  split
  · rename_i e
    exact (canon_fwRead hhead).after e
  rename_i e
  have hread := (canon_fwRead hhead).after e
  refine canon_ite_snd hread ?_
  split
  · exact hread
  split
  · exact hread
  refine canon_ite_snd hread (canon_makeExecutable ?_)
  exact canon_foldl (canon_foldl hread fun _ _ h => canon_writeBlock h) fun _ _ h => canon_invalidateCode h

/-! ### Mailbox -/

theorem canon_endCommand (h : Canon s) : Canon (s.endCommand status) := by
  unfold State.endCommand
  exact canon_sendMsi h

theorem canon_endWith (h : Canon s) : Canon (s.endWith l) := canon_endCommand h
theorem keeps_command (h : Canon s) (hf : ∀ s, Canon s → Canon (f s)) : Keeps (s.command code f) :=
  keeps_next (canon_ite (hf _ h) h)

theorem keeps_execDispose (h : Canon s) : Keeps (execDispose s) := by
  unfold execDispose
  exact keeps_command h fun _ h => canon_endWith (canon_dispose h)

theorem keeps_execPagereply (h : Canon s) : Keeps (execPagereply s) :=
  keeps_command h fun _ h => canon_ite (canon_endCommand h) (canon_endCommand (canon_answerPage (canon_answerPage h)))
theorem keeps_execClearkill (h : Canon s) : Keeps (execClearkill s) :=
  keeps_command h fun _ h => canon_endCommand h

theorem keeps_execQread (h : Canon s) : Keeps (execQread s) := by
  unfold execQread
  dsimp only
  refine keeps_command h fun _ h1 => ?_
  split
  · exact canon_endCommand h1
  split
  · exact canon_endCommand h1
  · exact canon_endWith h1

theorem keeps_execQdrain (h : Canon s) : Keeps (execQdrain s) := by
  unfold execQdrain
  dsimp only
  refine keeps_command h fun _ h1 => ?_
  split
  · exact canon_endCommand h1
  split
  · exact canon_endCommand h1
  · exact canon_retire (canon_endWith (canon_modStage h1))

theorem keeps_execQlaunch (h : Canon s) : Keeps (execQlaunch s) := by
  unfold execQlaunch
  refine keeps_command h fun s h => ?_
  refine canon_ite (canon_endCommand h) ?_
  split
  · exact canon_endCommand ((canon_openRegion h).after ‹_›)
  rename_i hr
  have hopen := (canon_openRegion h).after hr
  split
  · exact canon_retire (canon_endCommand hopen)
  refine canon_ite (canon_retire (canon_endCommand hopen)) ?_
  split
  · rename_i e
    exact canon_retire (canon_endCommand ((canon_fwRead hopen).after e))
  rename_i e
  have hread := (canon_fwRead hopen).after e
  split
  · exact canon_retire (canon_endCommand hread)
  rename_i ep
  refine canon_endCommand (Canon.same (canon_foldl ?_ fun _ _ h => canon_runPrologue h) rfl)
  exact canon_placeFormed hread ep

theorem keeps_execGsreset (h : Canon s) : Keeps (execGsreset s) := by
  unfold execGsreset
  refine keeps_command h fun s h => ?_
  dsimp only
  split
  · exact canon_endCommand h
  · exact canon_endCommand ((canon_modDie h).same rfl)

theorem keeps_execColstate (h : Canon s) : Keeps (execColstate s) :=
  keeps_command h fun _ h => canon_ite (canon_endCommand h) (canon_endWith h)
theorem keeps_execCounts (h : Canon s) : Keeps (execCounts s) :=
  keeps_command h fun _ h => canon_endWith h
theorem keeps_execAttest (h : Canon s) : Keeps (execAttest s) :=
  keeps_command h fun _ h => canon_endWith h

theorem keeps_execLoadcode (h : Canon s) : Keeps (execLoadcode s) := by
  unfold execLoadcode
  refine keeps_command h fun s h => ?_
  split
  · exact canon_endCommand ((canon_loadCode h).after ‹_›)
  · exact (canon_loadCode h).after ‹_›
  · exact canon_endWith ((canon_loadCode h).after ‹_›)

/-! ### Peal -/

/-- The instructions that a PEAL runs (02 R43). -/
theorem keeps_pealWord (i : Instr) (h : Canon s) : ∀ f ∈ pealWord i, Keeps (f s) := by
  cases i with
  | add | addc | sub | subb | and | or | xor | andn | shl | shr | sar | rotl | min | max | minu | maxu | mul | mulh
  | mulhu | divs | divu | rems | remu | addw | subw | shlw | shrw | bprm | lea | neg | abs | not | clz | ctz | popc
  | brev | mov | icmp | sel | bfx | bfi | mad | icmpi | addi | andi | ori | xori | shli | shri | sari | moviLo
  | moviSx | moviHi | fadd | fsub | fmul | fdiv | fmin | fmax | fcls | frnd | fcmp | frcp | frsq | fsqt | fexp
  | flog | fspi | fcpi | ffma | hadd2 | hsub2 | hmul2 | hmin2 | hmax2 | hfma2F16 | hfma2Bf16 | hcmp2 | cadd | csub
  | cmul | cmag | carg | cexi | crot | cfmaFp16 | cfmaBf16 | cfmaFp32 | twid | cvt | qpack | qunpk | qscl | rng
  | cbop | cbmvGet | cbmvPut | cbmvGetAll | cbmvPutAll =>
    exact keeps_mem_some (keeps_each h)
  | ldg =>
    exact keeps_mem_some (keeps_next (canon_inAnyOrder h (fun _ _ h => canon_ldgThread h)))
  | stg =>
    exact keeps_mem_some (keeps_next (canon_inAnyOrder h (fun _ _ h => canon_stgThread h)))
  | ldl =>
    exact keeps_mem_some (keeps_next (canon_inAnyOrder h (fun _ _ h => canon_ldlThread h)))
  | stl =>
    exact keeps_mem_some (keeps_next (canon_inAnyOrder h (fun _ _ h => canon_stlThread h)))
  | ldt =>
    exact keeps_mem_some (keeps_next (canon_inAnyOrder h (fun _ _ h => canon_ldtThread h)))
  | stt =>
    exact keeps_mem_some (keeps_next (canon_inAnyOrder h (fun _ _ h => canon_sttThread h)))
  | atom | atomn =>
    exact keeps_mem_some (keeps_next (canon_inAnyOrder h (fun _ _ h => canon_atomThread h)))
  | cas =>
    exact keeps_mem_some (keeps_next (canon_inAnyOrder h (fun _ _ h => canon_atomicThread h)))
  | pref =>
    exact keeps_mem_some (keeps_next (canon_inOrder h (fun _ _ h => canon_prefThread h)))
  | _ => exact fun f e => nomatch e

theorem canon_pealParity (h : Canon s) : Canon (s.pealParity p tids w i).2 := by
  unfold State.pealParity
  split
  · exact h
  · exact canon_takeAll h

theorem canon_pealAhead (h : Canon s) : Canon (State.pealAhead n s r).2 := by
  induction n generalizing s r with
  | zero => exact h
  | succ n ih =>
    unfold State.pealAhead
    split
    · exact h
    split
    · exact ih (canon_pealParity h)
    · exact h

theorem canon_joinPts (h : Canon s) : Canon (s.joinPts p tids pts) :=
  canon_foldl h fun _ _ h => canon_setPts h

theorem canon_runWord (h : Canon s) : Canon (s.runWord r x).2 := by
  unfold State.runWord
  split
  · rename_i i _
    have hstart : Canon ((s.joinPts r.place x.tids r.pts).pealParity r.place (s.walked r x) x.word i).2 :=
      canon_pealParity (canon_joinPts h)
    refine canon_foldl ?_ fun _ _ h => canon_modThread h
    split
    · exact hstart
    rename_i f hf
    split
    · rename_i hrun
      refine Keeps.after (keeps_pealWord i ?_ _ hf) hrun
      exact hstart
    · exact hstart
  · exact h

theorem canon_holdPeal (h : Canon s) : Canon (s.holdPeal r) :=
  canon_foldl (canon_modCol h) fun _ _ h => canon_modThread h

theorem canon_endPeal (h : Canon s) : Canon (s.endPeal r) :=
  canon_foldl (canon_foldl (canon_foldl (canon_modCol h) (fun _ _ h => canon_modThread h))
    (fun _ _ h => canon_ite (canon_take h) h)) (fun _ _ h => canon_modThread h)

theorem canon_pealSlot (h : Canon s) : Canon (s.pealSlot r) := by
  unfold State.pealSlot
  dsimp only
  split
  · exact canon_endPeal (canon_pealAhead h)
  split
  · exact canon_endPeal (canon_pealAhead (canon_runWord (canon_pealAhead h)))
  · exact canon_holdPeal (canon_pealAhead (canon_runWord (canon_pealAhead h)))

/-! ### Power -/

theorem canon_powerOff (h : Canon s) : Canon s.powerOff := ⟨wf_nil, h.2⟩
theorem canon_chooseColumns (h : Canon s) : Canon (s.chooseColumns pass').2 :=
  canon_ite_snd h (canon_shuffle h)

theorem canon_booted (h : Canon s) : Canon (s.booted b) := by
  unfold State.booted
  split
  · exact h
  · exact ⟨wf_nil, h.2⟩

theorem canon_broughtUp (h : Canon s) : Canon (s.broughtUp l0 l1 trained) := h

theorem canon_resetBringUp (h : Canon s) : Canon (s.resetBringUp b) := by
  unfold State.resetBringUp
  split
  · exact canon_booted h
  · exact canon_broughtUp (canon_chooseColumns (canon_chooseColumns (canon_booted h)))

theorem canon_poison (h : Canon s) : Canon { s with poison := l } := h

theorem canon_dump (h : Canon s) : Canon (s.dump cause die) := by
  unfold State.dump
  exact canon_poison (canon_store (canon_store h))

theorem keeps_execFatalError (h : Canon s) : Keeps (execFatalError cause die s) := by
  unfold execFatalError
  split
  · exact keeps_next h
  · exact keeps_next (canon_dump (canon_sendMsi h))

theorem keeps_execDieFreeze (h : Canon s) : Keeps (execDieFreeze die s) := by
  unfold execDieFreeze
  split
  · exact keeps_next h
  · exact keeps_next (canon_sendMsi (canon_modDie h))

/-! ### Reliability -/

theorem canon_everyThread (h : Canon s) : Canon (s.everyThread c cause) :=
  canon_foldl h fun _ _ h => canon_fault h

theorem canon_resetCrew (h : Canon s) : Canon (s.resetCrew c) := by
  unfold State.resetCrew
  dsimp only
  split
  · exact h
  split
  · exact canon_restartAll (canon_modCrew (canon_modCol (canon_stopDrains (canon_stopTransfers h))))
  · exact canon_everyThread (canon_modCrew (canon_modCol (canon_stopDrains (canon_stopTransfers h))))

theorem keeps_execMatrixEngineHang (h : Canon s) : Keeps (execMatrixEngineHang die col s) := by
  unfold execMatrixEngineHang
  split
  · exact keeps_next h
  · exact keeps_next (canon_foldl (canon_modCol h) (fun _ _ h => canon_resetCrew h))

theorem keeps_execMatrixEngineResetComplete (h : Canon s) : Keeps (execMatrixEngineResetComplete die col s) := by
  unfold execMatrixEngineResetComplete
  split
  · exact keeps_next h
  · exact keeps_next (canon_retrySets (canon_modCol h))

theorem canon_markHot (h : Canon s) : Canon (s.markHot die col) := by
  unfold State.markHot
  split
  · exact h
  · exact canon_sendMsi (canon_modCol h)

theorem canon_moveScratch (h : Canon s) : Canon (s.moveScratch die col toCol owner) := by
  unfold State.moveScratch
  have hcount : Canon (s.setCount die toCol (s.col die col).count (some owner)) := canon_setCount h
  exact canon_setCount (hcount.same rfl)

theorem canon_moveCrews (h : Canon s) : Canon (s.moveCrews cs die col toCol) := by
  unfold State.moveCrews
  refine canon_modCol ?_
  split
  · exact canon_moveScratch ((canon_shuffle h).same rfl)
  · exact (canon_shuffle h).same rfl

theorem keeps_execThermalMigration (h : Canon s) : Keeps (execThermalMigration p toCol s) := by
  unfold execThermalMigration
  dsimp only
  split
  · exact keeps_next h
  split
  · split
    · exact keeps_next (canon_markHot h)
    · exact keeps_next (canon_foldl (canon_markHot h) (fun _ _ h => canon_modCrew (canon_sealCrew h)))
  · split
    · exact keeps_next h
    split
    · exact keeps_next (canon_moveCrews h)
    · exact keeps_next (canon_abandonMove h)
  · exact keeps_next h

theorem canon_fenceWork (h : Canon s) : Canon (s.fenceWork c) :=
  canon_stopDrains (canon_stopTransfers h)

theorem canon_fenceCrew (h : Canon s) : Canon (s.fenceCrew c) := by
  unfold State.fenceCrew
  dsimp only
  split
  · exact h
  split
  · exact canon_modCrew h
  split
  · exact canon_restartTold (canon_modCrew h)
  split
  · split <;> exact canon_modCrew (canon_modCrew h)
  · exact canon_modCrew (canon_modCrew h)
  · exact canon_modCrew (canon_modCrew h)

theorem canon_fenceColumn (h : Canon s) : Canon (s.fenceColumn die col info) := by
  unfold State.fenceColumn
  dsimp only
  split
  · exact h
  · exact canon_foldl (canon_foldl (canon_modDie (canon_modDie (canon_modCol h)))
      (fun _ _ h => canon_fenceWork h)) (fun _ _ h => canon_fenceCrew h)

theorem canon_pickLines (h : Canon s) : Canon (s.pickLines l).2 := by
  induction l generalizing s with
  | nil => exact h
  | cons x l ih =>
    unfold State.pickLines
    exact ih h

theorem keeps_execRemapScrub (h : Canon s) : Keeps (execRemapScrub die bank upper lower s) := by
  unfold execRemapScrub
  dsimp only
  split
  · exact keeps_next (canon_fenceColumn (canon_pick (canon_pickLines (canon_modDie h))))
  · exact keeps_next (canon_modDie h)

/-! ### Uniform -/

theorem keeps_uniform (h : Canon s) : Keeps (s.uniform d f) := by
  unfold State.uniform
  split
  · exact keeps_next h
  · exact keeps_next (canon_inOrder (canon_modCrew h) (fun _ _ h => canon_finish h))

theorem keeps_uniform2 (h : Canon s) : Keeps (s.uniform2 f d a b) := keeps_uniform h
theorem keeps_execUcmp (h : Canon s) : Keeps (execUcmp cc d a b s) := keeps_uniform2 h

/-! ### Dispatch -/

/-- Every instruction and every event keeps the two memories canonical. -/
theorem keeps_exec (h : Canon s) : Keeps (exec i s) := by
  have hpeal := keeps_pealWord i h
  unfold exec
  cases i with
  | add | addc | sub | subb | and | or | xor | andn | shl | shr | sar | rotl | min | max | minu | maxu | mul | mulh
  | mulhu | divs | divu | rems | remu | addw | subw | shlw | shrw | bprm | lea | neg | abs | not | clz | ctz | popc
  | brev | mov | icmp | sel | bfx | bfi | mad | icmpi | addi | andi | ori | xori | shli | shri | sari | moviLo
  | moviSx | moviHi | fadd | fsub | fmul | fdiv | fmin | fmax | fcls | frnd | fcmp | frcp | frsq | fsqt | fexp
  | flog | fspi | fcpi | ffma | hadd2 | hsub2 | hmul2 | hmin2 | hmax2 | hfma2F16 | hfma2Bf16 | hcmp2 | cadd | csub
  | cmul | cmag | carg | cexi | crot | cfmaFp16 | cfmaBf16 | cfmaFp32 | twid | cvt | qpack | qunpk | qscl | rng
  | cbop | cbmvGet | cbmvPut | cbmvGetAll | cbmvPutAll | ldg | stg | ldl | stl | ldt | stt | atom | atomn | cas
  | pref =>
    exact hpeal _ rfl
  | movs | bfly | shufIdx | shufXor | shufUp | shufDown | voteAll | voteAny | voteBallot | nop => exact keeps_each h
  | movt => exact keeps_next (canon_inOrder h (fun _ _ h1 => canon_movtThread h1))
  | scway => exact keeps_next (canon_inOrder h (fun _ _ h1 => canon_withThread h1 (fun _ _ => canon_pushReef h1)))
  | scfl =>
    exact keeps_next (canon_inOrder h (fun _ _ h1 => canon_withThread h1 (fun _ _ => canon_ite (canon_raise h1)
      (canon_pushReef h1))))
  | scwayComplete => exact keeps_execScwayComplete h
  | scflComplete => exact keeps_execScflComplete h
  | trap | brk => exact keeps_next (canon_inOrder h (fun _ _ h1 => canon_raise h1))
  | eret => exact keeps_next (canon_inOrder h (fun _ _ h1 => canon_leave h1))
  | xcopy => exact keeps_next (canon_inOrder h (fun _ _ h1 => canon_xcopyThread h1))
  | xlut => exact keeps_next (canon_inOrder h (fun _ _ h1 => canon_xlutThread h1))
  | obres | obrel | obld | obgat | mma | mmac | mdft | mdrn | mzro | tkget | tkput | mtwn | conv =>
    exact keeps_sign h
  | acld =>
    exact keeps_next (canon_inOrder h (fun _ _ h1 => canon_elementThread (fun _ _ _ h2 => canon_modThread h2) h1))
  | acst =>
    exact keeps_next (canon_inOrder h (fun _ _ h1 => canon_elementThread (fun _ _ _ h2 => canon_withThread h2
      (fun _ _ => canon_modCrew h2)) h1))
  | enq | enqNb => exact keeps_next (canon_inOrder h (fun _ _ h1 => canon_enqThread h1))
  | range => exact keeps_next (canon_inOrder h (fun _ _ h1 => canon_rangeUnitThread h1))
  | qstat => exact keeps_next (canon_inOrder h (fun _ _ h1 => canon_qstatThread h1))
  | tex => exact keeps_next (canon_inOrder h (fun _ _ h1 => canon_texThread h1))
  | trav => exact keeps_next (canon_inOrder h (fun _ _ h1 => canon_travThread h1))
  | rast => exact keeps_next (canon_inOrder h (fun _ _ h1 => canon_rastThread h1))
  | bra | bc => exact keeps_next (canon_inOrder h (fun _ _ h1 => canon_modThread h1))
  | call | calli =>
    exact keeps_next (canon_inOrder h (fun _ _ h1 => canon_withThread h1 (fun _ _ => canon_callTo h1)))
  | callc =>
    exact keeps_next (canon_inOrder h (fun _ _ h1 => canon_withThread h1 (fun _ _ => canon_ite (canon_callTo h1)
      (canon_finish h1))))
  | bri => exact keeps_next (canon_inOrder h (fun _ _ h1 => canon_withThread h1 (fun _ _ => canon_modThread h1)))
  | retc =>
    exact keeps_next (canon_inOrder h (fun _ _ h1 => canon_withThread h1 (fun _ _ => canon_ite
      (canon_returnFrom h1) (canon_finish h1))))
  | nap => exact keeps_next (canon_inOrder h (fun _ _ h1 => canon_napThread h1))
  | peal => exact keeps_next (canon_pealSlot h)
  | convInit => exact keeps_next (canon_inOrder h (fun _ _ h => canon_convInitThread h))
  | convQuery | syscIdentity | syscBudget => exact keeps_next (canon_perThread h)
  | fence => exact keeps_next (canon_inOrder h (fun _ _ h => canon_fenceThread h))
  | fenceHostTransmitted => exact keeps_execFenceHostTransmitted h
  | bari => exact keeps_next (canon_inOrder h (fun _ _ h => canon_bariThread h))
  | bara => exact keeps_next (canon_inOrder h (fun _ _ h => canon_baraThread h))
  | barw => exact keeps_next (canon_inOrder h (fun _ _ h => canon_barwThread h))
  | bart => exact keeps_next (canon_inOrder h (fun _ _ h => canon_bartThread h))
  | flsetE | flsetF => exact keeps_next (canon_inOrder h (fun _ _ h => canon_flsetThread h))
  | cwb => exact keeps_execCwb h
  | cinv => exact keeps_execCinv h
  | iinv => exact keeps_execIinv h
  | ipre => exact keeps_next (canon_inOrder h (fun _ _ h => canon_ipreThread h))
  | ipin => exact keeps_execIpin h
  | iunp => exact keeps_execIunp h
  | uadd | usub | uand | uor | uxor | ushl | ushr | usar | umul | umin | umax | ulea => exact keeps_uniform2 h
  | umov | usel | umoviLo | umoviSx | umoviHi => exact keeps_uniform h
  | ucmp => exact keeps_execUcmp h
  | uld => exact keeps_execUld h
  | resetBringUp => exact keeps_next (canon_resetBringUp h)
  | submissionDoorbell | sqctlWrite | detack | framePointerWrite => exact keeps_next (canon_registerStore h)
  | rsizeWrite | registerWrite | scanoutLutWrite => exact keeps_next (canon_ite (canon_registerStore h) h)
  | hostRingEntryWrite => exact keeps_execHostRingEntryWrite h
  | scanoutFieldStart => exact keeps_execScanoutFieldStart h
  | columnGrant => exact keeps_execColumnGrant h
  | crewSave => exact keeps_execCrewSave h
  | saveTimeout => exact keeps_execSaveTimeout h
  | crewResume => exact keeps_execCrewResume h
  | crewTimerLapse => exact keeps_next (canon_modStage h)
  | remoteEnqAccept => exact keeps_execRemoteEnqAccept h
  | enqQueueRoom => exact keeps_execEnqQueueRoom h
  | crewLaunch => exact keeps_execCrewLaunch h
  | crewStart => exact keeps_execCrewStart h
  | crewEnd => exact keeps_execCrewEnd h
  | ageingPromotion | linkRetrain | ptsTick | quiescenceUpdate => exact keeps_next h
  | pageWalk => exact keeps_next (canon_modDie h)
  | walkComplete => exact keeps_execWalkComplete h
  | pagingServiceReply => exact keeps_execPagingServiceReply h
  | taggedReply => exact keeps_execTaggedReply h
  | copySectorRead => exact keeps_execCopySectorRead h
  | copySectorLand => exact keeps_execCopySectorLand h
  | amaxFold => exact keeps_execAmaxFold h
  | obresSpaceFreed => exact keeps_execObresSpaceFreed h
  | matrixEngineHang => exact keeps_execMatrixEngineHang h
  | ffRequestTakeup => exact keeps_execFfRequestTakeup h
  | texReply => exact keeps_execTexReply h
  | travReply => exact keeps_execTravReply h
  | rastRun => exact keeps_execRastRun h
  | thermalMigration => exact keeps_execThermalMigration h
  | columnFence => exact keeps_next (canon_fenceColumn h)
  | faultRecordAppend => exact keeps_execFaultRecordAppend h
  | thermalShutdown => exact keeps_next (canon_ite (canon_powerOff h) h)
  | remapScrub => exact keeps_execRemapScrub h
  | fatalError => exact keeps_execFatalError h
  | dieFreeze => exact keeps_execDieFreeze h
  | halyardMessage => exact keeps_execHalyardMessage h
  | napTimeout => exact keeps_execNapTimeout h
  | yieldExpiry => exact keeps_execYieldExpiry h
  | matrixOperationFinished => exact keeps_execMatrixOperationFinished h
  | matrixEngineResetComplete => exact keeps_execMatrixEngineResetComplete h
  | cwbComplete | cinvComplete | iinvComplete => exact keeps_next (canon_opComplete h)
  | ipinComplete => exact keeps_execIpinComplete h
  | instructionFetchReturn => exact keeps_execInstructionFetchReturn h
  | accessTableWrite => exact keeps_next (canon_ite (canon_writeAccess h) h)
  | hostAtomicop => exact keeps_execHostAtomicop h
  | hostBar2Read => exact keeps_execHostBar2Read h
  | hostBar2Write => exact keeps_execHostBar2Write h
  | sensorPacket => exact keeps_execSensorPacket h
  | leafChange => exact keeps_execLeafChange h
  | syscDispose => exact keeps_execSyscDispose h
  | ret => exact keeps_next (canon_inOrder h (fun _ _ h => canon_returnFrom h))
  | exit => exact keeps_next (canon_inOrder h (fun _ _ h => canon_endThread h))
  | yield => exact keeps_next (canon_inOrder h (fun _ _ h => canon_park (canon_finish h)))
  | fbar => exact keeps_next (canon_inOrder h (fun _ _ h => canon_fbarThread h))
  | launchPacket => exact keeps_execLaunchPacket h
  | dispose => exact keeps_execDispose h
  | pagereply => exact keeps_execPagereply h
  | clearkill => exact keeps_execClearkill h
  | qread => exact keeps_execQread h
  | qdrain => exact keeps_execQdrain h
  | qlaunch => exact keeps_execQlaunch h
  | gsreset => exact keeps_execGsreset h
  | colstate => exact keeps_execColstate h
  | counts => exact keeps_execCounts h
  | attest => exact keeps_execAttest h
  | loadcode => exact keeps_execLoadcode h
  | hostDetach => exact keeps_execHostDetach h
  | poseMirror => exact keeps_execPoseMirror h
  | issueCycle => exact keeps_execIssueCycle h
  | powerLoss => exact keeps_next (canon_powerOff h)

/-! ### Due -/

theorem canon_anyBringUp (h : Canon s) : Canon s.anyBringUp.2 := h
theorem canon_withWalks (h : Canon s) : Canon (s.withWalks i) := h
theorem canon_hold (h : Canon s) : Canon (s.hold i x) := canon_queueWalkFor h

theorem keeps_afterWalks (h : Canon s) (ho : Keeps o) : Keeps (s.afterWalks i o) := by
  cases o with
  | next t =>
    unfold State.afterWalks
    dsimp only
    split
    · exact keeps_next (canon_hold h)
    · exact ho
  | fault r => trivial
  | refused r => trivial

theorem canon_drawn (h : Canon s) (hf : ∀ k s, Canon s → Canon (f k s)) : Canon (s.drawn n f) :=
  hf _ _ (canon_pick h)

theorem canon_strikeCrew (h : Canon s) : Canon (s.strikeCrew c) := by
  unfold State.strikeCrew
  refine canon_drawn h fun _ _ h1 => ?_
  split
  · exact canon_drawn h1 fun _ _ h => canon_drawn h fun _ _ h => canon_modThread h
  · exact canon_drawn h1 fun _ _ h => canon_modCrew h
  · exact canon_drawn h1 fun _ _ h => canon_modCrew h
  · exact canon_drawn h1 fun _ _ h => h

theorem canon_strikeMemory (h : Canon s) : Canon s.strikeMemory := by
  unfold State.strikeMemory
  refine canon_drawn h fun _ _ h1 => ?_
  split
  · exact canon_drawn h1 fun _ _ h => canon_drawn h fun _ _ h => canon_ite h h
  · exact canon_drawn h1 fun _ _ h => canon_ite h h
  · exact canon_drawn h1 fun _ _ h => canon_drawn h fun _ _ h => canon_drawn h fun _ _ h => canon_drawn h
      fun _ _ h => canon_modDie h

theorem canon_strikeFatal (h : Canon s) : Canon s.strikeFatal :=
  canon_drawn h fun _ _ h => canon_drawn h fun _ _ h => h
theorem canon_enumerate (h : Canon s) : Canon s.enumerate :=
  canon_drawn h fun _ _ h => canon_ite h h

theorem canon_strike (h : Canon s) : Canon s.strike := by
  unfold State.strike
  refine canon_drawn h fun _ _ h1 => ?_
  split
  · exact h1
  · exact canon_drawn h1 fun _ _ h => canon_drawn h fun _ _ h => canon_modDie h
  · refine canon_drawn h1 fun _ _ h2 => ?_
    split
    · exact canon_strikeCrew h2
    · exact h2
  · exact canon_strikeMemory h1
  · exact canon_strikeFatal h1
  · exact canon_drawn h1 fun _ _ h => canon_modDie (canon_anyWord h)
  · exact h1

theorem canon_due (h : Canon s) : Canon s.due.2 := by
  unfold State.due
  split
  · exact canon_anyBringUp h
  split
  · exact canon_enumerate h
  split
  · exact h
  split
  · exact h
  split
  · exact h
  · exact canon_pick (canon_strike h)

/-! ### Step -/

theorem keeps_step (h : Canon s) : Keeps (step s) := by
  unfold step
  split
  · split
    · exact keeps_exec h
    · exact keeps_fault
  refine keeps_meeting ?_
  split
  · rename_i g gs _
    have hup : Canon ({ s with pending := gs }.bringUp g).2 := canon_bringUp h
    split
    · exact keeps_next (hup.after ‹_›)
    · exact keeps_exec (hup.after ‹_›)
  split
  · split
    · exact keeps_next h
    split
    · exact keeps_afterWalks (canon_due h) (keeps_exec (canon_withWalks (canon_due h)))
    · exact keeps_afterWalks h (keeps_exec (canon_withWalks h))
  · exact keeps_afterWalks (canon_due h) (keeps_exec (canon_withWalks (canon_due h)))

/-! ### Every step -/

theorem canon_iff_globalWf : Canon s ↔ s.globalWf = true := by
  simp [Canon, State.globalWf]

/-- Settles O60: what a step writes to device memory and to host memory goes through `State.storeBytes` (`canon_store`) or
`Memory.writeL` (`canon_transmit`), which keep the canonical form, so each operation that a step is made of keeps it, and so
does each instruction (`keeps_exec`) and the step itself (`keeps_step`). The canonical form is the model's choice (log 3). -/
theorem memoryStaysCanonical : Obligations.MemoryStaysCanonical := by
  intro s s' hs hstep
  exact canon_iff_globalWf.1 ((keeps_step (canon_iff_globalWf.2 hs)).after hstep)

end Sys2Proof.Laws
end
